-- ==== Sys2Proof/Word.lean ====
section
/-!
DEFINITION. The word types of the MGR-4A, the fields of an encoded instruction, and the records that the
management commands and the other events of the opcode table carry.
-/

namespace Sys2Proof

/-- A 32-bit register or literal half (R23, R57). -/
abbrev Word := BitVec 32

/-- A byte of memory (R5). -/
abbrev Byte := BitVec 8

/-- The forms of an encoding (R57, R59, R62): base layouts B3, BI and BJ, extended X, and their literal forms.
The literal forms of B3 and BI are one encoding where an OP has both (R342); it is named `b3L` there. -/
inductive Form where
  | b3 | bi | bj | b3L | biL | bjL | x | xL
  deriving DecidableEq, Repr

/-- One guard of word 2 (R64, R65): register, bit and sense; register 0x7F is "absent". -/
structure Guard where
  reg   : BitVec 7
  bit   : BitVec 5
  sense : Bool
  deriving DecidableEq, Repr

/-- The absent guard (R65). -/
def Guard.absent : Guard := ⟨0x7F#7, 0#5, false⟩

/-- The fields of an encoded instruction (R59, R63, R64). A base form carries in the fields it does not hold
the settings of R61: SUB 0, all five wait bits 1, CH 0, guards absent, scheduling controls 0. -/
structure Fields where
  form  : Form
  d     : BitVec 7 := 0#7
  a     : BitVec 7 := 0#7
  b     : BitVec 7 := 0#7
  c     : BitVec 7 := 0#7
  e     : BitVec 7 := 0#7
  u     : Bool := false
  sub   : BitVec 8 := 0#8
  wb    : BitVec 5 := 31#5
  ch    : BitVec 3 := 0#3
  g0    : Guard := Guard.absent
  g1    : Guard := Guard.absent
  burst : BitVec 3 := 0#3
  hold  : BitVec 2 := 0#2
  cede  : Bool := false
  imm   : BitVec 8 := 0#8
  off   : BitVec 15 := 0#15
  lit   : BitVec 64 := 0#64
  deriving DecidableEq, Repr

/-- The trap causes (R75). -/
inductive Cause where
  | illegalOp | illegalSub | illegalRsv | illegalForm | illegalOpnd | privOp | illegalCtx | doubleTrap
  | feEmpty | queueEmpty | queueFull | userTrap
  | notPresent | rdDenied | wrDenied | exDenied | amoDenied | privDenied | fmtMismatch | homeMismatch
  | misaligned | scopeInvalid | ownerLost | dataLost
  | accClaim | claspTimeout | watchdog | kqFull | kqBadcfg | preempt | windowOverrun
  deriving DecidableEq, Repr

/-- What a placement or a restore of a team grants (R305): everything Grenlar or the system chooses. The
context number, the root table the system built (R43, R51), the core and its partition, the first group slots,
the first accumulator, the core-pinned page positions, the leaf entries of the image's core-pinned requests, the private
windows, the context frame that the system allocates (R316), and whether a restore packs rows (R23). -/
structure Grant where
  ctx       : Nat
  root      : Nat
  core      : Nat
  partition : Nat
  slots     : List Nat
  accs      : List Nat
  pages     : List Nat
  leaves    : List Nat
  windows   : List Nat
  frame     : Nat := 0
  pack      : Bool := false
  deriving DecidableEq, Repr

/-- A collective's timeout (R256): its set, and the device times in ns at which ranks on other devices have joined. -/
structure ColTimeout where
  set      : Nat
  arrivals : List Nat := []
  deriving DecidableEq, Repr

/-- The fields of QUEUE_CREATE (R298). -/
structure QueueReq where
  qid    : Nat
  ring   : Nat
  count  : Nat
  notify : Nat
  evring : Nat
  ecount : Nat
  tenant : Nat
  partid : Nat
  deriving DecidableEq, Repr

/-- A kernel descriptor of a loaded image (R105), its entry resolved to an address and its text section. -/
structure KernelDesc where
  addr    : Nat
  entry   : Nat
  text    : Nat
  textLen : Nat
  gang    : Bool
  prio    : Nat
  regs    : Nat
  tiles   : Nat
  accs    : Nat
  srows   : Nat
  priv    : Nat
  widf    : BitVec 32
  ext     : List Nat
  feat    : BitVec 128
  reserved : Bool
  deriving DecidableEq, Repr

/-- A policy-routine descriptor of an image (R106): its descriptor index, its fields, the words of its text with the
window's base applied, and the window. -/
structure RoutineDesc where
  index  : Nat
  point  : Nat
  nins   : Nat
  wcet   : Nat
  code   : List Word
  window : Nat
  wsize  : Nat
  deriving DecidableEq, Repr

/-- A page of an image (R44, R88, R107): virtual address, page size 2^k, and the leaf that the runtime builds for it; that
of a core-pinned page names no core and no rows yet (R51). -/
structure PageReq where
  va   : Nat
  size : Nat
  leaf : BitVec 128
  deriving DecidableEq, Repr

/-- LOAD_IMAGE (R309, R328): the bytes of a GRO image, the virtual queue it names, its tenant (16 the hypervisor), and what
the runtime chooses: the image's number, the tenant's partition, a physical frame for each page of the image by its virtual
address, the pocket base of each pocket section, in section order, and the device address of each descriptor's copy. Log
entry 62. -/
structure ImageReq where
  image   : Nat
  qid     : Nat
  tenant  : Nat
  partid  : Nat
  file    : List Byte
  frames  : List (Nat × Nat)
  windows : List Nat
  descs   : List Nat
  deriving DecidableEq, Repr

/-- An arriving fabric request (R327): from its flits' header (R325) the source node, stream, sequence number and window
stamp (R151); access kind 0 load, 1 store, 2 AMO, 3 CAS, physical address, width in bytes, operand and comparand, and AMO
operation. -/
structure FabricReq where
  node   : Nat
  stream : Nat
  seq    : Nat
  win    : Nat := 0
  kind   : Nat
  pa     : Nat
  width  : Nat
  op     : Nat
  data   : BitVec 128
  cmp    : BitVec 64
  deriving DecidableEq, Repr

/-- An import table entry (R327). -/
structure ImportEntry where
  node  : Nat
  base  : Nat
  size  : Nat
  r     : Bool
  w     : Bool
  a     : Bool
  home  : Nat
  loc   : Nat
  deriving DecidableEq, Repr

/-- A fabric aperture (R326). -/
structure Aperture where
  node : Nat
  base : Nat
  size : Nat
  en   : Bool
  deriving DecidableEq, Repr

/-- A collective set (R256): the node of each rank, in rank order, and the timeout in ns. -/
structure CollectiveSet where
  nodes : List Nat
  tmo   : Nat
  deriving DecidableEq, Repr

/-- The contribution that a rank on another device brings to a collective (R256, R257): its SUB, COUNT, ANCHOR
and ROOT, the device time in ns at which it joined, and its bytes as they were read at its SRC (under .q8, what it sends: one E4M3 byte per element, then a
4-byte SC24 scale per block). -/
structure RankData where
  rank   : Nat
  sub    : Nat
  count  : Nat
  anchor : BitVec 16
  root   : Nat
  data   : List Byte
  time   : Nat := 0
  deriving DecidableEq, Repr

/-- A firmware image offered by FW_STAGE (R335), with the granule table that its body gives (R287): granules, each with its
decode mode, that differ from the default table. -/
structure Firmware where
  svn  : Nat
  body : List Byte
  sigE : List Byte
  sigM : List Byte
  granules : List (Nat × Nat) := []
  deriving DecidableEq, Repr

/-- A message endpoint definition (R30). -/
structure EndpointReq where
  num    : Nat
  partid : Nat
  depth  : Nat
  filter : Nat
  deriving DecidableEq, Repr

end Sys2Proof
end

