-- ==== Sys2Proof/Config.lean ====
section
/-!
DEFINITION. What one device fixes (the part's feature mask) and the free values: what the manual leaves open.
A free value has no body, so that nothing can be proved of the value it takes.
-/

namespace Sys2Proof.Config

/-- CAPMASK of an MGR-4A: bits 0–23 are 1 and bits 24–127 are 0 (R79). -/
def capMask : BitVec 128 := 0xFFFFFF#128

/-- The device time, in ns, that passes in step number `tick` (log entry 3). -/
opaque elapsedNs : Nat → Nat

/-- The core cycles that pass in step number `tick` (log entry 3). -/
opaque elapsedCycles : Nat → Nat

/-- A byte of a tile whose contents the manual leaves undefined, at launch (R41) and after lost data (R232): step,
tile, byte number (log entry 7). -/
opaque freeTileByte : Nat → Nat → Nat → BitVec 8

/-- The value a lost load leaves in its destination (R215), by step and lane and register (log entry 8). -/
opaque freeLostWord : Nat → Nat → BitVec 32

/-- What an SFU operation delivers for an input where its bound leaves a choice (R197, R199): a fixed function of
operation and input, used where it meets the bound (log entry 9). -/
opaque sfuResult : Nat → BitVec 32 → BitVec 32

/-- Whether an engine read of a word that a copy overlaps sees the word as it stood or as the operation left it,
by step and address (R253, R259; log entry 10). -/
opaque overlapSeesNew : Nat → Nat → Bool

/-- The bytes a failed collective leaves at DST (R256), by step and offset (log entry 8). -/
opaque freeCollectiveByte : Nat → Nat → BitVec 8

/-- What the system software does with a NOT_PRESENT: 0 maps the page and resumes, 1 parks the team until the
page is mapped, anything else ends the team (R163: "the system software's own decision"), by step (log entry 11). -/
opaque systemAnswer : Nat → Nat

/-- A word of a device window whose layout the manual does not give (page 49 and the rest of a slot page), by step
and address (log entry 13). -/
opaque freeWindowWord : Nat → Nat → BitVec 32

/-- A word of a context frame's header, of a group's control part or of a port's binding there, whose offsets the manual does
not give, by step and address (R316, log entry 61). -/
opaque freeFrameWord : Nat → Nat → BitVec 32

/-- The value current at another device for a word that an accumulator image, a descriptor or an engine reads there,
by step and address: nothing on this device fixes it (log entry 15). -/
opaque remoteWord : Nat → Nat → BitVec 32

/-- How that device answers such a read: 0 with the word, 1 that its owner is lost (R132), else with an error (R297, R327;
log entry 15). -/
opaque remoteAnswer : Nat → Nat → Nat

/-- A policy counter that counts stall cycles, or a figure that the manual gives no value for (R308: QAGE of a queue
with no unstarted record), by step and counter (log entry 18). -/
opaque freeCounter : Nat → Nat → BitVec 32

/-- A field of an event record that the manual gives no value for, by step (log entry 20). -/
opaque freeEventValue : Nat → Nat

/-- The drift of device time, in ns, that is allowed for an interval since the last Sync (R330; log entry 21). -/
opaque driftAllowed : Nat → Nat

/-- The set of an L1 that a line of a context falls into, by context number and virtual line address (R293), the set of a
cluster TLB that a page's entry falls into, by context, virtual base and size exponent (R294), and the set of a slice's
registry that a line falls into (R291): the manual gives their numbers and not their indexing (log entry 72). -/
opaque l1Set : Nat → Nat → Nat
opaque tlbSet : Nat → Nat → Nat → Nat
opaque registrySet : Nat → Nat

/-- Which of several candidates leaves a full structure, by step (R290, R293, R294; log entry 72). -/
opaque victim : Nat → Nat

/-- The part number that ENUMERATE returns (R328; log entry 26). -/
opaque partNumber : BitVec 64

/-- The hash of the firmware image in place and the two signature checks of the boot ROM (R335, R336): the manual
names SHA-384, Ed25519 and ML-DSA-65 and gives no computation (log entry 12). -/
opaque sha384 : List (BitVec 8) → BitVec 384
opaque ed25519Verifies : List (BitVec 8) → List (BitVec 8) → Bool
opaque mldsaVerifies : List (BitVec 8) → List (BitVec 8) → Bool

/-- The two identity signatures of an attestation report, and the certificates that the device holds for the two identity
keys, each by both vendor keys: key, vendor key (R336; log entry 12). -/
opaque identitySign : Nat → List (BitVec 8) → List (BitVec 8)
opaque identityCert : Nat → Nat → List (BitVec 8)

end Sys2Proof.Config
end

