-- ==== Sys2Proof/Machine/Bits.lean ====
section
/-!
DEFINITION. Bit-field, sign-extension and byte-order helpers (R5, R8, R11), and the code of each trap cause (R75).
-/

namespace Sys2Proof.Machine

/-- Bits `h:l` of a number, as an unsigned value (R8). -/
def bits (x h l : Nat) : Nat := x / 2 ^ l % 2 ^ (h + 1 - l)

/-- The value of the low `n` bits of `x` read as two's complement (R11). -/
def signExt (x n : Nat) : Int :=
  let y := x % 2 ^ n
  if 2 * y < 2 ^ n then (y : Int) else (y : Int) - 2 ^ n

/-- `Sat(x, lo, hi)` (R11). -/
def sat (x lo hi : Int) : Int := if x < lo then lo else if hi < x then hi else x

/-- A 32-bit pattern of an integer: the low 32 bits of its two's-complement form (R8). -/
def word (x : Int) : Word := BitVec.ofInt 32 x

/-- Low and high halves of a 64-bit value in a register pair (R6). -/
def lo32 (x : BitVec 64) : Word := x.setWidth 32
def hi32 (x : BitVec 64) : Word := (x >>> 32).setWidth 32
def pair64 (lo hi : Word) : BitVec 64 := hi ++ lo

/-- Byte `i` of a value, little-endian (R5). -/
def byteOf (x i : Nat) : Byte := BitVec.ofNat 8 (x / 2 ^ (8 * i))

/-- The number a list of bytes holds, lowest address first (R5). -/
def leNat : List Byte → Nat
  | [] => 0
  | b :: bs => b.toNat + 256 * leNat bs

/-- The first `n` bytes of a number, lowest address first (R5). -/
def leBytes : Nat → Nat → List Byte
  | 0, _ => []
  | n + 1, x => BitVec.ofNat 8 x :: leBytes n (x / 256)

/-- The lane numbers of a group, ascending (R7). -/
def allLanes : List Nat := List.range 32

/-- The mask with the bits of `ls` set. -/
def maskOf (ls : List Nat) : BitVec 32 := ls.foldl (fun m l => m ||| BitVec.twoPow 32 l) 0#32

/-- Bit `l` of a lane mask. -/
def laneBit (m : BitVec 32) (l : Nat) : Bool := m.getLsbD l

/-- The quarter of a lane (R7). -/
def quarter (l : Nat) : Nat := l / 8

/-- The quarters that hold a lane of `ls`, ascending (R25, R227). -/
def quartersOf (ls : List Nat) : List Nat := (List.range 4).filter fun q => ls.any fun l => quarter l == q

/-- The lowest-numbered lane of an ascending list (R155). -/
def lowest (ls : List Nat) : Nat := ls.headD 0

end Sys2Proof.Machine

namespace Sys2Proof

/-- The 8-bit code of a cause (R75). -/
def Cause.code : Cause → Nat
  | .illegalOp => 0x01 | .illegalSub => 0x02 | .illegalRsv => 0x03 | .illegalForm => 0x04 | .illegalOpnd => 0x05
  | .privOp => 0x06 | .illegalCtx => 0x07 | .doubleTrap => 0x0F | .feEmpty => 0x10 | .queueEmpty => 0x11
  | .queueFull => 0x12 | .userTrap => 0x18 | .notPresent => 0x20 | .rdDenied => 0x21 | .wrDenied => 0x22
  | .exDenied => 0x23 | .amoDenied => 0x24 | .privDenied => 0x25 | .fmtMismatch => 0x26 | .homeMismatch => 0x27
  | .misaligned => 0x28 | .scopeInvalid => 0x29 | .ownerLost => 0x30 | .dataLost => 0x31 | .accClaim => 0x38
  | .claspTimeout => 0x39 | .watchdog => 0x3A | .kqFull => 0x3B | .kqBadcfg => 0x3C | .preempt => 0x40
  | .windowOverrun => 0x41

/-- The causes. -/
def allCauses : List Cause :=
  [.illegalOp, .illegalSub, .illegalRsv, .illegalForm, .illegalOpnd, .privOp, .illegalCtx, .doubleTrap, .feEmpty, .queueEmpty,
    .queueFull, .userTrap, .notPresent, .rdDenied, .wrDenied, .exDenied, .amoDenied, .privDenied, .fmtMismatch, .homeMismatch,
    .misaligned, .scopeInvalid, .ownerLost, .dataLost, .accClaim, .claspTimeout, .watchdog, .kqFull, .kqBadcfg, .preempt,
    .windowOverrun]

/-- The cause of a code. -/
def causeOf (n : Nat) : Option Cause := allCauses.find? fun c => c.code == n

/-- The bit of TROUTE that routes a cause, or none where the routing is fixed (R75, R162). -/
def Cause.routeBit (c : Cause) : Option Nat :=
  let n := c.code
  if 0x01 ≤ n ∧ n ≤ 0x07 then some (n - 0x01)
  else if 0x10 ≤ n ∧ n ≤ 0x12 then some (7 + (n - 0x10))
  else if n = 0x18 then some 10
  else if 0x21 ≤ n ∧ n ≤ 0x29 then some (11 + (n - 0x21))
  else if n = 0x30 then some 20
  else if n = 0x31 then some 21
  else if n = 0x39 then some 22
  else if n = 0x3B then some 23
  else if n = 0x3C then some 24
  else if n = 0x41 then some 25
  else none

end Sys2Proof
end

