-- ==== Sys2Proof/Syntax.lean ====
section
/-!
DEFINITION. The instructions and the other steps of the MGR-4A: one constructor for each row of
spec/opcode_table.json. A row with an encoding carries its `Fields`; an event row carries what the event brings
with it (the manual's free choices included: which operation goes on, which grant placement makes).
-/

namespace Sys2Proof

/-- One row of the opcode table. -/
inductive Instr where
  /-- NOP (R152): Advances each executing lane's PC by 4 and does nothing else. -/
  | nop (f : Fields)
  /-- BRA (R152): Sets each executing lane's PC to PC plus the signed word offset, or to the literal target under BJ+L. -/
  | bra (f : Fields)
  /-- BRC (R152): Branches the lanes that the guards select by OFF21 words, while excluded lanes fall through. -/
  | brc (f : Fields)
  /-- BRX (R152): Branches each lane to the address in its register pair, optionally writing a link pair. -/
  | brx (f : Fields)
  /-- CALL (R152): Writes the return address into the link pair and branches by offset or to the literal target. -/
  | call (f : Fields)
  /-- RET (R152): Sets each lane's PC to the address held in its register pair. -/
  | ret (f : Fields)
  /-- LOOPB (R153): Increments the counter register and branches back BOFF words until the bound is reached, then resets the counter to 0. -/
  | loopb (f : Fields)
  /-- EXIT (R154): Sets each executing lane's PC to all ones and clears its park bit; in a policy routine it ends the routine with the current DEC values. -/
  | exit (f : Fields)
  /-- YIELD (R154): Advances each executing lane, sets its park bit and resets the team's watchdog count. -/
  | yield (f : Fields)
  /-- WAITC (R156): Stalls the group until the named class counter is at most n. -/
  | waitc (f : Fields)
  /-- BAR (R157): Performs REL team, arrives in the team barrier phase, stalls until the phase completes, then performs ACQ team. -/
  | bar (f : Fields)
  /-- BAR_PHASE_COMPLETE (R157): A team barrier phase reaches its count, or every live group has arrived, and the waiting groups proceed. -/
  | barPhaseComplete (ctx : Nat)
  /-- GBAR_SYNC (R158): Arrives in the gang phase with REL dev, then waits for it to complete and performs ACQ dev. -/
  | gbarSync (f : Fields)
  /-- GBAR_ARRIVE (R158): Performs REL dev and marks the group arrived in the gang's current phase. -/
  | gbarArrive (f : Fields)
  /-- GBAR_WAIT (R158): Stalls until the phase of the group's last arrival completes, then performs ACQ dev. -/
  | gbarWait (f : Fields)
  /-- GBAR_PHASE_COMPLETE (R158): Every team of the gang has arrived, so the gang phase completes and waiting groups proceed. -/
  | gbarPhaseComplete (gang : Nat)
  /-- TWAIT (R159): Stalls the group until the given window starts or device time reaches the value. -/
  | twait (f : Fields)
  /-- TWAIT_EXPIRE (R159): Device time reaches a waiting group's TWAIT condition, and the group becomes eligible within 2 core cycles. -/
  | twaitExpire (g : Nat)
  /-- MOVC (R160): Reads the indexed control register into D for each executing lane. -/
  | movc (f : Fields)
  /-- MOVC_TIMELO (R160): Reads TIMELO, returning device time bits 31:0 and latching bits 63:32 for the group's TIMEHI. -/
  | movcTimelo (f : Fields)
  /-- MOVTC (R161): Writes a control register that has no behaviour of its own from A, after checking the register's layout. -/
  | movtc (f : Fields)
  /-- MOVTC_QMAP (R29): A QMAP write waits until the port has no outstanding operation, then discards its buffer and applies the new binding, checking message endpoints for kind 4. -/
  | movtcQmap (f : Fields)
  /-- MOVTC_PARKMASK (R18): A PARKMASK write advances the executing lanes and then sets the park bits written. -/
  | movtcParkmask (f : Fields)
  /-- MOVTC_PART (R38): A PART write sets the partition tile size from the next instruction. -/
  | movtcPart (f : Fields)
  /-- MOVTC_ACCST (R35): An ACCST register write sets each quarter unit's inexact and overflow flags from that quarter's lowest executing lane. -/
  | movtcAccst (f : Fields)
  /-- MOVTC_TC (R228): A TCk write sets the tile shape, sets RT from TYPE and resets every scale slot to 1.0. -/
  | movtcTc (f : Fields)
  /-- TRAP (R165): Raises USER_TRAP in every executing lane. -/
  | trap (f : Fields)
  /-- TRET (R166): Returns each executing handler lane to TEPC and removes it from HMASK, clearing H when HMASK is empty. -/
  | tret (f : Fields)
  /-- IADD (R173): Writes A plus B into D, wrapping or saturating by SUB. -/
  | iadd (f : Fields)
  /-- IADD_IMM (R342): Adds the sign-extended immediate to A and writes D. -/
  | iaddImm (f : Fields)
  /-- ISUB (R173): Writes A minus B into D, wrapping or saturating by SUB. -/
  | isub (f : Fields)
  /-- ISUB_IMM (R342): Subtracts the sign-extended immediate from A and writes D. -/
  | isubImm (f : Fields)
  /-- IMUL (R173): Writes the low 32 bits of A times B into D. -/
  | imul (f : Fields)
  /-- IMUL_IMM (R342): Multiplies A by the immediate and writes the low 32 bits into D. -/
  | imulImm (f : Fields)
  /-- IMULH (R173): Writes the high 32 bits of the signed or unsigned product into D. -/
  | imulh (f : Fields)
  /-- IMULH_IMM (R342): Writes the high 32 bits of A times the immediate into D. -/
  | imulhImm (f : Fields)
  /-- IMIN (R173): Writes the smaller of A and B, signed or unsigned, into D. -/
  | imin (f : Fields)
  /-- IMIN_IMM (R342): Writes the smaller of A and the immediate into D. -/
  | iminImm (f : Fields)
  /-- IMAX (R173): Writes the larger of A and B, signed or unsigned, into D. -/
  | imax (f : Fields)
  /-- IMAX_IMM (R342): Writes the larger of A and the immediate into D. -/
  | imaxImm (f : Fields)
  /-- AND (R173): Writes A AND B into D. -/
  | and (f : Fields)
  /-- AND_IMM (R342): Writes A AND the sign-extended immediate into D. -/
  | andImm (f : Fields)
  /-- OR (R173): Writes A OR B into D. -/
  | or (f : Fields)
  /-- OR_IMM (R342): Writes A OR the sign-extended immediate into D. -/
  | orImm (f : Fields)
  /-- XOR (R173): Writes A XOR B into D. -/
  | xor (f : Fields)
  /-- XOR_IMM (R342): Writes A XOR the sign-extended immediate into D. -/
  | xorImm (f : Fields)
  /-- ANDN (R173): Writes A AND NOT B into D. -/
  | andn (f : Fields)
  /-- ANDN_IMM (R342): Writes A AND NOT the sign-extended immediate into D. -/
  | andnImm (f : Fields)
  /-- SHL (R176): Shifts A left by the count in B, giving 0 for counts of 32 or more. -/
  | shl (f : Fields)
  /-- SHL_IMM (R342): Shifts A left by the zero-extended immediate count. -/
  | shlImm (f : Fields)
  /-- SHR (R176): Shifts A right logically by the count in B. -/
  | shr (f : Fields)
  /-- SHR_IMM (R342): Shifts A right logically by the zero-extended immediate count. -/
  | shrImm (f : Fields)
  /-- SAR (R176): Shifts A right arithmetically by the count in B. -/
  | sar (f : Fields)
  /-- SAR_IMM (R342): Shifts A right arithmetically by the zero-extended immediate count. -/
  | sarImm (f : Fields)
  /-- ROT (R176): Rotates A left by the count in B modulo 32. -/
  | rot (f : Fields)
  /-- ROT_IMM (R342): Rotates A left by the zero-extended immediate count. -/
  | rotImm (f : Fields)
  /-- IABS (R174): Writes the absolute value of A as a signed value into D. -/
  | iabs (f : Fields)
  /-- MOV (R174): Copies A to D, popping or pushing a queue port element when a port is named. -/
  | mov (f : Fields)
  /-- POPC (R174): Writes the number of 1 bits of A into D. -/
  | popc (f : Fields)
  /-- CLZ (R174): Writes the count of leading zero bits of A into D. -/
  | clz (f : Fields)
  /-- BREV (R174): Writes A with its bit order reversed into D. -/
  | brev (f : Fields)
  /-- MOVI (R175): Writes the sign-extended immediate, or literal bits 31:0, into D. -/
  | movi (f : Fields)
  /-- IADDC (R177): Adds A, B and a carry bit, writing the sum into D and the carry out into C:E. -/
  | iaddc (f : Fields)
  /-- ISUBB (R177): Subtracts B and a borrow bit from A, writing the difference into D and the borrow out into C:E. -/
  | isubb (f : Fields)
  /-- IMAD (R178): Writes A times B plus C, modulo 2^32, into D. -/
  | imad (f : Fields)
  /-- IMADW (R178): Writes the 64-bit sum of the exact product of A and B and pair C into pair D. -/
  | imadw (f : Fields)
  /-- ICMP (R179): Writes the result of an integer comparison into bit E of D. -/
  | icmp (f : Fields)
  /-- SEL (R180): Writes A or B into D according to bit E of C. -/
  | sel (f : Fields)
  /-- LEA (R183): Forms pair A plus the index shifted by E into pair D, modulo 2^64. -/
  | lea (f : Fields)
  /-- BFE (R181): Extracts a bit field of A and zero- or sign-extends it into D. -/
  | bfe (f : Fields)
  /-- BFI (R181): Inserts the low bits of A into a field of C and writes the result into D. -/
  | bfi (f : Fields)
  /-- BYTX (R182): Selects or fills four bytes from A and C by selectors in B, rotates them, and writes D. -/
  | bytx (f : Fields)
  /-- FADD (R186): Writes the FP32 sum of A and B, rounded to nearest even. -/
  | fadd (f : Fields)
  /-- FSUB (R186): Writes the FP32 difference of A and B, rounded to nearest even. -/
  | fsub (f : Fields)
  /-- FMUL (R186): Writes the FP32 product of A and B, rounded to nearest even. -/
  | fmul (f : Fields)
  /-- FFMA (R186): Writes A times B plus C, rounded once to FP32. -/
  | ffma (f : Fields)
  /-- FMIN (R187): Writes the smaller FP32 operand, with NaN handling chosen by SUB. -/
  | fmin (f : Fields)
  /-- FMAX (R187): Writes the larger FP32 operand, with NaN handling chosen by SUB. -/
  | fmax (f : Fields)
  /-- FCMP (R188): Writes the result of an FP32 comparison into bit E of D. -/
  | fcmp (f : Fields)
  /-- FCLASS (R189): Writes a one-hot class mask of the FP32 value A into D. -/
  | fclass (f : Fields)
  /-- FRND (R190): Rounds A to an integer under RM and writes it as FP32. -/
  | frnd (f : Fields)
  /-- CVT (R194): Converts A between float formats, rounding by destination width. -/
  | cvt (f : Fields)
  /-- F2I (R191): Converts FP32 A to a saturated 32-bit integer under RM. -/
  | f2i (f : Fields)
  /-- I2F (R192): Converts a signed or unsigned 32-bit integer to FP32. -/
  | i2f (f : Fields)
  /-- PACK (R195): Converts FP32 A to FP8 or FP4 and writes it into element k of D. -/
  | pack (f : Fields)
  /-- UNPK (R195): Decodes element k of A from FP8 or FP4 into FP32. -/
  | unpk (f : Fields)
  /-- BSCL (R196): Computes an upward-rounded SC24 block scale from the block magnitude in A. -/
  | bscl (f : Fields)
  /-- DUADD (R193): Adds two packed BF16 or FP16 duos element by element. -/
  | duadd (f : Fields)
  /-- DUMUL (R193): Multiplies two packed BF16 or FP16 duos element by element. -/
  | dumul (f : Fields)
  /-- DUFMA (R193): Computes a fused multiply-add on packed 16-bit duos. -/
  | dufma (f : Fields)
  /-- DUMAX (R193): Writes the element-wise maximum of two packed 16-bit duos. -/
  | dumax (f : Fields)
  /-- RCP (R197): Queues an SFU reciprocal of A whose result lands later in D. -/
  | rcp (f : Fields)
  /-- RSQ (R197): Queues an SFU reciprocal square root of A. -/
  | rsq (f : Fields)
  /-- SQRT (R197): Queues an SFU correctly rounded square root of A. -/
  | sqrt (f : Fields)
  /-- EX2 (R197): Queues an SFU computation of 2 to the power A. -/
  | ex2 (f : Fields)
  /-- LG2 (R197): Queues an SFU base-2 logarithm of A. -/
  | lg2 (f : Fields)
  /-- SIN (R197): Queues an SFU sine of A. -/
  | sin (f : Fields)
  /-- COS (R197): Queues an SFU cosine of A. -/
  | cos (f : Fields)
  /-- TANH (R197): Queues an SFU hyperbolic tangent of A. -/
  | tanh (f : Fields)
  /-- SFU_RESULT_LAND (R198): The SFU result queue's oldest entry lands its quarter's results and sets the destination's full bit. -/
  | sfuResultLand (core : Nat)
  /-- VOTE (R205): Combines the predicates of the participating lanes into D and writes the status bit. -/
  | vote (f : Fields)
  /-- SHFL (R206): Gives each lane the value of a source lane in its tile, with a status bit. -/
  | shfl (f : Fields)
  /-- MRED (R207): Reduces values over lanes that share a key and writes the reduction and class mask. -/
  | mred (f : Fields)
  /-- MATCH (R208): Compares keys across the participating lanes and writes a peer mask or leader. -/
  | matchLanes (f : Fields)
  /-- SCAN (R209): Writes an inclusive or exclusive prefix reduction over the tile. -/
  | scan (f : Fields)
  /-- TRED (R210): Writes the tile reduction of the participating lanes' values. -/
  | tred (f : Fields)
  /-- PART (R211): Sets the group's partition tile size and writes each executing lane's tile mask. -/
  | part (f : Fields)
  /-- LD (R216): Checks each lane's address and issues a load whose data lands later under the full/empty bits. -/
  | ld (f : Fields)
  /-- LD_FX (R217): Reads and decodes one format-page element per lane as FP32. -/
  | ldFx (f : Fields)
  /-- LOAD_DATA_RETURN (R25): A long-latency result lands for a quarter, writing its lanes and setting its full bit, or marking lost data. -/
  | loadDataReturn (g op q : Nat) (reply : List (Option Word))
  /-- ST (R218): Writes each lane's data to memory by home: into the L1 as P with registration, or to the controller, scratchpad or a remote device. -/
  | st (f : Fields)
  /-- PRF (R219): Requests the line of each lane's address into L2 or L1 as run-ahead, without faulting. -/
  | prf (f : Fields)
  /-- AMO (R220): Performs an atomic operation at each named word's home as one event per word. -/
  | amo (f : Fields)
  /-- CAS (R220): Performs compare-and-swap at each named word's home, returning the old value. -/
  | cas (f : Fields)
  /-- ATOMIC_ACK (R220): The home acknowledges an atomic, returning results and counting it down on LD. -/
  | atomicAck (g op i : Nat) (reply : Option (Option (BitVec 64)))
  /-- FENCE (R135): Performs a release of the given scope followed by an acquire. -/
  | fence (f : Fields)
  /-- ACQ (R134): Orders later accesses after earlier loads and, at clus or wider, drops the core's V words, optionally only in a region. -/
  | acq (f : Fields)
  /-- REL (R133): Waits for earlier loads, stores and atomics to complete to the scope, draining the core's P words at clus or wider. -/
  | rel (f : Fields)
  /-- ACQR (R140): Asks a victim core to complete its P words and drop its V words in a region, then acquires the region. -/
  | acqr (f : Fields)
  /-- INVR (R224): Drops the core's V words in a region. -/
  | invr (f : Fields)
  /-- WBR (R139): Completes, writes back and deregisters the core's registered words in a region. -/
  | wbr (f : Fields)
  /-- REGISTRATION_GRANT (R131): A home slice grants a store's registration in arrival order, revoking the previous owner and merging sub-word stores. -/
  | registrationGrant (core pa : Nat)
  /-- LINE_FILL (R292): A home serves a 64-byte line fill word by word, forwarding registered words to their owners. -/
  | lineFill (core pa : Nat)
  /-- L1_EVICT (R293): An L1 line is evicted, dropping I and V words and writing back O words with deregistration. -/
  | l1Evict (core pa : Nat)
  /-- TLD (R229): Loads rows into a tile in raw or format-aware mode, counted on LD. -/
  | tld (f : Fields)
  /-- TST (R230): Stores a tile's rows to memory as ordinary stores. -/
  | tst (f : Fields)
  /-- TMOV (R231): Moves data between tiles, or between registers and a tile row. -/
  | tmov (f : Fields)
  /-- MMA (R235): Enters the exact products of the A and B tiles into the accumulator of each executing quarter. -/
  | mma (f : Fields)
  /-- MMA_COMPLETE (R236): A matrix pass completes in its units, and an asynchronous MMA is counted down on MX. -/
  | mmaComplete (g op : Nat)
  /-- ACCZ (R237): Zeroes the accumulator's elements and flags and leaves its anchor unset. -/
  | accz (f : Fields)
  /-- ACCWIN (R237): Zeroes the accumulator and sets its anchor from A. -/
  | accwin (f : Fields)
  /-- ACCRD (R238): Reads an accumulator row, converted once, into registers or a tile. -/
  | accrd (f : Fields)
  /-- ACCADD (R240): Adds each element of one accumulator into another as exact terms. -/
  | accadd (f : Fields)
  /-- ACCLD (R242): Reads an accumulator image from memory and enters its records as terms. -/
  | accld (f : Fields)
  /-- ACCST (R242): Writes an accumulator image of records to memory. -/
  | accst (f : Fields)
  /-- CLASP (R243): Places half of a tile in the cluster bridge and waits to exchange it with a partner side on another cluster. -/
  | clasp (f : Fields)
  /-- CLASP_EXCHANGE (R244): Matching partner sides meet in the bridge, and each D receives the joined halves and advances. -/
  | claspExchange (g h : Nat)
  /-- CLASP_TIMEOUT (R245): CLTMO core cycles pass for a waiting side, which is withdrawn and raises CLASP_TIMEOUT. -/
  | claspTimeout (g : Nat)
  /-- CPY (R253): Reads and checks a descriptor and starts a copy engine operation counted on CP. -/
  | cpy (f : Fields)
  /-- CPY_REQUEST_APPLIED (R253): A copy request's bytes are applied at their homes, and the barrier object is counted down under .bo. -/
  | cpyRequestApplied (g op : Nat)
  /-- GATH (R254): Reads one word or decoded element per lane through the gather engine, counted on GS. -/
  | gath (f : Fields)
  /-- SCAT (R255): Writes one word per lane through the scatter engine, counted on GS. -/
  | scat (f : Fields)
  /-- COL (R257): Starts a collective operation on a collective set, counted on CL. -/
  | col (f : Fields)
  /-- COLLECTIVE_JOIN (R256): The i-th operations of every rank have joined and are checked for agreement. -/
  | collectiveJoin (set : Nat) (remote : List RankData)
  /-- COLLECTIVE_TIMEOUT (R256): COLTMO passes before every rank joins, and every joined member fails with DATA_LOST. -/
  | collectiveTimeout (x : ColTimeout)
  /-- BNK (R259): Checks a descriptor and starts a bank-engine command, counted on BK. -/
  | bnk (f : Fields)
  /-- ATW_START (R251): The start window of a timed engine operation begins, and its first request is sent. -/
  | atwStart (g op : Nat)
  /-- ENGINE_OP_COMPLETE (R250): An engine operation has applied every write, count and port push, and its class counter retires it in order. -/
  | engineOpComplete (g op : Nat)
  /-- BOINI (R262): Initialises a barrier object's count and phase. -/
  | boini (f : Fields)
  /-- BOARR (R262): Performs REL dev and makes one arrival on a barrier object, returning the phase. -/
  | boarr (f : Fields)
  /-- BOWAIT (R262): Stalls until a barrier object's phase flips, then performs ACQ dev. -/
  | bowait (f : Fields)
  /-- KQCFG (R266): Configures, enables or disables a keyed queue. -/
  | kqcfg (f : Fields)
  /-- KQPUSH (R269): Pushes each lane's record into a keyed queue, creating or folding records. -/
  | kqpush (f : Fields)
  /-- KQTAKE (R270): Takes the lowest-bucket oldest takeable record of the cluster's queue per lane. -/
  | kqtake (f : Fields)
  /-- KQTAKE_PORT (R271): Takes up to n records as one event and streams them into a port. -/
  | kqtakePort (f : Fields)
  /-- KQSTEAL (R270): Takes records from another cluster's queue. -/
  | kqsteal (f : Fields)
  /-- KQSTAT (R272): Returns a snapshot of a queue's held and takeable counts and lowest bucket. -/
  | kqstat (f : Fields)
  /-- KQ_WAITER_SERVED (R269): A push or take waiting on a full or empty queue is performed when room or a record appears. -/
  | kqWaiterServed (g : Nat)
  /-- PCTR (R167): Reads a policy counter of any instance into D. -/
  | pctr (f : Fields)
  /-- PDEC (R167): Writes a decision register from A. -/
  | pdec (f : Fields)
  /-- EVNT (R167): Queues a POLICY host event record carrying a code and a value. -/
  | evnt (f : Fields)
  /-- TLBINV (R168): Performs REL dev and invalidates matching translations device-wide. -/
  | tlbinv (f : Fields)
  /-- ACCSPL (R169): Spills a physical accumulator of all four units to a frame and retags it fresh. -/
  | accspl (f : Fields)
  /-- ACCFIL (R169): Fills a physical accumulator of all four units from a frame and retags it. -/
  | accfil (f : Fields)
  /-- ISSUE_CHOICE (R21): Every fourth core cycle a lane set chooses the eligible slot to issue from. -/
  | issueChoice (core ls : Nat)
  /-- GROUP_END (R19): A group whose lanes have all exited and whose counters are zero ends and returns its resources. -/
  | groupEnd (g : Nat)
  /-- WATCHDOG (R22): A team's watchdog count reaches WDOG, and the team is pre-empted and ended with a FAULT event. -/
  | watchdog (ctx : Nat)
  /-- PACKED_ROW_STALL_SAVE (R23): A stall for a packed register row lasts 65,536 core cycles, and the team is saved. -/
  | packedRowStallSave (ctx : Nat)
  /-- TAIL_WRITE (R300): A TAIL write to a running queue is checked and accepted, discarded, or stops the queue with RING_OVERRUN. -/
  | tailWrite (qid : Nat) (new : Word)
  /-- NOTIFY_FORWARD (R303): A write to a resident queue's NOTIFY line is applied to its slot-page line within 1 µs. -/
  | notifyForward (qid : Nat)
  /-- RECORD_READ (R301): Grenlar reads the launch record at RIDX, checks it and advances RIDX. -/
  | recordRead (qid : Nat)
  /-- FENCE_WRITE (R301): A write to a watched fence word meets a record's wait fence, letting it proceed or calling WAKE. -/
  | fenceWrite (pa : Nat)
  /-- MARKER_START (R301): A marker record starts and writes its MARKER event. -/
  | markerStart (qid : Nat)
  /-- MARKER_END (R301): Every earlier team has ended, so the marker performs its signal fence and COMPLETE event. -/
  | markerEnd (qid : Nat)
  /-- TEAM_PLACE (R305): A team is placed in a partition and granted its slots, rows, tiles, accumulators and scratchpad. -/
  | teamPlace (launch : Nat) (grant : Grant)
  /-- ENQ (R306): An ENQ decision sets a queue's priority class. -/
  | enq (kind inst : Nat)
  /-- PICK (R306): A PICK decision chooses the source whose team goes into a partition with room. -/
  | pick (part : Nat)
  /-- TICK (R306): Every TPER a slice boundary calls TICK, which chooses the next slice's tenant and length. -/
  | tick (part : Nat)
  /-- BLOCK (R306): A BLOCK decision keeps a waiting queue resident or makes it non-resident. -/
  | block (qid : Nat)
  /-- WAKE (R306): A WAKE decision makes a non-resident queue resident on a die and slot. -/
  | wake (qid : Nat)
  /-- MIGR (R306): A MIGR decision keeps or moves a starved team or a tile-task record. -/
  | migr (kind inst key : Nat)
  /-- MWAIT_EXPIRE (R321): A takeable tile-task record's wait reaches MWAIT, and MIGR is called. -/
  | mwaitExpire (cluster q key : Nat)
  /-- TILE_TASK_DISPATCH (R275): The dispatcher takes a ready tile-task record and launches it as a team. -/
  | tileTaskDispatch (cluster q : Nat)
  /-- GROUP_HALT (R314): A halt request stops a group at its next boundary and presents PREEMPT to the system. -/
  | groupHalt (g : Nat)
  /-- CONTEXT_SAVE (R316): Once counters and SFU entries have drained, a team's context is written to its frame and its slots freed. -/
  | contextSave (ctx : Nat)
  /-- CONTEXT_RESTORE (R343): A saved team is restored onto a core, taking back items in place, filling the rest and rebinding accumulators. -/
  | contextRestore (ctx : Nat) (grant : Grant)
  /-- MESSAGE_ARRIVE (R30): A fabric message arrives for an endpoint and is appended to its port or held in the receive buffer, or refused. -/
  | messageArrive (ep src : Nat) (elems : List Word)
  /-- REMOTE_ACCESS_ARRIVE (R327): An arriving fabric request is checked against the import table and performed, or refused with IMPORT_DENIED. -/
  | remoteAccessArrive (req : FabricReq)
  /-- WINDOW_BOUND_LOST (R150): A link stops meeting the window bound, and its streams switch to acknowledgement ordering. -/
  | windowBoundLost (node : Nat)
  /-- WINDOW_ORDER_RESTORE (R150): At a window boundary after a whole window meeting the bound, streams return to window ordering. -/
  | windowOrderRestore (node : Nat)
  /-- LINK_DOWN (R332): A port is declared down, LINK_DOWN is sent, and its streams fail over with re-sent stores. -/
  | linkDown (port : Nat)
  /-- LINK_UP (R329): A port comes up and LINK_UP is sent. -/
  | linkUp (port peer : Nat)
  /-- STREAM_TIMEOUT (R332): Held stores to an unreachable node pass 10 ms, are discarded and record DATA_LOST. -/
  | streamTimeout (node : Nat)
  /-- MODULE_RETRAIN (R323): A UCIe module exceeding 16 retries in 1 ms is retrained while other modules carry its traffic. -/
  | moduleRetrain (boundary mod : Nat) (repaired : Bool)
  /-- SOFT_ERROR (R297): A hop or structure detects a data error, corrects or re-requests it, or reports it as uncorrectable. -/
  | softError (kind unit addr : Nat) (corrected : Bool)
  /-- SYNC_RECEIVED (R330): A 1588 Sync updates device time by slew or a start-up step and updates ERR. -/
  | syncReceived (offset : Int)
  /-- SYNC_HOLDOVER (R330): No Sync for 2 s, so the device enters holdover and sends SYNC_STATE. -/
  | syncHoldover
  /-- SYNC_LOST (R330): After 60 s of holdover the device becomes unsynchronised and sends SYNC_STATE. -/
  | syncLost
  /-- WLEN_APPLY (R328): A staged window length takes effect at the next multiple of 65,536 ns of device time. -/
  | wlenApply
  /-- THERMAL_THROTTLE (R339): A power cap or a sensor above 95 °C steps the clocks down and sends THERMAL (1). -/
  | thermalThrottle (temp : Nat)
  /-- THERMAL_SHUTDOWN (R339): At 110 °C the device sends THERMAL (2), halts and saves every team, and powers down. -/
  | thermalShutdown (temp : Nat)
  /-- DEVICE_RESET (R335): Device reset clears partitions, imports and tags, applies staged firmware or enters recovery. -/
  | deviceReset
  /-- SCRUB_SECTOR (R296): The scrub engine zeroes a pending sector and clears its bit, sending SCRUB_DONE when a frame completes. -/
  | scrubSector (unit sector : Nat)
  /-- ENUMERATE (R328): Assigns the node number and returns part number, CAPMASK and the capacity report. -/
  | enumerate (node : Nat)
  /-- LOAD_IMAGE (R309): Loads a GRO image and checks and binds its policy routines, reporting CHECKER_ERROR events. -/
  | loadImage (req : ImageReq)
  /-- UNLOAD_IMAGE (R111): Requests that an image be unloaded once every team launched from it has ended. -/
  | unloadImage (image : Nat)
  /-- QUEUE_CREATE (R298): Creates a virtual queue and writes its notify line, or refuses it. -/
  | queueCreate (req : QueueReq)
  /-- QUEUE_ENABLE (R300): With the enable bit set, re-enables a stopped or disabled queue, setting TAIL to RIDX. -/
  | queueEnable (qid : Nat)
  /-- QUEUE_DISABLE (R300): With the enable bit clear, disables a queue so that no further record starts. -/
  | queueDisable (qid : Nat)
  /-- DEVICE_QUEUE (R329): Names the virtual queue whose event ring takes device events. -/
  | deviceQueue (qid : Nat)
  /-- APERTURE (R326): Writes a fabric aperture entry. -/
  | aperture (i : Nat) (ap : Aperture)
  /-- IMPORT (R327): Writes an import table entry permitting arriving requests. -/
  | importWrite (i : Nat) (entry : ImportEntry)
  /-- COLSET (R256): Defines a collective set with its ranks and timeout. -/
  | colset (set : Nat) (cs : CollectiveSet)
  /-- WLEN (R328): Stages a new window length. -/
  | wlen (ns : Nat)
  /-- DIE_RESET (R333): Quiesces, writes back, fences and resets one die while the other dies compute. -/
  | dieReset (die : Nat)
  /-- DIE_READMIT (R333): A reset die finishes retraining and is re-admitted, its pocket returned and parked teams restored. -/
  | dieReadmit (die : Nat)
  /-- FW_STAGE (R335): Writes and verifies a firmware image for the next reset, or refuses it. -/
  | fwStage (fw : Firmware)
  /-- ATTEST (R336): Returns an attestation report signed with both identity keys. -/
  | attest (nonce : List Byte)
  /-- SCRUB (R338): Revokes and drops a frame's data device-wide and sets its scrub pending bits. -/
  | scrub (pa units : Nat)
  /-- MSGEP_DEFINE (R30): Defines a message endpoint with its PARTID, receive buffer and source filter. -/
  | msgepDefine (req : EndpointReq)
  /-- MSGEP_REMOVE (R30): Removes a message endpoint that no port holds. -/
  | msgepRemove (ep : Nat)
  /-- PARTITION_WRITE (R305): A system write of a partition entry, ignored and counted in PCFGERR if illegal. -/
  | partitionWrite (core part : Nat) (w : BitVec 128)
  /-- TILE_TASK_BINDING_WRITE (R304): A system write of a tile-task binding, accepted only while the queue is disabled. -/
  | tileTaskBindingWrite (cluster q : Nat) (w : BitVec 128)
  /-- POLICY_CONTROL_WRITE (R311): A system write of TPER, ALLOW or WDOG on the policy control page. -/
  | policyControlWrite (die field tenant value : Nat)
  /-- STORE_ACKNOWLEDGED (R133): A memory controller, a scratchpad or a remote device applies a store sent earlier and acknowledges it to the storing group. -/
  | storeAcknowledged (id : Nat)
  /-- HELD_REMOTE_STORE_SEND (R149): At the start of the sender's window Nlast+2 the remote stores held behind a REL sys are released onto the link. -/
  | heldRemoteStoreSend (g : Nat)
  /-- FABRIC_TAKES_PORT_ELEMENTS (R30): The fabric takes buffered elements from a kind-4 port, freeing room that a stalled writer waits for. -/
  | fabricTakesPortElements (g port n : Nat)
  /-- EHEAD_WRITE (R302): The host advances EHEAD, so held events are written and records of a queue whose event ring was full may start again. -/
  | eheadWrite (qid : Nat) (head : Word)
  /-- DIE_RESET_WITHOUT_QUIESCE (R334): A die is reset without write-back after a fatal error, or a core is fenced off, so words registered there become lost. -/
  | dieResetWithoutQuiesce (die : Nat) (core : Option Nat)
  /-- THERMAL_NORMAL (R339): Temperature falls or the cap is lifted, the clocks step back up and THERMAL (0) is sent. -/
  | thermalNormal (temp : Nat)
  /-- POWER_CAP_SET (R339): The host sets a power cap from 900 to 1,650 W, which may throttle the clocks. -/
  | powerCapSet (watts : Nat)
  /-- HARDWARE_STRIDE_PREFETCH (R53): Trained stride prefetch fills V words of lines within the demand access's 64-KiB block, without faulting. -/
  | hardwareStridePrefetch (core pa : Nat)
  deriving DecidableEq, Repr

end Sys2Proof
end

