-- ==== Sys2Proof/Machine/Table.lean ====
section
/-!
DEFINITION. The opcode map and the operand shapes: which forms and SUB values an OP accepts (R71, R73, R342),
which fields it uses and how (R68 and each instruction's entry), and the constructor it builds.
-/

namespace Sys2Proof.Machine

/-- How an instruction uses a register field: not at all, as a source of n registers, as a destination of n
registers, as a number, as a tile source or destination, as an accumulator, as an optional source (the start
window of R247: register 0 is "absent"), or as the element source of TLD's format-aware mode (R229). -/
inductive Use where
  | none | src (n : Nat) | dst (n : Nat) | num | tile | tileDst | acc | opt | fmtSrc
  deriving DecidableEq, Repr

/-- The fields an instruction uses (R68). `ports`: A, a non-uniform B and D may name a queue port (R171);
`dPort`: D may; `cStat`: C is also written (R177, R202); `ch`: cache hints apply (R66). -/
structure Shape where
  d     : Use := .none
  a     : Use := .none
  b     : Use := .none
  c     : Use := .none
  e     : Use := .none
  ports : Bool := false
  dPort : Bool := false
  cStat : Bool := false
  ch    : Bool := false
  deriving DecidableEq, Repr

/-- Two-source vector shapes of R171 and R184. -/
def Shape.two : Shape := { d := .dst 1, a := .src 1, b := .src 1, ports := true, dPort := true }
def Shape.one : Shape := { d := .dst 1, a := .src 1, ports := true, dPort := true }
def Shape.three : Shape := { d := .dst 1, a := .src 1, b := .src 1, c := .src 1, ports := true, dPort := true }
/-- Cross-lane shapes of R202: no ports, status bit C:E. -/
def Shape.lane : Shape := { d := .dst 1, a := .src 1, b := .src 1, c := .src 1, e := .num, cStat := true }

/-- Registers a load or store of a size code moves (R216, R218). -/
def sizeRegs (sz : Nat) : Nat := if sz = 5 then 2 else if sz = 6 then 4 else 1

/-- The fields an OP with a SUB value uses, from each instruction's entry. A port may stand where R171 and the entries
let it; nowhere in MOVC, MOVTC, TLBINV, ACCSPL and ACCFIL, whose entries do not name one (DESIGN CHOICE, log entry 65). -/
def shapeOf (op sub : Nat) : Shape :=
  match op with
  | 0x02 => { d := .num, a := .num, b := .num }
  | 0x03 => { d := .num, a := .src 2 }
  | 0x04 => { d := .num }
  | 0x05 => { a := .src 2 }
  | 0x08 => { a := .num }
  | 0x0B => { b := .src 2 }
  | 0x0E => { d := .dst 1, a := .num, b := .num, c := .num, e := .num }
  | 0x0F => { d := .dst 1 }
  | 0x10 => { a := .src 1 }
  | 0x20 | 0x21 | 0x24 | 0x25 | 0x28 | 0x29 | 0x30 | 0x31 | 0x32 | 0x33 | 0x34 | 0x35 | 0x36 | 0x37 => Shape.two
  | 0xC0 | 0xC1 | 0xC4 | 0xC5 | 0xC8 | 0xC9 | 0xD0 | 0xD1 | 0xD2 | 0xD3 | 0xD4 | 0xD5 | 0xD6 | 0xD7 => Shape.one
  | 0x2A | 0x2E | 0x3A | 0x3B | 0x3C => Shape.one
  | 0x2F => { d := .dst 1, ports := true, dPort := true }
  | 0x22 | 0x23 => { Shape.three with e := .num, cStat := true }
  | 0x26 => Shape.three
  | 0x27 => { d := .dst 2, a := .src 1, b := .src 1, c := .src 2, ports := true }
  | 0x2B => { d := .dst 1, a := .src 1, b := .src 1, e := .num, ports := true }
  | 0x2C => { Shape.three with e := .num }
  | 0x2D => { d := .dst 2, a := .src 2, b := .src 1, e := .num, ports := true }
  | 0x38 => Shape.two
  | 0x39 | 0x3D => Shape.three
  | 0x40 | 0x41 | 0x42 | 0x44 | 0x45 | 0x49 | 0x4A | 0x4C => Shape.two
  | 0x43 | 0x4B => Shape.three
  | 0x46 => { d := .dst 1, a := .src 1, b := .src 1, e := .num, ports := true }
  | 0x47 | 0x48 | 0x4D | 0x4E | 0x4F | 0x51 | 0x52 => Shape.one
  | 0x50 => { d := .dst 1, a := .src 1, ports := true }
  | 0x58 | 0x59 | 0x5A | 0x5B | 0x5C | 0x5D | 0x5E | 0x5F => { d := .dst 1, a := .src 1, ports := true }
  | 0x60 | 0x61 | 0x63 | 0x64 | 0x65 => Shape.lane
  | 0x62 => { Shape.lane with d := .dst 2, a := .src 2 }
  | 0x66 => { d := .dst 1 }
  | 0x70 =>
    { d := .dst (sizeRegs (bits sub 5 3)), a := .src (if bits sub 7 6 = 0 then 2 else 1),
      b := if bits sub 5 3 = 7 then .src 1 else .none, c := .num, e := .num, ch := true }
  | 0x71 =>
    { a := .src (if bits sub 7 6 = 0 then 2 else 1), b := .src (sizeRegs (bits sub 5 3)), c := .num, e := .num,
      ch := true }
  | 0x72 => { a := .src 2, c := .num, e := .num, ch := true }
  | 0x73 =>
    { d := if bits sub 2 2 = 1 then .dst (1 + bits sub 1 0) else .none, a := .src 2, b := .src (1 + bits sub 1 0),
      c := .num, e := .num, ch := true }
  | 0x74 => { d := .dst (1 + sub), a := .src 2, b := .src (1 + sub), c := .src (1 + sub), ch := true }
  | 0x76 => if bits sub 3 3 = 1 then { a := .src 2, b := .src 1 } else {}
  | 0x78 => { a := .src 2, b := .src 1, c := .src 1 }
  | 0x79 | 0x7A => { a := .src 2, b := .src 1 }
  | 0x80 => { d := .tileDst, a := .src 2, b := .src 1, c := .fmtSrc, ch := true }
  | 0x81 => { a := .src 2, b := .src 1, c := .tile, ch := true }
  | 0x82 =>
    if sub = 0 then { d := .tileDst, a := .tile }
    else if sub = 1 then { d := .tileDst, a := .src 1, b := .src 1 }
    else { d := .dst 1, a := .tile, b := .src 1 }
  | 0x83 => { d := .acc, a := .tile, b := .tile }
  | 0x84 => { d := .acc }
  | 0x85 => { d := .acc, a := .src 1 }
  | 0x86 =>
    if bits sub 4 4 = 1 then { d := .tileDst, a := .acc }
    else { d := .dst (if bits sub 2 0 = 0 then 4 else if bits sub 2 0 ≤ 2 then 2 else 1), a := .acc, b := .src 1 }
  | 0x87 => { d := .acc, a := .acc }
  | 0x88 => { d := .acc, a := .src 2 }
  | 0x89 => { a := .src 2, b := .acc }
  | 0x8A => { d := .tileDst, a := .tile, b := .src 1, c := .src 1 }
  | 0x90 => { a := .src 2, ch := true }
  | 0x91 => { d := .dst 1, a := .src 2, b := .src 1, e := .opt, ch := true }
  | 0x92 => { a := .src 2, b := .src 1, c := .src 1, e := .opt, ch := true }
  | 0x93 | 0x94 => { a := .src 2 }
  | 0x95 | 0x97 => { a := .src 2, b := .src 1 }
  | 0x96 => { d := .dst 1, a := .src 2, b := .src 1 }
  | 0xA0 => { a := .src 1, b := .src 1 }
  | 0xA1 =>
    if sub = 1 then { a := .src 4, b := .src 1, c := .src 1, e := .num, cStat := true } else { a := .src 4, b := .src 1 }
  | 0xA2 | 0xA3 =>
    if sub = 2 then { d := .num, a := .src 1, b := .src 1, c := .dst 1 } else { d := .dst 4, b := .src 1 }
  | 0xA4 => { d := .dst 2, b := .src 1 }
  | 0xB0 => { d := .dst 1, a := .src 1, b := .src 1 }
  | 0xB1 | 0xB2 => { a := .src 1 }
  | 0xB3 => if sub = 1 then { a := .src 2, b := .src 1, c := .src 1 } else if sub = 2 then { a := .src 1 } else {}
  | 0xB4 | 0xB5 => { a := .src 2, b := .src 1, c := .src 1 }
  | _ => {}

/-- The forms an OP accepts; none for an unassigned OP (R71, R342). -/
def formsOf (op : Nat) : List Form :=
  if op ∈ [0x00, 0x05, 0x07, 0x0D] then [.b3]
  else if op ∈ [0x01, 0x04] then [.bj, .bjL]
  else if op ∈ [0x03, 0x06, 0x2A, 0x2E, 0x3A, 0x3B, 0x3C, 0x58, 0x59, 0x5A, 0x5B, 0x5C, 0x5D, 0x5E, 0x5F] then
    [.b3, .x]
  else if op ∈ [0x08, 0x09, 0x0C, 0x0F, 0x10, 0xB1, 0xB2] then [.bi]
  else if op ∈ [0x20, 0x21, 0x24, 0x25, 0x28, 0x29, 0x30, 0x31, 0x32, 0x33, 0x40, 0x41, 0x42, 0x44, 0x45, 0x49, 0x4A,
      0x4C] then [.b3, .b3L, .x, .xL]
  else if op ∈ [0x34, 0x35, 0x36, 0x37] then [.b3, .x]
  else if op ∈ [0xC0, 0xC1, 0xC4, 0xC5, 0xC8, 0xC9, 0xD0, 0xD1, 0xD2, 0xD3, 0xD4, 0xD5, 0xD6, 0xD7] then [.bi]
  else if op = 0x2F then [.bi, .biL]
  else if op ∈ [0x0B, 0x22, 0x23, 0x26, 0x27, 0x2B, 0x2C, 0x2D, 0x38, 0x39, 0x3D, 0x43, 0x4B] then [.x, .xL]
  else if op ∈ [0x02, 0x0A, 0x0E, 0x46, 0x47, 0x48, 0x4D, 0x4E, 0x4F, 0x50, 0x51, 0x52] then [.x]
  else if (0x60 ≤ op ∧ op ≤ 0x66) ∨ (0x70 ≤ op ∧ op ≤ 0x7A) ∨ (0x80 ≤ op ∧ op ≤ 0x8A) ∨ (0x90 ≤ op ∧ op ≤ 0x97)
      ∨ (0xA0 ≤ op ∧ op ≤ 0xA4) ∨ op = 0xB0 ∨ (0xB3 ≤ op ∧ op ≤ 0xB5) then [.x]
  else []

/-- The LEN code of a form (R57). -/
def lenOf : Form → Nat
  | .b3 | .bi | .bj => 0
  | .b3L | .biL | .bjL => 1
  | .x => 2
  | .xL => 3

/-- The form that LEN gives an OP (R57, R342): the one base layout of the OP, with or without its literal. -/
def formOf (len op : Nat) : Form :=
  if len = 2 then .x
  else if len = 3 then .xL
  else if op ∈ [0x01, 0x04] then (if len = 0 then .bj else .bjL)
  else if op ∈ [0x08, 0x09, 0x0C, 0x0F, 0x10, 0xB1, 0xB2, 0x2F] ∨ 0xC0 ≤ op ∧ op ≤ 0xD7 then
    (if len = 0 then .bi else .biL)
  else (if len = 0 then .b3 else .b3L)

/-- The SUB values an OP accepts (R73). -/
def subOk (op sub : Nat) : Bool :=
  match op with
  | 0x0A => sub ≤ 2
  | 0x0B | 0x20 | 0x21 | 0x24 | 0x25 | 0x27 | 0x28 | 0x29 | 0x38 | 0x3D | 0x44 | 0x45 | 0x4F | 0x72 | 0x74 | 0x80
  | 0x8A | 0x91 => sub ≤ 1
  | 0x2B => sub ≤ 9
  | 0x46 => sub ≤ 8
  | 0x48 => sub ≤ 4
  | 0x49 | 0x4A | 0x4B => sub ≤ 3
  | 0x4C => sub ≤ 7
  | 0x4D =>
    let dst := bits sub 7 5; let src := bits sub 4 2
    dst ≤ 5 && src ≤ 5 && dst != src && bits sub 0 0 == 0 && (bits sub 1 1 == 0 || dst == 3 || dst == 4)
  | 0x4E => bits sub 2 0 ≤ 4 && sub < 16
  | 0x50 =>
    let fc := bits sub 7 5
    (fc == 3 || fc == 4) && bits sub 3 0 ≤ 3 || fc == 5 && bits sub 4 4 == 0 && bits sub 3 0 ≤ 7
  | 0x51 =>
    let fc := bits sub 7 5
    bits sub 4 4 == 0 && ((fc == 3 || fc == 4) && bits sub 3 0 ≤ 3 || fc == 5 && bits sub 3 0 ≤ 7)
  | 0x52 => sub ≤ 3
  | 0x60 | 0x61 => sub ≤ 4
  | 0x62 => sub ≤ 7
  | 0x63 | 0x82 | 0xA1 | 0xA2 | 0xA3 | 0xB3 => sub ≤ 2
  | 0x64 => bits sub 3 0 ≤ 10 && sub < 32
  | 0x65 => sub ≤ 10
  | 0x66 => 1 ≤ sub && sub ≤ 5
  | 0x70 => bits sub 2 0 == 0 && (bits sub 7 6 == 0 || bits sub 7 6 == 1 && bits sub 5 3 != 7)
  | 0x71 => bits sub 2 0 == 0 && bits sub 7 6 ≤ 1 && (bits sub 5 3 ∈ [0, 2, 4, 5, 6])
  | 0x73 =>
    bits sub 7 4 ≤ 9 && bits sub 3 3 == 0 && bits sub 1 0 ≤ 1 && !(bits sub 7 4 == 9 && bits sub 1 0 == 1)
  | 0x75 | 0x77 | 0x78 => sub < 8
  | 0x76 => sub < 16
  | 0x83 => bits sub 3 0 ≤ 11 && sub < 32
  | 0x86 =>
    bits sub 2 0 ≤ 5 && sub < 32 && (bits sub 3 3 == 0 || bits sub 2 0 == 3 || bits sub 2 0 == 4)
  | 0x90 => sub ∈ [0, 1, 2, 4, 5, 6]
  | 0x93 => sub ∈ [0x00, 0x04, 0x01, 0x05, 0x0A, 0x0B]
  | 0x94 => sub ≤ 6
  | _ => sub == 0

/-- The feature bits an OP with a SUB value needs (R79). -/
def featBits (op sub : Nat) : List Nat :=
  let fc5 : Nat → List Nat := fun x => if x = 5 then [5] else []
  if op = 0x0B then [0, 22]
  else if op ≤ 0x10 then [0]
  else if 0x20 ≤ op ∧ op ≤ 0x3D ∨ 0xC0 ≤ op ∧ op ≤ 0xD7 then [1]
  else if op = 0x4D then 2 :: (fc5 (bits sub 7 5) ++ fc5 (bits sub 4 2))
  else if 0x40 ≤ op ∧ op ≤ 0x48 ∨ op = 0x4E ∨ op = 0x4F then [2]
  else if 0x49 ≤ op ∧ op ≤ 0x4C then [3]
  else if op = 0x50 ∨ op = 0x51 then (if bits sub 7 5 = 5 then [5] else [4])
  else if op = 0x52 then (if sub = 2 then [12] else if sub = 3 then [13] else [4])
  else if 0x58 ≤ op ∧ op ≤ 0x5F then [6]
  else if 0x60 ≤ op ∧ op ≤ 0x66 then [7]
  else if op = 0x76 then (if bits sub 3 3 = 1 then [8, 9] else [8])
  else if 0x70 ≤ op ∧ op ≤ 0x77 then [8]
  else if 0x78 ≤ op ∧ op ≤ 0x7A then [9]
  else if op = 0x83 then
    (let p := bits sub 3 0
     if p = 4 then [10, 11] else if p = 5 ∨ p = 6 ∨ p = 9 then [10, 12] else if p = 7 ∨ p = 8 ∨ p = 10 then [10, 13]
     else [10])
  else if op = 0x86 then 10 :: fc5 (bits sub 2 0)
  else if op = 0x8A then [14]
  else if 0x80 ≤ op ∧ op ≤ 0x89 then [10]
  else if op = 0x90 then [15]
  else if op = 0x91 ∨ op = 0x92 then [16]
  else if op = 0x93 then (if bits sub 3 2 = 1 then [18] else [17])
  else if op = 0x94 then [19]
  else if 0x95 ≤ op ∧ op ≤ 0x97 then [20]
  else if 0xA0 ≤ op ∧ op ≤ 0xA4 then [21]
  else [23]

/-- A field may hold a value only if the instruction uses it (R68). -/
def Use.zeroOk (u : Use) (x : BitVec 7) : Bool := u != .none || x == 0#7

/-- The wait bit of a field is a used field: the field names a source (R62, R68, R82, R226, R247). -/
def Use.waits (u : Use) (x : BitVec 7) : Bool :=
  match u with
  | .src _ | .tile | .fmtSrc => true
  | .opt => x != 0#7
  | _ => false

/-- A field is a vector source, which a U bit may make uniform (R24, R68). -/
def Use.isSrc : Use → Bool
  | .src _ => true
  | _ => false

/-- An absent guard has bit and sense zero (R65). -/
def Guard.ok (g : Guard) : Bool := g.reg != 0x7F#7 || g.bit == 0#5 && !g.sense

/-- The guard is present (R65). -/
def Guard.present (g : Guard) : Bool := g.reg != 0x7F#7

/-- The form carries a literal (R57). -/
def hasLit : Form → Bool
  | .b3L | .biL | .bjL | .xL => true
  | _ => false

/-- The form carries words 1 and 2 (R57). -/
def isX : Form → Bool
  | .x | .xL => true
  | _ => false

/-- Instructions whose entry sets all wait bits to zero: EXIT, GBAR and LOOPB (R153, R154, R158). Log entry 36. -/
def noWait (op : Nat) : Bool := op == 0x06 || op == 0x0A || op == 0x0E

/-- Bit `i` of the wait bits is clear or governs a used source (R68). -/
def waitOk (f : Fields) (i : Nat) (used : Bool) : Bool := !f.wb.getLsbD i || used

/-- Check 4 of R69: the reserved and unused fields of R62, R65, R66, R68 and of the entries are zero. Log entries 37
and 38. -/
def reservedOk (op : Nat) (f : Fields) : Bool :=
  let sh := shapeOf op f.sub.toNat
  match f.form with
  | .b3 | .b3L =>
    sh.d.zeroOk f.d && sh.a.zeroOk f.a && (if f.form = .b3 then sh.b.zeroOk f.b else f.b == 0#7) &&
      (!f.u || f.form == .b3 && sh.b.isSrc)
  | .bi => sh.d.zeroOk f.d && sh.a.zeroOk f.a
  | .biL => sh.d.zeroOk f.d && sh.a.zeroOk f.a && f.imm == 0#8
  | .bj => sh.d.zeroOk f.d
  | .bjL => sh.d.zeroOk f.d && f.off == 0#15
  | .x | .xL =>
    let lit := f.form == .xL
    let guards := Guard.present f.g0 || Guard.present f.g1
    sh.d.zeroOk f.d && sh.a.zeroOk f.a && (if lit then f.b == 0#7 else sh.b.zeroOk f.b) && sh.c.zeroOk f.c &&
      sh.e.zeroOk f.e && (!f.u || !lit && sh.b.isSrc) && f.ch.toNat ≤ 4 && (sh.ch || f.ch == 0#3) &&
      Guard.ok f.g0 && Guard.ok f.g1 && (op != 0x0E || !guards) &&
      (if noWait op then f.wb == 0#5
       else waitOk f 0 (sh.a.waits f.a) && waitOk f 1 (!lit && sh.b.waits f.b) && waitOk f 2 (sh.c.waits f.c) &&
        waitOk f 3 (sh.e.waits f.e) && waitOk f 4 guards)

/-- Checks 1 to 4 of R69, in order: the first cause that applies, or none. `rsv`: a reserved bit of word 1 is set
(R63). A nonzero SUB of LOOPB is ILLEGAL_RSV, as R153 says (log entry 36). -/
def decodeCheck (op : Nat) (f : Fields) (rsv : Bool) : Option Cause :=
  if formsOf op = [] then some .illegalOp
  else if (featBits op f.sub.toNat).any fun b => !Config.capMask.getLsbD b then some .illegalOp
  else if f.form ∉ formsOf op then some .illegalForm
  else if !subOk op f.sub.toNat then some (if op = 0x0E then .illegalRsv else .illegalSub)
  else if rsv || !reservedOk op f then some .illegalRsv
  else none

/-- The instruction of an OP with its fields: one constructor per row of the opcode table. -/
def build (op : Nat) (f : Fields) : Option Instr :=
  match op with
  | 0x00 => some (.nop f) | 0x01 => some (.bra f) | 0x02 => some (.brc f) | 0x03 => some (.brx f)
  | 0x04 => some (.call f) | 0x05 => some (.ret f) | 0x06 => some (.exit f) | 0x07 => some (.yield f)
  | 0x08 => some (.waitc f) | 0x09 => some (.bar f)
  | 0x0A => some (if f.sub = 0#8 then .gbarSync f else if f.sub = 1#8 then .gbarArrive f else .gbarWait f)
  | 0x0B => some (.twait f) | 0x0C => some (.trap f) | 0x0D => some (.tret f) | 0x0E => some (.loopb f)
  | 0x0F => some (if f.imm = 0x09#8 then .movcTimelo f else .movc f)
  | 0x10 =>
    some (if f.imm = 0x0E#8 then .movtcQmap f else if f.imm = 0x12#8 then .movtcParkmask f
      else if f.imm = 0x0C#8 then .movtcPart f else if f.imm = 0x1A#8 then .movtcAccst f
      else if f.imm.toNat / 16 = 2 then .movtcTc f else .movtc f)
  | 0x20 => some (.iadd f) | 0x21 => some (.isub f) | 0x22 => some (.iaddc f) | 0x23 => some (.isubb f)
  | 0x24 => some (.imul f) | 0x25 => some (.imulh f) | 0x26 => some (.imad f) | 0x27 => some (.imadw f)
  | 0x28 => some (.imin f) | 0x29 => some (.imax f) | 0x2A => some (.iabs f) | 0x2B => some (.icmp f)
  | 0x2C => some (.sel f) | 0x2D => some (.lea f) | 0x2E => some (.mov f) | 0x2F => some (.movi f)
  | 0x30 => some (.and f) | 0x31 => some (.or f) | 0x32 => some (.xor f) | 0x33 => some (.andn f)
  | 0x34 => some (.shl f) | 0x35 => some (.shr f) | 0x36 => some (.sar f) | 0x37 => some (.rot f)
  | 0x38 => some (.bfe f) | 0x39 => some (.bfi f) | 0x3A => some (.popc f) | 0x3B => some (.clz f)
  | 0x3C => some (.brev f) | 0x3D => some (.bytx f)
  | 0x40 => some (.fadd f) | 0x41 => some (.fsub f) | 0x42 => some (.fmul f) | 0x43 => some (.ffma f)
  | 0x44 => some (.fmin f) | 0x45 => some (.fmax f) | 0x46 => some (.fcmp f) | 0x47 => some (.fclass f)
  | 0x48 => some (.frnd f) | 0x49 => some (.duadd f) | 0x4A => some (.dumul f) | 0x4B => some (.dufma f)
  | 0x4C => some (.dumax f) | 0x4D => some (.cvt f) | 0x4E => some (.f2i f) | 0x4F => some (.i2f f)
  | 0x50 => some (.pack f) | 0x51 => some (.unpk f) | 0x52 => some (.bscl f)
  | 0x58 => some (.rcp f) | 0x59 => some (.rsq f) | 0x5A => some (.sqrt f) | 0x5B => some (.ex2 f)
  | 0x5C => some (.lg2 f) | 0x5D => some (.sin f) | 0x5E => some (.cos f) | 0x5F => some (.tanh f)
  | 0x60 => some (.vote f) | 0x61 => some (.shfl f) | 0x62 => some (.mred f) | 0x63 => some (.matchLanes f)
  | 0x64 => some (.scan f) | 0x65 => some (.tred f) | 0x66 => some (.part f)
  | 0x70 => some (if bits f.sub.toNat 5 3 = 7 then .ldFx f else .ld f)
  | 0x71 => some (.st f) | 0x72 => some (.prf f) | 0x73 => some (.amo f) | 0x74 => some (.cas f)
  | 0x75 => some (.fence f) | 0x76 => some (.acq f) | 0x77 => some (.rel f) | 0x78 => some (.acqr f)
  | 0x79 => some (.invr f) | 0x7A => some (.wbr f)
  | 0x80 => some (.tld f) | 0x81 => some (.tst f) | 0x82 => some (.tmov f) | 0x83 => some (.mma f)
  | 0x84 => some (.accz f) | 0x85 => some (.accwin f) | 0x86 => some (.accrd f) | 0x87 => some (.accadd f)
  | 0x88 => some (.accld f) | 0x89 => some (.accst f) | 0x8A => some (.clasp f)
  | 0x90 => some (.cpy f) | 0x91 => some (.gath f) | 0x92 => some (.scat f) | 0x93 => some (.col f)
  | 0x94 => some (.bnk f) | 0x95 => some (.boini f) | 0x96 => some (.boarr f) | 0x97 => some (.bowait f)
  | 0xA0 => some (.kqcfg f) | 0xA1 => some (.kqpush f)
  | 0xA2 => some (if f.sub = 2#8 then .kqtakePort f else .kqtake f)
  | 0xA3 => some (.kqsteal f) | 0xA4 => some (.kqstat f)
  | 0xB0 => some (.pctr f) | 0xB1 => some (.pdec f) | 0xB2 => some (.evnt f) | 0xB3 => some (.tlbinv f)
  | 0xB4 => some (.accspl f) | 0xB5 => some (.accfil f)
  | 0xC0 => some (.iaddImm f) | 0xC1 => some (.isubImm f) | 0xC4 => some (.imulImm f) | 0xC5 => some (.imulhImm f)
  | 0xC8 => some (.iminImm f) | 0xC9 => some (.imaxImm f) | 0xD0 => some (.andImm f) | 0xD1 => some (.orImm f)
  | 0xD2 => some (.xorImm f) | 0xD3 => some (.andnImm f) | 0xD4 => some (.shlImm f) | 0xD5 => some (.shrImm f)
  | 0xD6 => some (.sarImm f) | 0xD7 => some (.rotImm f)
  | _ => none

/-- The OP of an encoded instruction; none for an event row. -/
def opOf : Instr → Option Nat
  | .nop _ => some 0x00
  | .bra _ => some 0x01
  | .brc _ => some 0x02
  | .brx _ => some 0x03
  | .call _ => some 0x04
  | .ret _ => some 0x05
  | .loopb _ => some 0x0E
  | .exit _ => some 0x06
  | .yield _ => some 0x07
  | .waitc _ => some 0x08
  | .bar _ => some 0x09
  | .gbarSync _ => some 0x0A
  | .gbarArrive _ => some 0x0A
  | .gbarWait _ => some 0x0A
  | .twait _ => some 0x0B
  | .movc _ => some 0x0F
  | .movcTimelo _ => some 0x0F
  | .movtc _ => some 0x10
  | .movtcQmap _ => some 0x10
  | .movtcParkmask _ => some 0x10
  | .movtcPart _ => some 0x10
  | .movtcAccst _ => some 0x10
  | .movtcTc _ => some 0x10
  | .trap _ => some 0x0C
  | .tret _ => some 0x0D
  | .iadd _ => some 0x20
  | .iaddImm _ => some 0xC0
  | .isub _ => some 0x21
  | .isubImm _ => some 0xC1
  | .imul _ => some 0x24
  | .imulImm _ => some 0xC4
  | .imulh _ => some 0x25
  | .imulhImm _ => some 0xC5
  | .imin _ => some 0x28
  | .iminImm _ => some 0xC8
  | .imax _ => some 0x29
  | .imaxImm _ => some 0xC9
  | .and _ => some 0x30
  | .andImm _ => some 0xD0
  | .or _ => some 0x31
  | .orImm _ => some 0xD1
  | .xor _ => some 0x32
  | .xorImm _ => some 0xD2
  | .andn _ => some 0x33
  | .andnImm _ => some 0xD3
  | .shl _ => some 0x34
  | .shlImm _ => some 0xD4
  | .shr _ => some 0x35
  | .shrImm _ => some 0xD5
  | .sar _ => some 0x36
  | .sarImm _ => some 0xD6
  | .rot _ => some 0x37
  | .rotImm _ => some 0xD7
  | .iabs _ => some 0x2A
  | .mov _ => some 0x2E
  | .popc _ => some 0x3A
  | .clz _ => some 0x3B
  | .brev _ => some 0x3C
  | .movi _ => some 0x2F
  | .iaddc _ => some 0x22
  | .isubb _ => some 0x23
  | .imad _ => some 0x26
  | .imadw _ => some 0x27
  | .icmp _ => some 0x2B
  | .sel _ => some 0x2C
  | .lea _ => some 0x2D
  | .bfe _ => some 0x38
  | .bfi _ => some 0x39
  | .bytx _ => some 0x3D
  | .fadd _ => some 0x40
  | .fsub _ => some 0x41
  | .fmul _ => some 0x42
  | .ffma _ => some 0x43
  | .fmin _ => some 0x44
  | .fmax _ => some 0x45
  | .fcmp _ => some 0x46
  | .fclass _ => some 0x47
  | .frnd _ => some 0x48
  | .cvt _ => some 0x4D
  | .f2i _ => some 0x4E
  | .i2f _ => some 0x4F
  | .pack _ => some 0x50
  | .unpk _ => some 0x51
  | .bscl _ => some 0x52
  | .duadd _ => some 0x49
  | .dumul _ => some 0x4A
  | .dufma _ => some 0x4B
  | .dumax _ => some 0x4C
  | .rcp _ => some 0x58
  | .rsq _ => some 0x59
  | .sqrt _ => some 0x5A
  | .ex2 _ => some 0x5B
  | .lg2 _ => some 0x5C
  | .sin _ => some 0x5D
  | .cos _ => some 0x5E
  | .tanh _ => some 0x5F
  | .vote _ => some 0x60
  | .shfl _ => some 0x61
  | .mred _ => some 0x62
  | .matchLanes _ => some 0x63
  | .scan _ => some 0x64
  | .tred _ => some 0x65
  | .part _ => some 0x66
  | .ld _ => some 0x70
  | .ldFx _ => some 0x70
  | .st _ => some 0x71
  | .prf _ => some 0x72
  | .amo _ => some 0x73
  | .cas _ => some 0x74
  | .fence _ => some 0x75
  | .acq _ => some 0x76
  | .rel _ => some 0x77
  | .acqr _ => some 0x78
  | .invr _ => some 0x79
  | .wbr _ => some 0x7A
  | .tld _ => some 0x80
  | .tst _ => some 0x81
  | .tmov _ => some 0x82
  | .mma _ => some 0x83
  | .accz _ => some 0x84
  | .accwin _ => some 0x85
  | .accrd _ => some 0x86
  | .accadd _ => some 0x87
  | .accld _ => some 0x88
  | .accst _ => some 0x89
  | .clasp _ => some 0x8A
  | .cpy _ => some 0x90
  | .gath _ => some 0x91
  | .scat _ => some 0x92
  | .col _ => some 0x93
  | .bnk _ => some 0x94
  | .boini _ => some 0x95
  | .boarr _ => some 0x96
  | .bowait _ => some 0x97
  | .kqcfg _ => some 0xA0
  | .kqpush _ => some 0xA1
  | .kqtake _ => some 0xA2
  | .kqtakePort _ => some 0xA2
  | .kqsteal _ => some 0xA3
  | .kqstat _ => some 0xA4
  | .pctr _ => some 0xB0
  | .pdec _ => some 0xB1
  | .evnt _ => some 0xB2
  | .tlbinv _ => some 0xB3
  | .accspl _ => some 0xB4
  | .accfil _ => some 0xB5
  | .barPhaseComplete _ => none
  | .gbarPhaseComplete _ => none
  | .twaitExpire _ => none
  | .sfuResultLand _ => none
  | .loadDataReturn _ _ _ _ => none
  | .atomicAck _ _ _ _ => none
  | .registrationGrant _ _ => none
  | .lineFill _ _ => none
  | .l1Evict _ _ => none
  | .mmaComplete _ _ => none
  | .claspExchange _ _ => none
  | .claspTimeout _ => none
  | .cpyRequestApplied _ _ => none
  | .collectiveJoin _ _ => none
  | .collectiveTimeout .. => none
  | .atwStart _ _ => none
  | .engineOpComplete _ _ => none
  | .kqWaiterServed _ => none
  | .issueChoice _ _ => none
  | .groupEnd _ => none
  | .watchdog _ => none
  | .packedRowStallSave _ => none
  | .tailWrite _ _ => none
  | .notifyForward _ => none
  | .recordRead _ => none
  | .fenceWrite _ => none
  | .markerStart _ => none
  | .markerEnd _ => none
  | .teamPlace _ _ => none
  | .enq _ _ => none
  | .pick _ => none
  | .tick _ => none
  | .block _ => none
  | .wake _ => none
  | .migr _ _ _ => none
  | .mwaitExpire _ _ _ => none
  | .tileTaskDispatch _ _ => none
  | .groupHalt _ => none
  | .contextSave _ => none
  | .contextRestore _ _ => none
  | .messageArrive _ _ _ => none
  | .remoteAccessArrive _ => none
  | .windowBoundLost _ => none
  | .windowOrderRestore _ => none
  | .linkDown _ => none
  | .linkUp _ _ => none
  | .streamTimeout _ => none
  | .moduleRetrain _ _ _ => none
  | .softError _ _ _ _ => none
  | .syncReceived _ => none
  | .syncHoldover => none
  | .syncLost => none
  | .wlenApply => none
  | .thermalThrottle _ => none
  | .thermalShutdown _ => none
  | .deviceReset => none
  | .scrubSector _ _ => none
  | .enumerate _ => none
  | .loadImage _ => none
  | .unloadImage _ => none
  | .queueCreate _ => none
  | .queueEnable _ => none
  | .queueDisable _ => none
  | .deviceQueue _ => none
  | .aperture _ _ => none
  | .importWrite _ _ => none
  | .colset _ _ => none
  | .wlen _ => none
  | .dieReset _ => none
  | .dieReadmit _ => none
  | .fwStage _ => none
  | .attest _ => none
  | .scrub _ _ => none
  | .msgepDefine _ => none
  | .msgepRemove _ => none
  | .partitionWrite _ _ _ => none
  | .tileTaskBindingWrite _ _ _ => none
  | .policyControlWrite _ _ _ _ => none
  | .storeAcknowledged _ => none
  | .heldRemoteStoreSend _ => none
  | .fabricTakesPortElements _ _ _ => none
  | .eheadWrite _ _ => none
  | .dieResetWithoutQuiesce _ _ => none
  | .thermalNormal _ => none
  | .powerCapSet _ => none
  | .hardwareStridePrefetch _ _ => none

/-- The fields of an encoded instruction. -/
def fieldsOf : Instr → Option Fields
  | .nop f => some f
  | .bra f => some f
  | .brc f => some f
  | .brx f => some f
  | .call f => some f
  | .ret f => some f
  | .loopb f => some f
  | .exit f => some f
  | .yield f => some f
  | .waitc f => some f
  | .bar f => some f
  | .gbarSync f => some f
  | .gbarArrive f => some f
  | .gbarWait f => some f
  | .twait f => some f
  | .movc f => some f
  | .movcTimelo f => some f
  | .movtc f => some f
  | .movtcQmap f => some f
  | .movtcParkmask f => some f
  | .movtcPart f => some f
  | .movtcAccst f => some f
  | .movtcTc f => some f
  | .trap f => some f
  | .tret f => some f
  | .iadd f => some f
  | .iaddImm f => some f
  | .isub f => some f
  | .isubImm f => some f
  | .imul f => some f
  | .imulImm f => some f
  | .imulh f => some f
  | .imulhImm f => some f
  | .imin f => some f
  | .iminImm f => some f
  | .imax f => some f
  | .imaxImm f => some f
  | .and f => some f
  | .andImm f => some f
  | .or f => some f
  | .orImm f => some f
  | .xor f => some f
  | .xorImm f => some f
  | .andn f => some f
  | .andnImm f => some f
  | .shl f => some f
  | .shlImm f => some f
  | .shr f => some f
  | .shrImm f => some f
  | .sar f => some f
  | .sarImm f => some f
  | .rot f => some f
  | .rotImm f => some f
  | .iabs f => some f
  | .mov f => some f
  | .popc f => some f
  | .clz f => some f
  | .brev f => some f
  | .movi f => some f
  | .iaddc f => some f
  | .isubb f => some f
  | .imad f => some f
  | .imadw f => some f
  | .icmp f => some f
  | .sel f => some f
  | .lea f => some f
  | .bfe f => some f
  | .bfi f => some f
  | .bytx f => some f
  | .fadd f => some f
  | .fsub f => some f
  | .fmul f => some f
  | .ffma f => some f
  | .fmin f => some f
  | .fmax f => some f
  | .fcmp f => some f
  | .fclass f => some f
  | .frnd f => some f
  | .cvt f => some f
  | .f2i f => some f
  | .i2f f => some f
  | .pack f => some f
  | .unpk f => some f
  | .bscl f => some f
  | .duadd f => some f
  | .dumul f => some f
  | .dufma f => some f
  | .dumax f => some f
  | .rcp f => some f
  | .rsq f => some f
  | .sqrt f => some f
  | .ex2 f => some f
  | .lg2 f => some f
  | .sin f => some f
  | .cos f => some f
  | .tanh f => some f
  | .vote f => some f
  | .shfl f => some f
  | .mred f => some f
  | .matchLanes f => some f
  | .scan f => some f
  | .tred f => some f
  | .part f => some f
  | .ld f => some f
  | .ldFx f => some f
  | .st f => some f
  | .prf f => some f
  | .amo f => some f
  | .cas f => some f
  | .fence f => some f
  | .acq f => some f
  | .rel f => some f
  | .acqr f => some f
  | .invr f => some f
  | .wbr f => some f
  | .tld f => some f
  | .tst f => some f
  | .tmov f => some f
  | .mma f => some f
  | .accz f => some f
  | .accwin f => some f
  | .accrd f => some f
  | .accadd f => some f
  | .accld f => some f
  | .accst f => some f
  | .clasp f => some f
  | .cpy f => some f
  | .gath f => some f
  | .scat f => some f
  | .col f => some f
  | .bnk f => some f
  | .boini f => some f
  | .boarr f => some f
  | .bowait f => some f
  | .kqcfg f => some f
  | .kqpush f => some f
  | .kqtake f => some f
  | .kqtakePort f => some f
  | .kqsteal f => some f
  | .kqstat f => some f
  | .pctr f => some f
  | .pdec f => some f
  | .evnt f => some f
  | .tlbinv f => some f
  | .accspl f => some f
  | .accfil f => some f
  | .barPhaseComplete _ => none
  | .gbarPhaseComplete _ => none
  | .twaitExpire _ => none
  | .sfuResultLand _ => none
  | .loadDataReturn _ _ _ _ => none
  | .atomicAck _ _ _ _ => none
  | .registrationGrant _ _ => none
  | .lineFill _ _ => none
  | .l1Evict _ _ => none
  | .mmaComplete _ _ => none
  | .claspExchange _ _ => none
  | .claspTimeout _ => none
  | .cpyRequestApplied _ _ => none
  | .collectiveJoin _ _ => none
  | .collectiveTimeout .. => none
  | .atwStart _ _ => none
  | .engineOpComplete _ _ => none
  | .kqWaiterServed _ => none
  | .issueChoice _ _ => none
  | .groupEnd _ => none
  | .watchdog _ => none
  | .packedRowStallSave _ => none
  | .tailWrite _ _ => none
  | .notifyForward _ => none
  | .recordRead _ => none
  | .fenceWrite _ => none
  | .markerStart _ => none
  | .markerEnd _ => none
  | .teamPlace _ _ => none
  | .enq _ _ => none
  | .pick _ => none
  | .tick _ => none
  | .block _ => none
  | .wake _ => none
  | .migr _ _ _ => none
  | .mwaitExpire _ _ _ => none
  | .tileTaskDispatch _ _ => none
  | .groupHalt _ => none
  | .contextSave _ => none
  | .contextRestore _ _ => none
  | .messageArrive _ _ _ => none
  | .remoteAccessArrive _ => none
  | .windowBoundLost _ => none
  | .windowOrderRestore _ => none
  | .linkDown _ => none
  | .linkUp _ _ => none
  | .streamTimeout _ => none
  | .moduleRetrain _ _ _ => none
  | .softError _ _ _ _ => none
  | .syncReceived _ => none
  | .syncHoldover => none
  | .syncLost => none
  | .wlenApply => none
  | .thermalThrottle _ => none
  | .thermalShutdown _ => none
  | .deviceReset => none
  | .scrubSector _ _ => none
  | .enumerate _ => none
  | .loadImage _ => none
  | .unloadImage _ => none
  | .queueCreate _ => none
  | .queueEnable _ => none
  | .queueDisable _ => none
  | .deviceQueue _ => none
  | .aperture _ _ => none
  | .importWrite _ _ => none
  | .colset _ _ => none
  | .wlen _ => none
  | .dieReset _ => none
  | .dieReadmit _ => none
  | .fwStage _ => none
  | .attest _ => none
  | .scrub _ _ => none
  | .msgepDefine _ => none
  | .msgepRemove _ => none
  | .partitionWrite _ _ _ => none
  | .tileTaskBindingWrite _ _ _ => none
  | .policyControlWrite _ _ _ _ => none
  | .storeAcknowledged _ => none
  | .heldRemoteStoreSend _ => none
  | .fabricTakesPortElements _ _ _ => none
  | .eheadWrite _ _ => none
  | .dieResetWithoutQuiesce _ _ => none
  | .thermalNormal _ => none
  | .powerCapSet _ => none
  | .hardwareStridePrefetch _ _ => none

end Sys2Proof.Machine
end

