-- ==== Sys2Proof/WellFormed.lean ====
section
/-!
DEFINITION. Which instructions an encoding can hold: checks 1 to 4 of R69 pass, the constructor is the one that
the OP, SUB and index select, and a form holds nothing in the fields it does not carry (R59, R61).
-/

namespace Sys2Proof

open Sys2Proof.Machine

/-- The fields that a base form takes from R61. -/
def Fields.base (f : Fields) : Bool :=
  f.c == 0#7 && f.e == 0#7 && f.sub == 0#8 && f.wb == 31#5 && f.ch == 0#3 && f.g0 == Guard.absent &&
    f.g1 == Guard.absent && f.burst == 0#3 && f.hold == 0#2 && !f.cede

/-- A form carries nothing in the fields it does not have (R57, R59). -/
def Fields.canonical (f : Fields) : Bool :=
  (hasLit f.form || f.lit == 0#64) &&
  match f.form with
  | .b3 | .b3L => f.base && f.imm == 0#8 && f.off == 0#15
  | .bi | .biL => f.base && f.b == 0#7 && !f.u && f.off == 0#15
  | .bj | .bjL => f.base && f.a == 0#7 && f.b == 0#7 && !f.u && f.imm == 0#8
  | .x | .xL => f.imm == 0#8 && f.off == 0#15

/-- An OP reads its form from LEN (R57, R342). -/
def formAgrees (op : Nat) (f : Fields) : Bool := formOf (lenOf f.form) op == f.form

/-- A well-formed instruction: one that an encoding holds. An event row of the opcode table has no encoding. -/
def wf (i : Instr) : Bool :=
  match opOf i, fieldsOf i with
  | some op, some f =>
    f.canonical && formAgrees op f && decodeCheck op f false == none && build op f == some i
  | _, _ => false

end Sys2Proof
end

