-- ==== Sys2Proof/Decode.lean ====
section
/-!
DEFINITION. The decoder of R57 to R64 with checks 1 to 4 of R69, total on any bytes, and the encoder written from
the same layouts.
-/

namespace Sys2Proof

open Sys2Proof.Machine

/-- What decoding answers: an instruction with its length in bytes, a trap cause of checks 1 to 4 with the length,
or too few bytes. -/
inductive Decoded where
  | ok (i : Instr) (len : Nat)
  | bad (c : Cause) (len : Nat)
  | short
  deriving DecidableEq, Repr

/-- The words of an instruction with a LEN code (R57). -/
def lenWords (len : Nat) : Nat := if len = 0 then 1 else if len = 3 then 5 else 3

/-- The length in bytes of an encoding that begins with word `w0` (R57). -/
def instrLen (w0 : Word) : Nat := 4 * lenWords (w0.extractLsb' 0 2).toNat

/-- A guard from its 13 bits (R64). -/
def unpackGuard (w : BitVec 13) : Guard := ⟨w.extractLsb' 0 7, w.extractLsb' 7 5, w.getLsbD 12⟩

/-- The 13 bits of a guard (R64). -/
def packGuard (g : Guard) : BitVec 13 := BitVec.ofBool g.sense ++ g.bit ++ g.reg

/-- Word 0 in the B3, BI and BJ layouts (R59). -/
def packB3 (op : BitVec 8) (len : BitVec 2) (f : Fields) : Word := BitVec.ofBool f.u ++ f.b ++ f.a ++ f.d ++ op ++ len
def packBi (op : BitVec 8) (len : BitVec 2) (f : Fields) : Word := f.imm ++ f.a ++ f.d ++ op ++ len
def packBj (op : BitVec 8) (len : BitVec 2) (f : Fields) : Word := f.off ++ f.d ++ op ++ len

/-- Word 1 (R63). -/
def packW1 (f : Fields) : Word := 0#2 ++ f.ch ++ f.wb ++ f.sub ++ f.e ++ f.c

/-- Word 2 (R64). -/
def packW2 (f : Fields) : Word := BitVec.ofBool f.cede ++ f.burst ++ f.hold ++ packGuard f.g1 ++ packGuard f.g0

/-- The literal's words (R57, R62). -/
def packLit (f : Fields) : List Word := [f.lit.extractLsb' 0 32, f.lit.extractLsb' 32 32]

/-- The words of an OP with its fields (R57, R59, R63, R64). -/
def pack (op : BitVec 8) (f : Fields) : List Word :=
  match f.form with
  | .b3 => [packB3 op 0#2 f]
  | .bi => [packBi op 0#2 f]
  | .bj => [packBj op 0#2 f]
  | .b3L => packB3 op 1#2 f :: packLit f
  | .biL => packBi op 1#2 f :: packLit f
  | .bjL => packBj op 1#2 f :: packLit f
  | .x => [packB3 op 2#2 f, packW1 f, packW2 f]
  | .xL => packB3 op 3#2 f :: packW1 f :: packW2 f :: packLit f

/-- Word 0's register fields in the B3 layout (R59). -/
def unpackB3 (w : Word) (f : Fields) : Fields :=
  { f with u := w.getLsbD 31, b := w.extractLsb' 24 7, a := w.extractLsb' 17 7, d := w.extractLsb' 10 7 }
def unpackBi (w : Word) (f : Fields) : Fields :=
  { f with imm := w.extractLsb' 24 8, a := w.extractLsb' 17 7, d := w.extractLsb' 10 7 }
def unpackBj (w : Word) (f : Fields) : Fields := { f with off := w.extractLsb' 17 15, d := w.extractLsb' 10 7 }

/-- Words 1 and 2 (R63, R64). -/
def unpackX (w1 w2 : Word) (f : Fields) : Fields :=
  { f with
    c := w1.extractLsb' 0 7, e := w1.extractLsb' 7 7, sub := w1.extractLsb' 14 8, wb := w1.extractLsb' 22 5,
    ch := w1.extractLsb' 27 3, g0 := unpackGuard (w2.extractLsb' 0 13), g1 := unpackGuard (w2.extractLsb' 13 13),
    hold := w2.extractLsb' 26 2, burst := w2.extractLsb' 28 3, cede := w2.getLsbD 31 }

/-- The literal of two words (R57). -/
def unpackLit (l h : Word) (f : Fields) : Fields := { f with lit := h ++ l }

/-- The fields of an instruction's words, and whether a reserved bit of word 1 is set; the words number
`lenWords` of the first word's LEN. -/
def unpack (ws : List Word) : Option (Nat × Fields × Bool) :=
  match ws with
  | [] => none
  | w0 :: rest =>
    let op := (w0.extractLsb' 2 8).toNat
    let form := formOf (w0.extractLsb' 0 2).toNat op
    let base : Fields := { form := form }
    match form, rest with
    | .b3, [] => some (op, unpackB3 w0 base, false)
    | .bi, [] => some (op, unpackBi w0 base, false)
    | .bj, [] => some (op, unpackBj w0 base, false)
    | .b3L, [l, h] => some (op, unpackLit l h (unpackB3 w0 base), false)
    | .biL, [l, h] => some (op, unpackLit l h (unpackBi w0 base), false)
    | .bjL, [l, h] => some (op, unpackLit l h (unpackBj w0 base), false)
    | .x, [w1, w2] => some (op, unpackX w1 w2 (unpackB3 w0 base), w1.extractLsb' 30 2 != 0#2)
    | .xL, [w1, w2, l, h] =>
      some (op, unpackLit l h (unpackX w1 w2 (unpackB3 w0 base)), w1.extractLsb' 30 2 != 0#2)
    | _, _ => none

/-- An instruction from its words: checks 1 to 4 of R69 in order, then the constructor. -/
def decodeWords (ws : List Word) : Decoded :=
  match unpack ws with
  | none => .short
  | some (op, f, rsv) =>
    match decodeCheck op f rsv with
    | some c => .bad c (4 * ws.length)
    | none =>
      match build op f with
      | some i => .ok i (4 * ws.length)
      | none => .bad .illegalOp (4 * ws.length)

/-- The little-endian word of four bytes (R5). -/
def wordOf (b0 b1 b2 b3 : Byte) : Word := b3 ++ b2 ++ b1 ++ b0

/-- The words of a list of bytes; up to three trailing bytes are left over. -/
def toWords : List Byte → List Word
  | b0 :: b1 :: b2 :: b3 :: bs => wordOf b0 b1 b2 b3 :: toWords bs
  | _ => []

/-- The decoder on any bytes, the first at the lowest address: the instruction that begins them. -/
def decode (bs : List Byte) : Decoded :=
  match toWords bs with
  | [] => .short
  | w0 :: rest =>
    let n := lenWords (w0.extractLsb' 0 2).toNat
    if rest.length + 1 < n then .short else decodeWords ((w0 :: rest).take n)

/-- The words of an instruction; an event row has none. -/
def encode (i : Instr) : List Word :=
  match opOf i, fieldsOf i with
  | some op, some f => pack (BitVec.ofNat 8 op) f
  | _, _ => []

/-- The bytes of a list of words, as memory holds them (R5). -/
def wordBytes (ws : List Word) : List Byte := ws.flatMap fun w => leBytes 4 w.toNat

/-- The longest instruction, in bytes (R57). -/
def maxLen : Nat := 20

/-- The instruction whose bits are `w`, numbered as spec/opcode_table.json numbers them, every bit above `nbits`
zero. -/
def decodeTableWord (nbits w : Nat) : Option Instr :=
  match decode (leBytes maxLen (w % 2 ^ nbits)) with
  | .ok i _ => some i
  | _ => none

end Sys2Proof
end

