-- ==== Sys2Proof/Machine/Maps.lean ====
section
/-!
DEFINITION. Sparse maps: lists of (key, value) pairs with keys strictly rising and, where a map has a default
value, no entry equal to it. Memory, register files, caches and the tables of the device are held so.
-/

namespace Sys2Proof.Machine

/-- A sparse map; equal maps in canonical form are equal lists. -/
abbrev Map (α : Type) := List (Nat × α)

/-- The entry at `k`, if there is one. -/
def mfind {α : Type} (k : Nat) : Map α → Option α
  | [] => none
  | (k', v) :: m => if k' = k then some v else mfind k m

/-- The value at `k`, `d` where nothing is listed. -/
def mget {α : Type} (d : α) (m : Map α) (k : Nat) : α := (mfind k m).getD d

/-- `m` without key `k`. -/
def mdel {α : Type} (k : Nat) (m : Map α) : Map α := m.filter fun p => p.1 != k

/-- `m` with value `v` listed at `k`. -/
def mset {α : Type} (k : Nat) (v : α) : Map α → Map α
  | [] => [(k, v)]
  | (k', v') :: m =>
    if k < k' then (k, v) :: (k', v') :: m
    else if k' = k then (k, v) :: m
    else (k', v') :: mset k v m

/-- `m` with value `v` at `k`, in canonical form for the default `d`. -/
def mput {α : Type} [DecidableEq α] (d : α) (m : Map α) (k : Nat) (v : α) : Map α :=
  if v = d then mdel k m else mset k v m

/-- The keys of a map are strictly rising. -/
def msorted {α : Type} : Map α → Bool
  | [] => true
  | [_] => true
  | (k, _) :: (k', v') :: m => decide (k < k') && msorted ((k', v') :: m)

/-- A map is in canonical form for the default `d`. -/
def mcanon {α : Type} [DecidableEq α] (d : α) (m : Map α) : Bool := msorted m && m.all fun p => p.2 != d

end Sys2Proof.Machine
end

