-- ==== Sys2Proof/Machine/State.lean ====
section
/-!
DEFINITION. The state of the machine: everything the manual gives it, as plain data, and the state after reset.
-/

namespace Sys2Proof.Machine

/-- A load mark: the cause and the load's address (R215, R232). -/
structure Mark where
  cause : Cause
  addr  : Nat
  deriving DecidableEq, Repr

/-- How a word is served: through L1 and its home (HOME 0 and 2), at the memory controller (HOME 1), at a
scratchpad (HOME 3), or at another device (R50, R141, R148). -/
inductive Route where
  | cached | controller | scratch | remote
  deriving DecidableEq, Repr

/-- What came back for a word: its value, or the cause of its loss (R132, R215). -/
inductive Got where
  | word (w : Word)
  | lost (c : Cause)
  deriving DecidableEq, Repr

/-- One word that a load waits for: its home address, how it is served, the bytes it needs, and the word once it
has come (or the cause of its loss). -/
structure Slot where
  addr  : Nat
  route : Route
  need  : BitVec 4
  val   : Option Got
  /-- The virtual address of the word. -/
  va    : Nat := 0
  deriving DecidableEq, Repr

/-- The element format of a decoded access, as the page gives it (R48, R116, R117). -/
structure ElemFmt where
  fmt    : Nat
  scaled : Bool
  bit    : Nat
  bits   : Nat
  deriving DecidableEq, Repr

/-- How a lane's registers follow from the words of its slots: a sized load of bytes from offset `off` (R216), a
decoded element (R217, R254), or registers and values already known (queue-fed moves, ACCRD, engine results). -/
inductive Landing where
  | sized (d size off : Nat)
  | elem (d : Nat) (f : ElemFmt)
  | known (rs : List (Nat × Word))
  deriving DecidableEq, Repr

/-- One lane's part of an operation that writes registers later (R25). -/
structure LaneLoad where
  lane  : Nat
  va    : Nat
  slots : List Slot
  land  : Landing
  deriving DecidableEq, Repr

/-- A run of bytes that TLD waits for: where it goes (a byte of the tile, or under .tr a column), its address, its
length, and its words (R229). -/
structure TilePart where
  at_   : Nat
  va    : Nat
  len   : Nat
  slots : List Slot
  deriving DecidableEq, Repr

/-- One word or doubleword of an AMO or CAS: its lanes with operand and comparand, and once its home has answered,
`done`, the cause of its loss, and in place of the operands what each lane's destination receives (R220). -/
structure AtomItem where
  addr  : Nat
  route : Route
  wide  : Bool
  va    : Nat
  lanes : List (Nat × BitVec 64 × BitVec 64)
  done  : Bool := false
  lost  : Option Cause := none
  /-- The name of the request on its way to another device (R148). -/
  sent  : Option Nat := none
  /-- A system context made it. -/
  sys   : Bool := false
  deriving DecidableEq, Repr

/-- A leaf entry with its page (R44): the virtual base, the size exponent, and where the entry lies. -/
structure Leaf where
  w    : BitVec 128
  va   : Nat
  size : Nat
  at_  : Nat
  deriving DecidableEq, Repr

/-- An engine operation (R247–R259): its instruction (0 CPY, 1 GATH, 2 SCAT, 3 COL, 4 BNK) and SUB, the fields of its
descriptor, the descriptor's address, the window it starts in and whether it has started (R251), how far it has come,
the pages it uses as they stood at issue (by 64-KiB unit), bytes it has overwritten inside its source with what they
held before and hold now (R253), the source words it has read a part of with the bytes taken (R145), the destination words
held until the last of their bytes comes (R145), the operand words it has read, by the key of their homes (R260), the bytes of
requests some of whose words are held, counts that its barrier object owes once the
writes before a number are applied (R253), home addresses of cached words it has written, results still to push, the status
of its results so far (R259), and lanes. -/
structure EngineOp where
  code    : Nat
  sub     : Nat
  args    : List Nat
  dva     : Nat
  start   : Option Nat := none
  started : Bool := true
  next    : Nat := 0
  pages   : Map Leaf := []
  wrote   : Map (Byte × Byte) := []
  part    : Map (BitVec 4 × Word) := []
  keep    : Map (Nat × BitVec 4 × Word) := []
  seen    : Map Word := []
  uncount : List Nat := []
  owed    : List (Nat × Nat) := []
  words   : List Nat := []
  out     : List Word := []
  stat    : Nat := 0
  lanes   : List LaneLoad := []
  deriving DecidableEq, Repr

/-- The kinds of outstanding operation. -/
inductive OpKind where
  /-- Registers written by quarter when data comes; `qs`: quarters still to land. -/
  | load (lanes : List LaneLoad) (regs : List Nat) (qs : List Nat)
  /-- AMO (`code` 0–9) or CAS (`code` 10), destination `d` when it returns a value (R220). -/
  | atomic (code d : Nat) (ret wide : Bool) (items : List AtomItem) (qs : List Nat)
  /-- TLD: tile, the runs of bytes it waits for, element bytes under .tr (else 0), row bytes, and the scale slots by
  their place in the tile's scale area (R229). -/
  | tile (t : Nat) (parts : List TilePart) (eb rb : Nat) (scales : List (Nat × Slot))
  /-- An asynchronous MMA whose terms have entered (R236). -/
  | mma (acc : Nat)
  /-- An engine operation. -/
  | engine (e : EngineOp)
  deriving DecidableEq, Repr

/-- An outstanding operation of a group: its name, class (0 LD, 1 CP, 2 GS, 3 MX, 4 CL, 5 BK, 6 uncounted), whether
it has completed and waits only for older operations of its class (R39), a failure it has met (R249), and the port
that it streams into (R29). -/
structure Op where
  id   : Nat
  cls  : Nat
  kind : OpKind
  done : Bool := false
  fail : Option Mark := none
  port : Option Nat := none
  deriving DecidableEq, Repr

/-- A queue port: buffered elements, oldest first, and for kind 4 its local endpoint, destination node and
endpoint, and elements written and not yet taken by the fabric (R27–R30). -/
structure Port where
  elems : List Word := []
  local? : Option Nat := none
  node  : Nat := 0
  dest  : Nat := 0
  out   : List (List Word) := []
  /-- Elements of the oldest message that the fabric has taken already. -/
  sent  : List Word := []
  deriving DecidableEq, Repr

/-- A tile register (R31, R228, R232): data bytes (those not listed are zero, or free: `free` names the step that left them
undefined and the tile it left them in, so that a copy has the same bytes), full bit, resolved type, scale slots, and
lost-data mark. -/
structure Tile where
  bytes : Map Byte := []
  free  : Option (Nat × Nat) := none
  full  : Bool := true
  rt    : Nat := 0
  slots : Map (BitVec 24) := []
  mark  : Option Mark := none
  deriving DecidableEq, Repr

/-- A CLASP side in the bridge (R243): its partner core, tag, half, tiles D and A, executing lanes, the lanes that its guards
exclude, and its place in arrival order. -/
structure ClaspSide where
  partner : Nat
  tag     : Nat
  hi      : Bool
  d       : Nat
  a       : Nat
  lanes   : List Nat
  passed  : List Nat := []
  order   : Nat
  /-- Core cycles since its issue. -/
  cycles  : Nat := 0
  deriving DecidableEq, Repr

/-- A record of a keyed queue (R267). -/
structure KqRec where
  key    : Word
  pay    : BitVec 64
  bucket : Nat
  ovf    : Bool := false
  sealed : Bool := false
  order  : Nat := 0
  since  : Nat := 0
  /-- MIGR has been called for the record (R321). -/
  migr   : Bool := false
  deriving DecidableEq, Repr

/-- A push or a take that waits at a queue home (R269, R270): its lane, the queue, and what it pushes. -/
structure KqReq where
  lane : Nat
  q    : Nat
  rec? : Option KqRec := none
  deriving DecidableEq, Repr

/-- A KQPUSH, KQTAKE or KQSTEAL under way (R273): requests not yet performed, in lane order; the lanes served, with
what a take received; and the lanes that raise, with their causes. -/
structure KqWait where
  todo : List KqReq
  /-- First destination register of a take. -/
  d    : Nat := 0
  got  : List (Nat × Option KqRec) := []
  bad  : List (Nat × Cause) := []
  deriving DecidableEq, Repr

/-- The waiting state of a group inside an instruction (R155, R273, R316): the store sequence that a release waits
for, the BAR phase and the GBAR phase it has arrived in, and a keyed-queue instruction's requests. -/
structure Wait where
  relAt  : Option Nat := none
  /-- A TLBINV has removed its entries and waits for the operations issued before this number (R168). -/
  tlbAt  : Option Nat := none
  barAt  : Option Nat := none
  gbarAt : Option Nat := none
  /-- Phase of the group's last GBAR arrival that no completed .wait has answered. -/
  gbarOwed : Option Nat := none
  /-- The KQPUSH, KQTAKE or KQSTEAL that the group waits in. -/
  kq : Option KqWait := none
  /-- A CLASP side waits in the bridge, or its exchange has completed. -/
  clasp  : Option ClaspSide := none
  claspDone : Bool := false
  /-- The device time in ns that TWAIT waits for (R159). -/
  twait  : Option Nat := none
  deriving DecidableEq, Repr

/-- Group-scope control registers (R37). -/
structure Ctl where
  part   : Word := 5
  prio   : Word := 0
  qmap   : Word := 0
  tvec   : Word := 0
  troute : Word := 0
  cltmo  : Word := 65536
  msgloc : Word := 0
  msgdst : Word := 0
  timehi : Word := 0
  tc     : Map Word := []
  deriving DecidableEq, Repr

/-- The all-ones PC of an exited lane (R17). -/
def exitedPC : BitVec 64 := BitVec.allOnes 64

/-- A group (R16): per-lane registers (key 32 × register + lane), empty bits (key 4 × register + quarter), marks,
PCs (key lane; a lane not listed has exited), trap registers, tiles, ports, outstanding operations in issue
order, recorded failures with their class (R215, R249), and its scheduling state. Log entry 6. -/
structure Group where
  regs    : Map Word := []
  empties : Map Bool := []
  marks   : Map (Option Mark) := []
  pc      : Map (BitVec 64) := []
  park    : BitVec 32 := 0
  h       : Bool := false
  hmask   : BitVec 32 := 0
  tcause  : Map (BitVec 8) := []
  tepc    : Map Word := []
  taddr   : Map (BitVec 57) := []
  ctl     : Ctl := {}
  ports   : Map Port := []
  tiles   : Map Tile := []
  ops     : List Op := []
  fails   : List (Nat × Mark) := []
  wait    : Wait := {}
  /-- First physical accumulator of the grant (R34). -/
  acc     : Nat := 0
  slot    : Nat := 0
  pb      : Nat := 0
  /-- Launch order and passes, for the issue choice (R21); after YIELD the groups that
  must issue first (R20). -/
  age     : Nat := 0
  passes  : Nat := 0
  yielded : Bool := false
  owes    : List Nat := []
  /-- Latest window of the group's remote stores; the hold on later ones; how many REL sys have set one; WINDOW_OVERRUN owed
  (R149, R150). -/
  nlast   : Option Nat := none
  hold    : Option Nat := none
  relGen  : Nat := 0
  overrun : Bool := false
  /-- The group has stopped at a boundary for a halt request (R314). -/
  halted  : Bool := false
  /-- Pairs of registers that share a row, and the core cycles that the group has stalled for a row (R23). -/
  packed  : List (Nat × Nat) := []
  rowWait : Option Nat := none
  /-- Registers and tiles that the context frame holds in place of their rows and tile units: the frame's spilt masks (R315,
  R316). -/
  spiltRows  : List Nat := []
  spiltTiles : List Nat := []
  deriving DecidableEq, Repr

/-- A group that holds nothing: every lane exited. -/
def Group.idle : Group := {}

/-- What a team is doing (R314–R317); `placing`: placed, and held until its whole gang is (R16). -/
inductive TState where
  | running | halted | saved | parked | placing
  deriving DecidableEq, Repr

/-- An element of an accumulator (R33, R122): value, carry-out count and INVALID mark. -/
structure AccEl where
  val : BitVec 128 := 0
  cnt : BitVec 16 := 0
  inv : Bool := false
  deriving DecidableEq, Repr

/-- A physical accumulator of one quarter unit (R33, R34): elements (key 32 × row + column), anchor, flags, tag, and
whether its contents hold an error that cannot be corrected (R297). -/
structure Acc where
  els    : Map AccEl := []
  anchor : Option Int := none
  inx    : Bool := false
  ovf    : Bool := false
  tag    : BitVec 22 := 0x3FFFFF
  bad    : Bool := false
  deriving DecidableEq, Repr

/-- A core-pinned page (R46, R51, R281): its core and position, and the leaf entries that map it. -/
structure Pin where
  core   : Nat
  pos    : Nat
  leaves : List Nat := []
  deriving DecidableEq, Repr

/-- A team and its context (R16, R22, R34, R51, R77, R316). `idle` groups hold the pages that placement granted. -/
structure Team where
  sys    : Bool := false
  tenant : Nat := 0
  partid : Nat := 0
  root   : Nat := 0
  core   : Nat := 0
  part   : Nat := 0
  st     : TState := .running
  ngroups : Nat := 1
  widf   : Word := 5
  wid    : Nat := 0
  e0     : Nat := 32
  regs   : Nat := 1
  tiles  : Nat := 0
  accs   : Nat := 0
  srows  : Nat := 0
  priv   : Nat := 0
  watch  : Nat := 0
  barPhase : Nat := 0
  /-- Arrivals of the BAR phase: the expected count of each. -/
  barArr : List Nat := []
  gang   : Nat := 0
  qid    : Nat := 0
  tag    : Nat := 0
  launch : Nat := 0
  image  : Nat := 0
  kdesc  : Nat := 0
  taskKey : Word := 0
  taskPay : BitVec 64 := 0
  /-- The overflow bit of the record that a tile task was started from, which the system sees (R275). -/
  taskOvf : Bool := false
  /-- Core-pinned pages granted (R51, R281). -/
  pages  : List Pin := []
  /-- The physical address of the context frame (R316), the pages whose contents are there, by number in `pages` (R51, R315),
  and the accumulator images it holds (IMGMASK, R279): group × ACCS + k. -/
  frame  : Nat := 0
  /-- The 64-KiB pages of the frame's overflow area (R316). -/
  overPages : List Nat := []
  spilt  : Map Bool := []
  images : Map Bool := []
  /-- Groups that have ended: number, slot and first accumulator, which the tags of contents that they left still name (R34). -/
  past   : List (Nat × Nat × Nat) := []
  /-- The latest window of remote stores of the groups that have ended (R149). -/
  nlast  : Option Nat := none
  /-- The next restore packs no rows (R23); the team has been reported as placement-starved (R316). -/
  nopack : Bool := false
  starved : Bool := false
  /-- What a restore grants, once every team of the gang that is out has a grant (R316). -/
  offer  : Option Grant := none
  /-- A halt request is on its way to the groups (R314); the cluster that a MIGR decision moves the team to (R306). -/
  haltReq : Bool := false
  /-- The team halts because a page is missing: it is parked once it is saved (R317). -/
  park   : Bool := false
  move   : Option Nat := none
  deriving DecidableEq, Repr

/-- A gang (R16, R158): GBAR phase, the groups that have arrived in it, its teams, and its core-pinned pages once the team
that held them has ended (R281). -/
structure Gang where
  phase : Nat := 0
  arrived : List Nat := []
  teams : List Nat := []
  pages : List Pin := []
  deriving DecidableEq, Repr

/-- An SFU result queue entry (R197, R198): one quarter of one instruction, with the results to land, and whether its
group has still to meet its next instruction. -/
structure SfuEntry where
  grp : Nat
  d   : Nat
  q   : Nat
  res : List (Nat × Word)
  fresh : Bool := true
  deriving DecidableEq, Repr

/-- The states of an L1 word (R130); a word not listed is I. -/
inductive WSt where
  | v | p | o
  deriving DecidableEq, Repr

/-- An L1 word: state, value, bytes stored while P, and the sequence number of its registration. -/
structure L1Word where
  st  : WSt
  val : Word
  mask : BitVec 4
  seq : Nat
  deriving DecidableEq, Repr

/-- The header of a request's flits (R325): destination and source node, virtual channel, stream, sequence number and window
stamp; and the physical address that it names at its target (R326). The manual gives the type byte no values. -/
structure Flit where
  dst : BitVec 16 := 0
  src : BitVec 16 := 0
  vc  : BitVec 8 := 1
  stream : BitVec 16 := 0
  seq : BitVec 32 := 0
  win : BitVec 32 := 0
  pa  : Nat := 0
  deriving DecidableEq, Repr

/-- A store on its way to a controller, a scratchpad or another device (R133, R141, R148): storing group, route, and
for each word its address, the bytes written and the data; the virtual address; the engine operation it belongs to; for a
remote store the node, its place in the stream, the header of its flits, whether it is held behind a REL sys, and how many
REL sys of its group came before it (R149); and whether it is a remote AMO or CAS, which its home's answer ends (R148). -/
structure Flight where
  grp   : Nat
  op    : Option Nat := none
  route : Route
  words : List (Nat × BitVec 4 × Word)
  va    : Nat := 0
  node  : Nat := 0
  seq   : Nat := 0
  hdr   : Flit := {}
  held  : Bool := false
  gen   : Nat := 0
  atom  : Bool := false
  deriving DecidableEq, Repr

/-- The tag of an L1 line (R54, R293): the context and virtual line address under which it is held, the translation
attributes cached with it, unless a TLBINV has removed them (R56), and whether a demand access has used it (R53). A line is
in the L1 while the L1 holds a word of it. -/
structure L1Line where
  ctx    : Nat
  va     : Nat
  attr   : Option Leaf
  demand : Bool := true
  deriving DecidableEq, Repr

/-- A cluster TLB entry (R294): page size exponent, leaf words, and context. -/
structure TlbEntry where
  ctx  : Nat
  va   : Nat
  size : Nat
  leaf : BitVec 128
  leafAddr : Nat
  deriving DecidableEq, Repr

/-- The caches, homes and stores in flight (R130, R131, R290–R294). L1 words have key `core × 2^64 + home address`, the tags
of L1 lines `core × 2^64 + home address of the line`; the registry holds the owner core of each registered word, and for
each line the number of its latest grant; `lost` the words marked lost; `l2` the words of a slice newer than memory; `bad`
the words that their slice, memory or scratchpad holds with an error that cannot be corrected (R297); `pinned` the
slice-pinned lines held; `cut` a word whose transfer over a module or a port fails past the retry limit in the step of that
number (R297). -/
structure Caches where
  l1      : Map L1Word := []
  lines   : Map L1Line := []
  owner   : Map Nat := []
  granted : Map Nat := []
  grants  : Nat := 0
  lost    : Map Bool := []
  bad     : Map Bool := []
  l2      : Map Word := []
  pinned  : Map Bool := []
  cut     : Option (Nat × Nat) := none
  /-- Outstanding line fills: key core × 2^64 + line's home address (R293). -/
  miss    : Map Bool := []
  flights : Map Flight := []
  tlb     : Map (List TlbEntry) := []
  deriving DecidableEq, Repr

/-- Scrub pending bits (R296): key PA of a 64-byte sector. -/
abbrev Scrubs := Map Bool

/-- An event record (R302), without its sequence number. -/
structure Event where
  code   : Nat
  src    : Nat
  qid    : Nat
  tag    : Nat
  detail : Nat
  addr   : Nat
  value  : Nat
  deriving DecidableEq, Repr

/-- A virtual queue (R298–R303). `resident`: its die and slot; `heldTail`: a TAIL that waits in NOTIFY for
residency; `cls`: the class of its latest ENQ decision; `seq`: event records written; `held`: up to 16 events
waiting for room. -/
structure VQueue where
  req      : QueueReq
  tail     : Word := 0
  ridx     : Word := 0
  resv     : Word := 0
  stopped  : Nat := 0
  ehead    : Word := 0
  etail    : Word := 0
  resident : Option (Nat × Nat) := none
  heldTail : Option Word := none
  cls      : Option Nat := none
  seq      : Nat := 0
  held     : List Event := []
  lastUse  : Nat := 0
  /-- A WAKE found no slot on this die: it is called again when one becomes free or idle (R303). -/
  wants    : Option Nat := none
  /-- Device times (ns) at which each accepted TAIL published records: (index one past, time). -/
  accepts  : List (Word × Nat) := []
  /-- Writes to NOTIFY of a resident queue, not yet applied to its slot page (R303): offset and data, oldest first. -/
  fwd      : List (Nat × Word) := []
  /-- The line has still to be copied to NOTIFY, whose stack was fenced (R303, R334). -/
  lineOwed : Bool := false
  deriving DecidableEq, Repr

/-- How far a launch record has come (R300, R301). -/
inductive RState where
  | waiting | started | ended
  deriving DecidableEq, Repr

/-- A launch record read from a ring, or a tile-task record taken by the dispatcher (R301, R304): where it came
from, its fields, and its teams. -/
structure Launch where
  qid    : Nat
  idx    : Word := 0
  kind   : Nat := 1
  flags  : Nat := 0
  prio   : Nat := 0
  tag    : Nat := 0
  exts   : List Nat := []
  wfaddr : Nat := 0
  wfval  : Nat := 0
  sfaddr : Nat := 0
  sfval  : Nat := 0
  kdesc  : Nat := 0
  st     : RState := .waiting
  order  : Nat := 0
  placed : Nat := 0
  live   : Nat := 0
  /-- The physical address of the wait fence's word, and whether a write that met the fence has been examined (R301). -/
  wfpa   : Nat := 0
  met    : Bool := false
  /-- Of the teams that have ended: context, core, and the number before which lie the accesses that the record's release
  covers; and the latest window of their remote stores (R301). -/
  ends   : List (Nat × Nat × Nat) := []
  nlast  : Option Nat := none
  /-- Grants of the gang being placed, until every one of its teams has one (R16, R305). -/
  offers : List Grant := []
  task   : Option (Word × BitVec 64) := none
  /-- The overflow bit of the task's record, which the system sees (R275). -/
  taskOvf : Bool := false
  /-- The descriptor and image it names, the entry extents in force, and the gang being placed. -/
  desc   : Option KernelDesc := none
  image  : Nat := 0
  gang   : Nat := 0
  deriving DecidableEq, Repr

/-- A silent turn of the agenda: an event row of the opcode table, or one of the cache movements that the manual
allows at any time: a TLB entry leaves (R294), a slice writes a word back (R290), a registry entry is retired
(R291); what the system and the repair logic settle by themselves: a PARTID's private reserve (R52), a queue partition's root
table (R298), a unit that fails its repair (R337), or of a row set some of its rows (R23), the pages of a frame's overflow area
(R316); or a management command of a code that R328 does not have. -/
inductive Turn where
  | event (i : Instr)
  | tlbEvict (cluster i : Nat)
  | l2Evict (addr : Nat)
  | retire (line : Nat)
  | reserve (partid base bytes : Nat)
  | root (partid root : Nat)
  | spare (kind unit rows : Nat)
  | overflow (ctx : Nat) (pages : List Nat)
  | command (code : Nat)
  deriving DecidableEq, Repr

/-- A keyed queue (R264–R267): configuration, enabling context, records, and waiting groups in arrival order. -/
structure KQueue where
  en      : Bool := false
  cap     : Nat := 0
  rdy     : Nat := 0
  op      : Nat := 0
  partid  : Nat := 0
  sys     : Bool := false
  recs    : List KqRec := []
  waiters : List Nat := []
  binding : BitVec 128 := 0
  /-- The class of the latest ENQ decision (R306). -/
  cls     : Option Nat := none
  deriving DecidableEq, Repr

/-- A request to a policy engine (R306, R307): decision point 1–6, kind of its instance (CKIND, R308), instance, and
for a tile-task record its key. -/
structure PReq where
  point : Nat
  kind  : Nat
  inst  : Nat
  key   : Word := 0
  deriving DecidableEq, Repr

/-- How a routine stands: running, ended by EXIT, or ended without a decision (R76, R311). -/
inductive PStatus where
  | running | decided | failed
  deriving DecidableEq, Repr

/-- The routine that a policy engine runs (R306, R309): its request, tenant (16 the hypervisor), decision registers,
EVNT records, mesh cycles used, text, and pocket window. Its lane's registers and PC are a group of the map `groups`. -/
structure PRun where
  req    : PReq
  tenant : Nat
  dec    : Map Word := []
  evnts  : List (Nat × Word) := []
  cost   : Nat := 0
  allow  : Nat := 2048
  code   : List Word := []
  window : Nat := 0
  wsize  : Nat := 0
  qid    : Nat := 0
  status : PStatus := .running
  deriving DecidableEq, Repr

/-- A bound routine (R309): its image, text, window, and the queue its image named. -/
structure Routine where
  image  : Nat
  code   : List Word
  window : Nat
  wsize  : Nat
  qid    : Nat
  deriving DecidableEq, Repr

/-- A policy engine (R306, R307): the running routine, the request buffer and the requests waiting at their sources. -/
structure Engine where
  run  : Option PRun := none
  reqs : List PReq := []
  wait : List PReq := []
  deriving DecidableEq, Repr

/-- A loaded image (R105 to R107, R111, R309): the queue, tenant and partition it was loaded for, its descriptors, the leaves
of its pages, the base and size of each window, and whether an unload waits. -/
structure Image where
  qid      : Nat
  tenant   : Nat
  partid   : Nat := 0
  kernels  : List KernelDesc := []
  routines : List RoutineDesc := []
  pages    : List PageReq := []
  windows  : List (Nat × Nat) := []
  unload   : Bool := false
  deriving DecidableEq, Repr

/-- A message endpoint (R30): its definition, the messages waiting in its receive buffer, and the port that holds it
(8 × group + port). -/
structure Endpoint where
  req    : EndpointReq
  buf    : List (List Word) := []
  holder : Option Nat := none
  deriving DecidableEq, Repr

/-- The stream to one node (R148–R151): acknowledgement ordering, and how many stores and atomics it has carried, which
number them; those that the node has not acknowledged are in `flights`. `lost`: the window at which the bound was last
missed. -/
structure Stream where
  ack   : Bool := false
  seq   : Nat := 0
  lost  : Nat := 0
  deriving DecidableEq, Repr

/-- A port of the Ramfer Link (R325, R332). -/
structure Link where
  up   : Bool := false
  peer : Nat := 0xFFFF
  deriving DecidableEq, Repr

/-- The device (R323–R339): time and windows, node number, synchronisation, tables, images, links, service state. -/
structure Dev where
  time     : Nat := 0
  wlen     : Nat := 4096
  wlenNext : Option Nat := none
  /-- Device time at which the staged window length takes effect. -/
  wlenAt   : Nat := 0
  node     : BitVec 16 := 0xFFFF
  /-- SYNC_STATE (R329): 0 locked, 1 holdover, 2 unsynchronised; ERR in ns; times of the last Sync and of holdover. -/
  sync     : Nat := 2
  err      : Nat := 0
  lastSync : Nat := 0
  holdAt   : Nat := 0
  stepped  : Bool := false
  /-- A launch has been admitted since device reset (R330). -/
  admitted : Bool := false
  devq     : Option Nat := none
  images   : Map Image := []
  apertures : Map Aperture := []
  imports  : Map ImportEntry := []
  colsets  : Map CollectiveSet := []
  /-- COLs that a rank has issued on a set (R256): key 256 × set + rank; and by set the ordinals that have timed out. -/
  colCount : Map Nat := []
  colLate  : Map (List Nat) := []
  /-- Message endpoints (R30), the streams to each node (R148), and the ports (R325). -/
  endpoints : Map Endpoint := []
  streams  : Map Stream := []
  links    : Map Link := []
  /-- Device time at which a port last stopped reaching a node that it had reached (R332). -/
  cut      : Map Nat := []
  /-- Stores and atomics of other devices applied here (R151): node, stream, window stamp and number (R325) in one key. -/
  applied  : Map Bool := []
  /-- Die states (R329): 0 up, 1 quiescing, 2 reset; and cores fenced off (R132). -/
  dies     : Map Nat := []
  fenced   : Map Bool := []
  /-- Units spared out (R337): key kind × 65536 + unit; rows of each lane set that have been spared out (R23), key
  core × 16 + lane set; the conditions that have set the REPLACE bit. -/
  spared   : Map Bool := []
  rowsOut  : Map Nat := []
  replace  : List Nat := []
  fw       : Firmware := { svn := 0, body := [], sigE := [], sigM := [] }
  staged   : Option Firmware := none
  svnMin   : Nat := 0
  /-- The granule table (R287): granules whose decode mode differs from the default table's. -/
  granules : Map Nat := []
  recovery : Bool := false
  cap      : Nat := 1650
  thermal  : Nat := 0
  off      : Bool := false
  /-- Status word and data of the last management command (R328, R336). -/
  status   : Nat := 0
  report   : List Byte := []
  /-- The reply to the latest fabric request (R327): none where it is an error, or a store. -/
  reply    : Option (BitVec 128) := none
  /-- Frames whose scrub has been accepted and is not done (R296, R338): the entry that SCRUB_DONE names, and the units still
  pending, each with its scrub table entry and its first byte. -/
  frames   : List (Nat × List (Nat × Nat)) := []
  /-- The private reserve of each PARTID, first byte and size (R52; log entry 63), and the root table of each PARTID's queue
  addresses (R298; log entry 14): what the runtime has set aside. -/
  reserve  : Map (Nat × Nat) := []
  roots    : Map Nat := []
  deriving DecidableEq, Repr

/-- Why the machine stops: no meaning of this model does. -/
inductive Fault where
  /-- Raised by no meaning: an address that the machine does not have takes the trap that R47 names. The type needs a
  constructor of its own for the host's interface. Safe: nothing is claimed of a run that it would end. -/
  | noSuchAddress (pa : Nat)
  deriving DecidableEq, Repr

/-- Why an instruction has no meaning. -/
inductive Refusal where
  /-- Raised by an arm of `exec` whose instruction has no meaning yet. Safe: nothing is claimed of it. -/
  | notModelled (mnemonic : String)
  deriving DecidableEq, Repr

/-- The machine. -/
structure State where
  /-- The model's own: the turns to come (log entry 2). -/
  agenda  : List Turn := []
  /-- The model's own: the group whose turn it is, and whether the instruction it now issues stalls. -/
  cur     : Nat := 0
  stalled : Bool := false
  /-- The model's own: groups whose last issue stalled, until another slot of their lane set has issued or their next instruction
  is found stalled no more (R21; log entry 66). -/
  blocked : List Nat := []
  /-- The model's own: how many times the machine has gone on by itself (log entry 2). -/
  turn    : Nat := 0
  /-- The model's own: step number, for free values; next name for operations, stores and launches. -/
  tick    : Nat := 0
  nextId  : Nat := 1
  groups  : Map Group := []
  teams   : Map Team := []
  gangs   : Map Gang := []
  accs    : Map Acc := []
  /-- The system scratch image of each core: what was last spilt there, by core and unit (R279; log entry 48). -/
  sysImages : Map Acc := []
  sfu     : Map (List SfuEntry) := []
  /-- Atomics of groups that have ended, whose homes have not performed them: core and operation, by name. -/
  orphans : Map (Nat × Op) := []
  mem     : List Host.Cell := []
  scrubs  : Scrubs := []
  caches  : Caches := {}
  kqs     : Map KQueue := []
  queues  : Map VQueue := []
  launches : Map Launch := []
  /-- Groups that have ended with remote stores held behind a REL sys: the latest window stamped (R149). -/
  late     : Map Nat := []
  /-- Writes of watched fence words that Grenlar has still to examine: the word's address, and what the write left (R301). -/
  fences   : List (Nat × Nat) := []
  /-- Partition entries: key 8 × core + partition (R305). -/
  partitions : Map (BitVec 128) := []
  /-- Policy controls (R311): TPER by die; ALLOW by 32 × die + tenant; WDOG by 32 × die + tenant. -/
  tper    : Map Nat := []
  allow   : Map Nat := []
  wdog    : Map Nat := []
  engines : Map Engine := []
  /-- Policy counters that are counts (R308): key index × 2^32 + cluster × 2^16 + instance. -/
  pcnt    : Map Nat := []
  /-- Running tenant, slice end and last PICK tenant of each partition (R306); MWAIT by 32 × die + tenant (R321). -/
  runTen  : Map Nat := []
  sliceEnd : Map Nat := []
  lastPick : Map Nat := []
  /-- The source that the latest PICK decision chose for a partition: 64 × kind + source (R306). -/
  picks    : Map Nat := []
  mwait   : Map Nat := []
  dev     : Dev := {}
  /-- Bound routines: key 64 × tenant + point (R309). -/
  routines : Map Routine := []
  deriving DecidableEq, Repr

/-- The machine right after reset: every field at the default written beside it, which is the value that the manual
states or the log names (R343; log entries 4 and 5). -/
def State.reset : State := {}

end Sys2Proof.Machine
end

