-- ==== Sys2Proof/Machine/Regs.lean ====
section
/-!
DEFINITION. The named operations over groups, lanes and registers: issue selection (R17), program counters (R18),
registers with their full/empty bits and marks (R23, R25, R215), ports (R28), and outstanding operations (R39).
-/

namespace Sys2Proof.Machine

/-- Groups are named by `64 × context number + group index`; the lane of a policy engine by `policyBase + cluster`. -/
def policyBase : Nat := 2 ^ 30
def isPolicy (k : Nat) : Bool := policyBase ≤ k
def ctxOf (k : Nat) : Nat := k / 64
def gidOf (k : Nat) : Nat := k % 64
def clusterOfEngine (k : Nat) : Nat := k - policyBase

/-- The group of a name. -/
def State.group (s : State) (k : Nat) : Group := mget Group.idle s.groups k
def State.setGroup (s : State) (k : Nat) (g : Group) : State := { s with groups := mset k g s.groups }
def State.updGroup (s : State) (k : Nat) (f : Group → Group) : State := s.setGroup k (f (s.group k))

/-- What a policy routine holds in place of a team (R78): 64 registers and nothing else. -/
def policyTeam : Team := { regs := 64 }

/-- The team of a group. -/
def State.teamOf (s : State) (k : Nat) : Team :=
  if isPolicy k then policyTeam else mget {} s.teams (ctxOf k)
def State.setTeam (s : State) (c : Nat) (t : Team) : State := { s with teams := mset c t s.teams }
def State.updTeam (s : State) (c : Nat) (f : Team → Team) : State := s.setTeam c (f (mget {} s.teams c))

/-- Placement of a core (R37): 8 cores a cluster, 8 clusters a die. -/
def clusterOf (core : Nat) : Nat := core / 8
def dieOf (core : Nat) : Nat := core / 64
def dieOfCluster (c : Nat) : Nat := c / 8

def State.coreOf (s : State) (k : Nat) : Nat := (s.teamOf k).core

/-- A group of a context that may run (R314). -/
def State.runs (s : State) (k : Nat) : Bool := isPolicy k || (s.teamOf k).st == .running && !(s.group k).halted

/-! ### Program counters -/

/-- The PC of a lane (R17). -/
def Group.pcOf (g : Group) (l : Nat) : BitVec 64 := mget exitedPC g.pc l

/-- A lane has not exited. -/
def Group.alive (g : Group) (l : Nat) : Bool := g.pcOf l != exitedPC

/-- The live lanes of R17; while H = 1 only the lanes of HMASK (R164). -/
def Group.live (g : Group) : List Nat := allLanes.filter fun l => g.alive l && (!g.h || laneBit g.hmask l)

/-- The lanes that may issue: the live lanes not parked, or all of them when all are parked (R17). -/
def Group.cand (g : Group) : List Nat :=
  let c := g.live.filter fun l => !laneBit g.park l
  if c.isEmpty then g.live else c

/-- PARKMASK after R17: the park bits of the live lanes clear when every live lane was parked. -/
def Group.unpark (g : Group) : Group :=
  if (g.live.filter fun l => !laneBit g.park l).isEmpty then { g with park := g.park &&& ~~~(maskOf g.live) } else g

/-- The least PC of some lanes. -/
def Group.minPc (g : Group) (ls : List Nat) : BitVec 64 :=
  ls.foldl (fun m l => if (g.pcOf l).toNat < m.toNat then g.pcOf l else m) exitedPC

/-- The issue PC (R17). -/
def Group.issuePc (g : Group) : BitVec 64 := g.minPc g.cand

/-- The lanes at the issue PC, ascending (R17). -/
def Group.atIssue (g : Group) : List Nat := g.cand.filter fun l => g.pcOf l == g.issuePc

/-- Set the PCs of some lanes. -/
def Group.setPcs (g : Group) (ls : List Nat) (pc : Nat → BitVec 64) : Group :=
  { g with pc := ls.foldl (fun m l => mput exitedPC m l (pc l)) g.pc }

/-- Advance some lanes by the instruction's length (R18). -/
def Group.advance (g : Group) (ls : List Nat) (len : Nat) : Group :=
  g.setPcs ls fun l => g.pcOf l + BitVec.ofNat 64 len

/-! ### Registers -/

/-- The register of a lane (R23). -/
def Group.reg (g : Group) (r l : Nat) : Word := mget 0#32 g.regs (32 * r + l)

/-- Write a register of a lane; any write clears its mark (R215). -/
def Group.setReg (g : Group) (r l : Nat) (w : Word) : Group :=
  { g with regs := mput 0#32 g.regs (32 * r + l) w, marks := mdel (32 * r + l) g.marks }

/-- The mark of a register of a lane. -/
def Group.markOf (g : Group) (r l : Nat) : Option Mark := mget none g.marks (32 * r + l)
def Group.setMark (g : Group) (r l : Nat) (m : Mark) : Group := { g with marks := mset (32 * r + l) (some m) g.marks }

/-- Write one value per lane into a register. -/
def Group.setRegs (g : Group) (r : Nat) (ls : List Nat) (v : Nat → Word) : Group :=
  ls.foldl (fun h l => h.setReg r l (v l)) g

/-- Write one 64-bit value per lane into a register pair (R6). -/
def Group.setPairs (g : Group) (r : Nat) (ls : List Nat) (v : Nat → BitVec 64) : Group :=
  (g.setRegs r ls fun l => lo32 (v l)).setRegs (r + 1) ls fun l => hi32 (v l)

/-- The pair of registers of a lane. -/
def Group.pair (g : Group) (r l : Nat) : BitVec 64 := pair64 (g.reg r l) (g.reg (r + 1) l)

/-- The full/empty bits (R25): a register is empty in a quarter. -/
def Group.emptyIn (g : Group) (r q : Nat) : Bool := mget false g.empties (4 * r + q)
def Group.setEmpty (g : Group) (r : Nat) (qs : List Nat) (b : Bool) : Group :=
  { g with empties := qs.foldl (fun m q => mput false m (4 * r + q) b) g.empties }

/-- A register is full in all of some quarters. -/
def Group.fullIn (g : Group) (r : Nat) (qs : List Nat) : Bool := qs.all fun q => !g.emptyIn r q

/-! ### Ports (R27, R28) -/

/-- A register field names a port. -/
def isPort (r : Nat) : Bool := 120 ≤ r

def Group.port (g : Group) (q : Nat) : Port := mget {} g.ports q
def Group.setPort (g : Group) (q : Nat) (p : Port) : Group := { g with ports := mput {} g.ports q p }

/-- The kind bound to a port (R27). -/
def Group.portKind (g : Group) (q : Nat) : Nat := bits g.ctl.qmap.toNat (4 * q + 2) (4 * q)

/-- The elements a kind-4 port still holds to send. -/
def Port.outCount (p : Port) : Nat := (p.out.map List.length).sum

/-- The room of a port, of its 256 elements: those received and those written share it (R28). -/
def Port.room (p : Port) : Nat := 256 - (p.elems.length + p.outCount)

/-- Rank of a lane among lanes (R28). -/
def rankOf (ls : List Nat) (l : Nat) : Nat := (ls.takeWhile fun x => x != l).length

/-- The value a lane reads from a register field: a register, or a port's element of the lane's rank (R28). -/
def Group.src (g : Group) (ls : List Nat) (r l : Nat) : Word :=
  if isPort r then (g.port (r - 120)).elems.getD (rankOf ls l) 0#32 else g.reg r l

/-- Take the elements of some lanes from a field that names a port (R28). -/
def Group.pop (g : Group) (ls : List Nat) (r : Nat) : Group :=
  if isPort r then
    let p := g.port (r - 120)
    g.setPort (r - 120) { p with elems := p.elems.drop ls.length }
  else g

/-- Push one message of the lanes' values into a kind-4 port (R28, R30). -/
def Group.push (g : Group) (q : Nat) (vs : List Word) : Group :=
  let p := g.port q
  if vs.isEmpty then g else g.setPort q { p with out := p.out ++ [vs] }

/-! ### Outstanding operations (R39) -/

/-- The class counter: operations issued and not counted down. -/
def Group.count (g : Group) (c : Nat) : Nat := (g.ops.filter fun o => o.cls == c).length

/-- An operation of a class may issue: its counter is below 63 (R39). -/
def Group.countRoom (g : Group) (c : Nat) : Bool := g.count c < 63

/-- Count down in issue order: the completed operations that no older uncompleted one of their class precedes leave
(R39). -/
def retire : List Op → List Nat → List Op
  | [], _ => []
  | o :: os, blocked =>
    if o.done && (o.cls == 6 || !blocked.contains o.cls) then retire os blocked
    else o :: retire os (o.cls :: blocked)

def Group.retired (g : Group) : Group := { g with ops := retire g.ops [] }

/-- Replace the operation of a name. -/
def Group.updOp (g : Group) (id : Nat) (f : Op → Op) : Group :=
  { g with ops := g.ops.map fun o => if o.id == id then f o else o }

def Group.findOp (g : Group) (id : Nat) : Option Op := g.ops.find? fun o => o.id == id

/-- Issue an operation under the next name. -/
def State.addOp (s : State) (k cls : Nat) (kind : OpKind) : State :=
  let s := s.updGroup k fun g => { g with ops := g.ops ++ [{ id := s.nextId, cls := cls, kind := kind }] }
  { s with nextId := s.nextId + 1 }

/-! ### Tiles and accumulators -/

def Group.tile (g : Group) (t : Nat) : Tile := mget {} g.tiles t
def Group.setTile (g : Group) (t : Nat) (x : Tile) : Group := { g with tiles := mput {} g.tiles t x }

/-- Byte `i` of a tile. -/
def Tile.byte (x : Tile) (i : Nat) : Byte :=
  match mfind i x.bytes, x.free with
  | some b, _ => b
  | none, some n => Config.freeTileByte n.1 n.2 i
  | none, none => 0#8

/-- The number of a physical accumulator: core, quarter unit, index (R33). -/
def accKey (core unit p : Nat) : Nat := (core * 4 + unit) * 8 + p
def State.acc (s : State) (core unit p : Nat) : Acc := mget {} s.accs (accKey core unit p)
def State.setAcc (s : State) (core unit p : Nat) (a : Acc) : State :=
  { s with accs := mput {} s.accs (accKey core unit p) a }

end Sys2Proof.Machine
end

