-- ==== Sys2Proof/Machine/Mem.lean ====
section
/-!
DEFINITION. Memory: physical memory with its scrub table (R286, R295, R296), homes and L1 words (R130–R132,
R141, R290–R293), page tables, translation and CheckAccess (R43–R50, R294).
-/

namespace Sys2Proof.Machine

/-! ### Physical memory -/

/-- Scratchpad byte `off` of a core lies at this address of the model's one physical space (R46, R295). -/
def scratchBase : Nat := 2 ^ 52
def scratchPA (core off : Nat) : Nat := scratchBase + core * 2 ^ 22 + off

/-- The region of a physical address (R286). -/
def regionOf (pa : Nat) : Nat := bits pa 51 48

/-- The address lies in a device window (R303). -/
def isWindow (pa : Nat) : Bool := pa < scratchBase && regionOf pa == 2

/-- The address lies in HBM (R286). -/
def isHbm (pa : Nat) : Bool := pa < 2 ^ 39

/-- What a byte that nothing has written reads as (log entry 4). -/
def memDefault : Byte := 0#8

/-- The sector of a byte (R296). -/
def sectorOf (pa : Nat) : Nat := pa / 64 * 64

/-- A sector waits for scrubbing (R296). -/
def State.pending (s : State) (pa : Nat) : Bool := mget false s.scrubs (sectorOf pa)

/-- The byte at a physical address of HBM, pocket or scratchpad: zero while its sector is pending (R296). -/
def State.byte (s : State) (pa : Nat) : Byte := if s.pending pa then 0#8 else mget memDefault s.mem pa

/-- Memory with one byte written, in canonical form. -/
def memPut (m : List Host.Cell) (pa : Nat) (b : Byte) : List Host.Cell := mput memDefault m pa b

/-- Memory with consecutive bytes written. -/
def memPuts (m : List Host.Cell) : Nat → List Byte → List Host.Cell
  | _, [] => m
  | pa, b :: bs => memPuts (memPut m pa b) (pa + 1) bs

/-- The form of memory: addresses strictly rising, no entry that an unlisted address reads as. -/
def Memory.wf (m : List Host.Cell) : Bool := mcanon memDefault m

/-- A write to a pending sector first zero-fills it (R296). -/
def State.settle (s : State) (pa : Nat) : State :=
  if s.pending pa then
    { s with
      mem := memPuts s.mem (sectorOf pa) (List.replicate 64 0#8),
      scrubs := mdel (sectorOf pa) s.scrubs }
  else s

/-- Write a byte at a physical address of HBM, pocket or scratchpad. -/
def State.putByte (s : State) (pa : Nat) (b : Byte) : State :=
  let s := s.settle pa
  { s with mem := memPut s.mem pa b }

/-- Write consecutive bytes. -/
def State.putBytes (s : State) : Nat → List Byte → State
  | _, [] => s
  | pa, b :: bs => (s.putByte pa b).putBytes (pa + 1) bs

/-- Consecutive bytes. -/
def State.bytes (s : State) (pa n : Nat) : List Byte := (List.range n).map fun i => s.byte (pa + i)

/-- A little-endian number of `n` bytes. -/
def State.num (s : State) (pa n : Nat) : Nat := leNat (s.bytes pa n)

/-- The 32-bit word with the bytes of `mask` taken from `new` (R131). -/
def mergeBytes (mask : BitVec 4) (new old : Word) : Word :=
  let pick := fun i => if mask.getLsbD i then new.extractLsb' (8 * i) 8 else old.extractLsb' (8 * i) 8
  pick 3 ++ pick 2 ++ pick 1 ++ pick 0

/-! ### Device windows (R303, R305, R304) -/

/-- A word of a queue's notify line (R299). -/
def VQueue.notifyWord (q : VQueue) (off : Nat) : Word :=
  if off = 0x00 then q.tail else if off = 0x04 then q.ridx else if off = 0x08 then q.resv
  else if off = 0x0C then BitVec.ofNat 32 q.stopped else if off = 0x10 then q.ehead
  else if off = 0x14 then q.etail else 0#32

/-- The queue resident in a hardware slot (R303). -/
def State.slotQueue (s : State) (die slot : Nat) : Option (Nat × VQueue) :=
  s.queues.find? fun p => p.2.resident == some (die, slot)

/-- Word `i` of a 16-byte entry. -/
def entryWord (w : BitVec 128) (i : Nat) : Word := w.extractLsb' (32 * i) 32

/-- A word of a device window (R303): slot pages, partition tables and tile-task bindings; page 49 and the rest of a
slot page have no layout in the manual (log entry 13). -/
def State.windowWord (s : State) (pa : Nat) : Word :=
  let die := bits pa 23 22; let page := bits pa 21 16; let off := bits pa 15 0 / 4 * 4
  if page < 48 then
    if off < 64 then
      match s.slotQueue die page with
      | some (_, q) => q.notifyWord off
      | none => 0#32
    else Config.freeWindowWord s.tick pa
  else if page = 48 then
    if off < 64 * 128 then entryWord (mget 0 s.partitions ((64 * die + off / 128) * 8 + off % 128 / 16)) (off % 16 / 4)
    else 0#32
  else if page = 50 then
    if off < 16 * 512 then
      entryWord (mget {} s.kqs ((8 * die + off / 1024) * 64 + off % 1024 / 16)).binding (off % 16 / 4)
    else 0#32
  else Config.freeWindowWord s.tick pa

/-- The word at a memory controller or scratchpad. -/
def State.ctlWord (s : State) (a : Nat) : Word :=
  if isWindow a then s.windowWord a else BitVec.ofNat 32 (s.num a 4)

/-- A stored word holds an error that cannot be corrected (R297). -/
def State.isBad (s : State) (a : Nat) : Bool := mget false s.caches.bad a
def State.setBad (s : State) (a : Nat) (b : Bool) : State :=
  { s with caches := { s.caches with bad := mput false s.caches.bad a b } }

/-- The copy of a word that a slice holds has such an error, apart from memory's (R55, R297): a key of its own. -/
def State.sliceErr (s : State) (ha : Nat) : Bool := s.isBad (2 ^ 64 + ha)
def State.setSliceErr (s : State) (ha : Nat) (b : Bool) : State := s.setBad (2 ^ 64 + ha) b

/-- A write finds a word with an error that cannot be corrected: its bytes are zero before the write (log entry 71). -/
def State.cleanBad (s : State) (a : Nat) : State :=
  if s.isBad a then (s.setBad a false).putBytes a (List.replicate 4 0#8) else s

/-- Grenlar is to examine what a write leaves in a fence word it watches: that of a record that has been read and waits
(R301). -/
def State.noteFence (s : State) (a : Nat) : State :=
  if s.launches.any fun p => p.2.st == .waiting && p.2.flags.testBit 1 && p.2.wfpa / 8 == a / 8 then
    { s with fences := s.fences ++ [(a / 8 * 8, s.num (a / 8 * 8) 8)] }
  else s

/-- Several words have been written as one write: each fence word among those noted since `n` has been left as it stands now,
once. -/
def State.joinFences (s : State) (n : Nat) : State :=
  { s with fences := s.fences.take n ++ (((s.fences.drop n).map Prod.fst).eraseDups.map fun a => (a, s.num a 8)) }

/-- Write bytes of a word at a memory controller or scratchpad. -/
def State.putWord (s : State) (a : Nat) (mask : BitVec 4) (w : Word) : State :=
  let s := s.cleanBad a
  let wr := fun (t : State) i => if mask.getLsbD i then t.putByte (a + i) (w.extractLsb' (8 * i) 8) else t
  (wr (wr (wr (wr s 0) 1) 2) 3).noteFence a

/-! ### Homes and L1 words

A home address is a physical address; for a slice-pinned page it carries the HOMELOC above bit 53, since each home
keeps its own registry (R55). -/

def homeAddr (home homeloc pa : Nat) : Nat := if home = 2 then pa + (homeloc + 1) * 2 ^ 53 else pa
def paOf (ha : Nat) : Nat := ha % 2 ^ 53
def lineOf (ha : Nat) : Nat := ha / 64 * 64

/-- The key of an L1 word. -/
def l1Key (core ha : Nat) : Nat := core * 2 ^ 64 + ha
def State.l1 (s : State) (core ha : Nat) : Option L1Word := mfind (l1Key core ha) s.caches.l1
def State.setL1 (s : State) (core ha : Nat) (w : L1Word) : State :=
  { s with caches := { s.caches with l1 := mset (l1Key core ha) w s.caches.l1 } }
def State.dropL1 (s : State) (core ha : Nat) : State :=
  { s with caches := { s.caches with l1 := mdel (l1Key core ha) s.caches.l1 } }

/-- The words an L1 holds: home address and word. -/
def State.l1Words (s : State) (core : Nat) : List (Nat × L1Word) :=
  s.caches.l1.filterMap fun p => if p.1 / 2 ^ 64 == core then some (p.1 % 2 ^ 64, p.2) else none

/-- The registered owner of a word (R130, R291). -/
def State.ownerOf (s : State) (ha : Nat) : Option Nat := mfind ha s.caches.owner
def State.setOwner (s : State) (ha core : Nat) : State :=
  { s with caches := { s.caches with owner := mset ha core s.caches.owner } }
def State.delOwner (s : State) (ha : Nat) : State :=
  { s with caches := { s.caches with owner := mdel ha s.caches.owner } }

/-- The decode mode of a granule under the default granule table (R287). -/
def gmodeDefault (g : Nat) : Nat :=
  let i := g % 64
  if i < 16 then 0 else if i < 48 then 1 else if i < 56 then 2 else 3

/-- GMODE: the decode mode of a granule (R287). -/
def State.gmode (s : State) (g : Nat) : Nat := mget (gmodeDefault g) s.dev.granules g

/-- Where a byte of HBM lies (R287, R288): stack, bank group within the stack, segment, position within the segment. -/
structure BankPos where
  stack : Nat
  group : Nat
  seg   : Nat
  pos   : Nat
  deriving DecidableEq, Repr

/-- The decode of R288 for a granule, its mode, and an offset. -/
def bankPos (mode g o : Nat) : BankPos :=
  match mode with
  | 1 => ⟨g / 64, bits o 21 16, g % 64, bits o 29 22 * 2 ^ 16 + bits o 15 0⟩
  | 2 => ⟨g / 64, bits o 13 8, g % 64, bits o 29 14 * 2 ^ 8 + bits o 7 0⟩
  | 3 => ⟨g / 64, 2 * bits o 29 25 + bits o 8 8, g % 64, bits o 24 9 * 2 ^ 8 + bits o 7 0⟩
  | _ =>
    let a := g / 64 * 2 ^ 30 + o
    ⟨Nat.xor (bits a 10 8) (bits a 32 30), Nat.xor (bits a 16 11) (bits a 29 24), g % 64,
      bits a 32 17 * 2 ^ 8 + bits a 7 0⟩

/-- The place of a physical address of HBM (R288). -/
def State.bankOf (s : State) (pa : Nat) : BankPos := bankPos (s.gmode (bits pa 38 30)) (bits pa 38 30) (bits pa 29 0)

/-- The stack that holds a byte of HBM (R288). -/
def State.stackOf (s : State) (pa : Nat) : Nat := (s.bankOf pa).stack

/-- A die is fenced or in reset (R333, R334). -/
def State.dieReset (s : State) (die : Nat) : Bool := mget 0 s.dev.dies die == 2

/-- The dies that a request to a home address names: that of its stack, scratchpad or window, and of its slice set
(R288, R290). The pocket names none: a stand-in serves it (R333). -/
def State.diesOf (s : State) (ha : Nat) : List Nat :=
  let pa := paOf ha
  if scratchBase ≤ pa then [(pa - scratchBase) / 2 ^ 22 / 64]
  else match regionOf pa with
    | 0 => (s.stackOf pa / 2) :: if 2 ^ 53 ≤ ha then [bits (ha / 2 ^ 53 - 1) 9 8] else []
    | 2 => [bits pa 23 22]
    | _ => []

/-- A request to a home address names a die in reset or its stacks (R334). -/
def State.down (s : State) (ha : Nat) : Bool := (s.diesOf ha).any s.dieReset

/-- The transfer of the word fails past the retry limit in this step (R297). -/
def State.cutWord (s : State) (a : Nat) : Bool := s.caches.cut == some (s.tick, paOf a / 4 * 4)

/-- A read at a controller or scratchpad: DATA_LOST from a die in reset (R334) and of data that cannot be corrected (R297). -/
def State.ctlGot (s : State) (a : Nat) : Got :=
  if s.down a || s.isBad (a / 4 * 4) || s.cutWord a then .lost .dataLost else .word (s.ctlWord a)

/-- The word is marked lost (R132). -/
def State.isLost (s : State) (ha : Nat) : Bool := mget false s.caches.lost ha
def State.setLost (s : State) (ha : Nat) (b : Bool) : State :=
  { s with caches := { s.caches with lost := mput false s.caches.lost ha b } }

/-- The unregistered value of a word: the slice's, or memory's (R130). -/
def State.sliceWord (s : State) (ha : Nat) : Word :=
  if s.pending (paOf ha) then 0#32
  else match mfind ha s.caches.l2 with
    | some w => w
    | none => s.ctlWord (paOf ha)
def State.setSlice (s : State) (ha : Nat) (w : Word) : State :=
  let s := (s.settle (paOf ha)).setSliceErr ha false
  { s with caches := { s.caches with l2 := mset ha w s.caches.l2 } }
def State.delSlice (s : State) (ha : Nat) : State :=
  let s := s.setSliceErr ha false
  { s with caches := { s.caches with l2 := mdel ha s.caches.l2 } }

/-- The unregistered copy of a word holds an error that cannot be corrected: the slice's, or memory's (R297). -/
def State.sliceBad (s : State) (ha : Nat) : Bool :=
  if (mfind ha s.caches.l2).isSome then s.sliceErr ha else s.isBad (paOf ha)

/-- A read at the word's home (R130, R132, R292, R297): the owner's current value, else the slice's or memory's. -/
def State.homeRead (s : State) (ha : Nat) : Got :=
  if s.down ha || s.cutWord ha then .lost .dataLost
  else if s.isLost ha then .lost .ownerLost
  else match s.ownerOf ha with
    | some c =>
      match s.l1 c ha with
      | some w => .word w.val
      | none => .word (s.sliceWord ha)
    | none => if s.sliceBad ha then .lost .dataLost else .word (s.sliceWord ha)

/-- The value of a word at its home as a number, 0 where it is lost. -/
def Got.toWord : Got → Word
  | .word w => w
  | .lost _ => 0#32

/-- Revoke the owner of a word: its value goes to the slice and its copy is dropped (R131, R141, R145). A P word of
the former owner keeps the bytes it waits to register. -/
def State.revoke (s : State) (ha : Nat) : State :=
  match s.ownerOf ha with
  | none => s
  | some c =>
    let s := s.delOwner ha
    match s.l1 c ha with
    | none => s
    | some w => if w.st = .o then (s.setSlice ha w.val).dropL1 c ha else s

/-- What a write of some bytes of a word merges into at its home: zero bytes where the word is lost (R132), and where it
holds an error that cannot be corrected (DESIGN CHOICE, log entry 71), else the unregistered value. -/
def State.mergeOld (s : State) (ha : Nat) : Word := if s.isLost ha || s.sliceBad ha then 0#32 else s.sliceWord ha

/-- Apply bytes of a word at its home as one write, leaving it unregistered (R145, R128). -/
def State.homeWrite (s : State) (ha : Nat) (mask : BitVec 4) (w : Word) : State :=
  let s := s.revoke ha
  (s.setLost ha false).setSlice ha (mergeBytes mask w (s.mergeOld ha))

/-- The value that a store of an L1 leaves: it enters as P, or writes an O word in place (R130). -/
def State.l1Store (s : State) (core ha : Nat) (mask : BitVec 4) (w : Word) : State :=
  match s.l1 core ha with
  | some x =>
    match x.st with
    | .o => s.setL1 core ha { x with val := mergeBytes mask w x.val }
    | .p => s.setL1 core ha { x with val := mergeBytes mask w x.val, mask := x.mask ||| mask }
    | .v =>
      { s.setL1 core ha { st := .p, val := mergeBytes mask w 0#32, mask := mask, seq := s.nextId } with
        nextId := s.nextId + 1 }
  | none =>
    { s.setL1 core ha { st := .p, val := mergeBytes mask w 0#32, mask := mask, seq := s.nextId } with
      nextId := s.nextId + 1 }

/-- What a load of some bytes finds in the L1 (R216): a V or O word, or a P word whose stored bytes cover them. -/
def State.l1Hit (s : State) (core ha : Nat) (need : BitVec 4) : Option Word :=
  match s.l1 core ha with
  | some x => if x.st = .p ∧ need &&& ~~~x.mask ≠ 0#4 then none else some x.val
  | none => none

/-- Fill the slots of one operation that wait for a cached word. -/
def fillSlot (s : State) (core ha : Nat) (sl : Slot) : Slot :=
  if sl.val.isNone && sl.route == .cached && sl.addr == ha then
    match s.l1Hit core ha sl.need with
    | some w => { sl with val := some (.word w) }
    | none => sl
  else sl

/-- A slot that waits for a lost word receives the cause (R132, R215). -/
def loseSlot (ha : Nat) (c : Cause) (sl : Slot) : Slot :=
  if sl.val.isNone && sl.route == .cached && sl.addr == ha then { sl with val := some (.lost c) } else sl

/-- Map the slots of an operation. -/
def OpKind.mapSlots (f : Slot → Slot) : OpKind → OpKind
  | .load ls rs qs => .load (ls.map fun x => { x with slots := x.slots.map f }) rs qs
  | .tile t ps eb rb sl =>
    .tile t (ps.map fun x => { x with slots := x.slots.map f }) eb rb (sl.map fun p => (p.1, f p.2))
  | k => k

/-- The slots of an operation. -/
def OpKind.slots : OpKind → List Slot
  | .load ls _ _ => ls.flatMap LaneLoad.slots
  | .tile _ ps _ _ sl => ps.flatMap TilePart.slots ++ sl.map Prod.snd
  | _ => []

/-- Map the slots of every group of a core. -/
def State.mapSlots (s : State) (core : Nat) (f : Slot → Slot) : State :=
  { s with
    groups := s.groups.map fun p =>
      if !isPolicy p.1 && s.coreOf p.1 == core then
        (p.1, { p.2 with ops := p.2.ops.map fun o => { o with kind := o.kind.mapSlots f } })
      else p }

/-- Give a core's waiting loads the word that its L1 now holds. -/
def State.wakeWord (s : State) (core ha : Nat) : State := s.mapSlots core (fillSlot s core ha)

/-- The registry notes the grant of a line's entry (R291). -/
def State.noteGrant (s : State) (ha : Nat) : State :=
  { s with
    caches := { s.caches with
      granted := mset (lineOf ha) s.caches.grants s.caches.granted, grants := s.caches.grants + 1 } }

/-- A registration is granted (R131): the previous owner is revoked, the stored bytes are merged into the word's
value, and the word becomes O. What the slice or memory had of it stays, for a word that is dropped unwritten (R52). -/
def State.grant (s : State) (core ha : Nat) : State :=
  match s.l1 core ha with
  | some x =>
    if x.st = .p then
      let s := s.revoke ha
      let old := s.mergeOld ha
      let s := (s.setLost ha false).settle (paOf ha)
      let s := (s.setL1 core ha { x with st := .o, val := mergeBytes x.mask x.val old, mask := 15#4 }).setOwner ha core
      (s.noteGrant ha).wakeWord core ha
    else s
  | none => s

/-- Grant every registration a core waits for: its P words become O (R133, R139, R140). -/
def State.drainCore (s : State) (core : Nat) : State :=
  (s.l1Words core).foldl (fun t p => if p.2.st = .p then t.grant core p.1 else t) s

/-- An L1 holds a word of a line. -/
def State.holdsLine (s : State) (core line : Nat) : Bool := s.caches.l1.any fun p => lineOf p.1 == l1Key core line

/-- A line of an L1 holds a P word, which keeps it there (R293). -/
def State.lineHasP (s : State) (core line : Nat) : Bool :=
  s.caches.l1.any fun p => lineOf p.1 == l1Key core line && p.2.st == .p

/-- The lines of a core's L1. -/
def State.linesOf (s : State) (core : Nat) : List (Nat × L1Line) :=
  s.caches.lines.filterMap fun p =>
    if p.1 / 2 ^ 64 == core && s.holdsLine core (p.1 % 2 ^ 64) then some (p.1 % 2 ^ 64, p.2) else none

/-- The number of the set that a tag selects (R293). -/
def L1Line.set (t : L1Line) : Nat := Config.l1Set t.ctx t.va % 256

/-- The other lines of a core's L1 in the set of a line, where the core holds at least 12 others. -/
def State.peers (s : State) (core line : Nat) : List Nat :=
  let others := (s.linesOf core).filter fun p => p.1 != line
  if others.length < 12 then []
  else match mfind (l1Key core line) s.caches.lines with
    | some t => (others.filter fun p => p.2.set == t.set).map Prod.fst
    | none => []

/-- A line that is not in the L1 finds 16 lines of its set that all hold P words (R293). -/
def State.setStuck (s : State) (core line : Nat) : Bool :=
  !s.holdsLine core line && 16 ≤ ((s.peers core line).filter fun x => s.lineHasP core x).length

/-- A line that is to enter with `n` lines of one store finds its set without ways for them: more than 16 − n other lines are
in it (R293). -/
def State.crowded (s : State) (core line n : Nat) : Bool :=
  !s.holdsLine core line && 16 < (s.peers core line).length + n

/-- One of several, by the free choice of the step. -/
def pickOne (s : State) (xs : List Nat) : Option Nat := xs[Config.victim s.tick % xs.length]?

/-- A home serves a line fill word by word (R292, R293): every word of the line that is in state I or V becomes V with
the home's value; a lost word is not filled. Waiting loads of the line take their words. A set whose lines all hold P words
delays the fill. -/
def State.fillLine (s : State) (core line : Nat) : State :=
  if s.setStuck core line then s
  else
  let ws := (List.range 16).map fun i => line + 4 * i
  let s := ws.foldl
    (fun t ha =>
      match t.l1 core ha with
      | some x => if x.st = .v then
          (match t.homeRead ha with
           | .word w => t.setL1 core ha { x with val := w }
           | .lost c => (t.dropL1 core ha).mapSlots core (loseSlot ha c))
        else t
      | none =>
        match t.homeRead ha with
        | .word w => t.setL1 core ha { st := .v, val := w, mask := 15#4, seq := 0 }
        | .lost c => t.mapSlots core (loseSlot ha c)) s
  let s := { s with caches := { s.caches with miss := mdel (l1Key core line) s.caches.miss } }
  ws.foldl (fun t ha => t.wakeWord core ha) s

/-- Run-ahead fill: the line's I words become V where no word is lost (R53). A line that is not in the L1 comes under the tag
given; where its set has no room it does not come. -/
def State.prefetchLine (s : State) (core line : Nat) (tag : L1Line) : State :=
  let s := if s.holdsLine core line then s
    else { s with caches := { s.caches with lines := mset (l1Key core line) { tag with demand := false } s.caches.lines } }
  if s.setStuck core line then s
  else
  ((List.range 16).map fun i => line + 4 * i).foldl
    (fun t ha =>
      match t.l1 core ha with
      | some _ => t
      | none =>
        match t.homeRead ha with
        | .word w => t.setL1 core ha { st := .v, val := w, mask := 15#4, seq := 0 }
        | .lost _ => t) s

/-- Drop the V words of a core for which `p` holds (R134, R138). -/
def State.dropV (s : State) (core : Nat) (p : Nat → Bool) : State :=
  { s with
    caches := { s.caches with
      l1 := s.caches.l1.filter fun e => !(e.1 / 2 ^ 64 == core && e.2.st == .v && p (e.1 % 2 ^ 64)) } }

/-- An L1 line leaves (R293): I and V words are dropped, O words are written back with deregistration (R292), P
words stay. A line that the core waits for keeps its tag. -/
def State.evictLine (s : State) (core line : Nat) : State :=
  let s := ((List.range 16).map fun i => line + 4 * i).foldl
    (fun t ha =>
      match t.l1 core ha with
      | some x =>
        match x.st with
        | .v => t.dropL1 core ha
        | .o => ((t.delOwner ha).setSlice ha x.val).dropL1 core ha
        | .p => t
      | none => t) s
  if s.holdsLine core line || mget false s.caches.miss (l1Key core line) then s
  else { s with caches := { s.caches with lines := mdel (l1Key core line) s.caches.lines } }

/-- A line of the set makes way and leaves: one without P words, else one whose registrations are granted first (R131, R293). -/
def State.giveWay (s : State) (core line : Nat) : State :=
  let ps := s.peers core line
  match (pickOne s (ps.filter fun x => !s.lineHasP core x)).or (pickOne s ps) with
  | some x => (((List.range 16).map fun i => x + 4 * i).foldl (fun t ha => t.grant core ha) s).evictLine core x
  | none => s

/-- Ways for `n` lines of one store, of which a line is one: lines before it in its set leave, one by one. -/
def State.makeWay (s : State) (core line n : Nat) : State :=
  (List.range n).foldl (fun t _ => if t.crowded core line n then t.giveWay core line else t) s

/-- A registry entry is retired (R291): its owned words are revoked, each owner writes its word back and keeps it as V. -/
def State.retireLine (s : State) (line : Nat) : State :=
  ((List.range 16).map fun i => lineOf line + 4 * i).foldl
    (fun t ha =>
      match t.ownerOf ha with
      | some c =>
        match t.l1 c ha with
        | some x => if x.st = .o then ((t.delOwner ha).setSlice ha x.val).setL1 c ha { x with st := .v } else t
        | none => t
      | none => t) s

/-! ### Page tables (R43, R44) -/

def Leaf.bit (l : Leaf) (i : Nat) : Bool := l.w.getLsbD i
def Leaf.fld (l : Leaf) (hi lo : Nat) : Nat := bits l.w.toNat hi lo
def Leaf.home (l : Leaf) : Nat := l.fld 65 64
def Leaf.homeloc (l : Leaf) : Nat := l.fld 75 66
def Leaf.fmt (l : Leaf) : Nat := l.fld 79 76
def Leaf.blk (l : Leaf) : Nat := l.fld 81 80
def Leaf.scl (l : Leaf) : Nat := l.fld 83 82
def Leaf.ilv (l : Leaf) : Nat := l.fld 86 84
def Leaf.partid (l : Leaf) : Nat := l.fld 95 88
def Leaf.soff (l : Leaf) : Int := signExt (l.fld 111 96) 16
def Leaf.frame (l : Leaf) : Nat := l.fld 51 16 * 65536

/-- FRAME and HOME agree with the regions of R286 and the granule's decode mode (R287); off HBM no frame lies in a stack, a
channel or a bank group, so ILV is 0 (R49). Under GMODE 3 a channel has 32 MiB of a granule in one piece (R288), so a 1-GiB
frame lies in no one channel. The reserved pages of a device window are not reached (R303). -/
def Leaf.regionOk (l : Leaf) (gm : Nat → Nat) : Bool :=
  let f := l.frame
  match regionOf f with
  | 0 => bits f 47 39 == 0 && l.home ≤ 2 && l.ilv == gm (bits f 38 30) && (l.ilv != 3 || l.size != 30)
  | 1 => bits f 47 24 == 0 && l.home == 1 && l.ilv == 0
  | 2 => bits f 47 24 == 0 && l.home == 1 && l.ilv == 0
  | n => 8 ≤ n && l.home == 1 && l.ilv == 0

/-- The leaf breaks no reserved field and no combination of R44 and R46 to R49; `gm`: the granule table (R287). -/
def Leaf.ok (l : Leaf) (gm : Nat → Nat) : Bool :=
  l.fld 127 112 == 0 && l.fld 87 87 == 0 && l.ilv ≤ 3 && l.scl ≤ 2 && l.fmt ≤ 8 && l.fld 63 52 == 0 &&
  l.fld 15 9 == 0 && l.frame % 2 ^ l.size == 0 &&
  (l.fmt != 1 && l.fmt != 2 || l.scl != 0) && (l.fmt ∈ [1, 2, 3, 4, 8] || l.fld 83 80 == 0) &&
  (l.scl == 2 || l.fld 111 96 == 0) && (l.ilv != 1 || l.home == 1) &&
  (match l.home with
   | 2 => bits l.homeloc 7 4 + bits l.homeloc 3 0 ≤ 11 && l.regionOk gm
   | 3 => bits l.homeloc 9 8 == 0 && l.fld 51 22 == 0 && l.size == 16 && l.ilv == 0
   | _ => l.homeloc == 0 && l.regionOk gm)

/-- A table entry as its home gives it (R43, R294). -/
def State.entry (s : State) (pa : Nat) : BitVec 128 :=
  let w := fun i => (s.homeRead (pa + 4 * i)).toWord
  w 3 ++ w 2 ++ w 1 ++ w 0

/-- The physical address of a byte of a page (R46, R295). -/
def Leaf.pa (l : Leaf) (va : Nat) : Nat :=
  if l.home = 3 then scratchPA (l.homeloc % 256) (bits l.frame 21 16 * 65536 + va % 65536)
  else l.frame / 2 ^ l.size * 2 ^ l.size + va % 2 ^ l.size

/-- A reserved page of a device window: an access there faults NOT_PRESENT (R303). -/
def reservedPage (pa : Nat) : Bool := isWindow pa && 50 < bits pa 21 16

/-- The walk of R43 from a table at a level: none is NOT_PRESENT. -/
def State.walkFrom (s : State) (va : Nat) : Nat → Nat → Option Leaf
  | level, base =>
    let lo := if level = 0 then 16 else 21 + 9 * (level - 1)
    let n := if level = 0 then 5 else 9
    let a := base + 16 * bits va (lo + n - 1) lo
    let e := s.entry a
    if !e.getLsbD 0 then none
    else if e.getLsbD 8 then
      match level with
      | 0 => none
      | level + 1 =>
        let next := bits e.toNat 51 9 * 512
        if bits e.toNat 7 1 ≠ 0 ∨ bits e.toNat 127 52 ≠ 0 then none
        else if next % (if level = 0 then 512 else 8192) ≠ 0 then none
        else s.walkFrom va level next
    else if level > 2 then none
    else
      let l : Leaf := { w := e, va := va / 2 ^ lo * 2 ^ lo, size := lo, at_ := a }
      if l.ok s.gmode then some l else none

/-- The walk from the context's root table (R43). -/
def State.walk (s : State) (root va : Nat) : Option Leaf := if root % 8192 = 0 then s.walkFrom va 4 root else none

/-- A walk from a table at a level meets an entry whose home cannot give it (R297, R334): the entry's cause. Log entry 59. -/
def State.walkLost (s : State) (va : Nat) : Nat → Nat → Option Cause
  | level, base =>
    let lo := if level = 0 then 16 else 21 + 9 * (level - 1)
    let a := base + 16 * bits va (lo + (if level = 0 then 4 else 8)) lo
    match (List.range 4).findSome? fun i => match s.homeRead (a + 4 * i) with
      | .lost c => some c
      | .word _ => none with
    | some c => some c
    | none =>
      let e := s.entry a
      match level with
      | 0 => none
      | level + 1 =>
        if e.getLsbD 0 && e.getLsbD 8 then s.walkLost va level (bits e.toNat 51 9 * 512) else none

/-! ### Translation (R294) -/

/-- The TLB entry of a cluster that holds an address of a context. -/
def State.tlbHit (s : State) (cluster ctx va : Nat) : Option TlbEntry :=
  (mget [] s.caches.tlb cluster).find? fun e => e.ctx == ctx && e.va == va / 2 ^ e.size * 2 ^ e.size

/-- Translate for a context on a cluster: the TLB's entry, else a walk. No page is present past 2^57 − 1, also for the end
of a BNK region or a COL buffer (DESIGN CHOICE, log entry 74). -/
def State.translate (s : State) (cluster ctx root va : Nat) : Option Leaf :=
  if 2 ^ 57 ≤ va then none
  else match s.tlbHit cluster ctx va with
    | some e => some { w := e.leaf, va := e.va, size := e.size, at_ := e.leafAddr }
    | none => s.walk root va

/-- What an access is made for: cluster, context number, root table, PARTID and whether it is a system context; for an
access that an L1 may serve its core. -/
structure Who where
  cluster : Nat
  ctx     : Nat
  root    : Nat
  partid  : Nat
  sys     : Bool
  core    : Option Nat := none
  deriving DecidableEq, Repr

/-- The context of a group. -/
def State.who (s : State) (k : Nat) : Who :=
  let t := s.teamOf k
  { cluster := clusterOf t.core, ctx := ctxOf k, root := t.root, partid := t.partid, sys := t.sys, core := some t.core }

/-- The attributes cached with the L1 line under which a core holds an address of a context (R293). They serve an access that
the L1 serves: it holds the word there, of a P word the bytes from the address on. L1 misses, and accesses to HOME 2 pages,
consult the TLB (R294; DEDUCED, log entry 99). -/
def State.tagHit (s : State) (core ctx va : Nat) : Option Leaf :=
  (s.caches.lines.find? fun p => p.1 / 2 ^ 64 == core && p.2.ctx == ctx && p.2.va == lineOf va &&
    p.2.attr.any (fun l => l.home == 0) &&
    (s.l1Hit core (p.1 % 2 ^ 64 + va % 64 / 4 * 4) (15#4 <<< (va % 4))).isSome).bind fun p => p.2.attr

/-- The page of an address: from the L1 line held under it, without the cluster TLB (R294), else translated. Engines and
instruction fetches use no L1. -/
def State.look (s : State) (w : Who) (va : Nat) : Option Leaf :=
  match w.core.bind fun c => s.tagHit c w.ctx va with
  | some l => some l
  | none => s.translate w.cluster w.ctx w.root va

/-- The walker's update of a leaf at its home: AC when a demand access fills the TLB, DY at the first store or atomic
(R45). -/
def State.noteAccess (s : State) (cluster ctx va : Nat) (l : Leaf) (write : Bool) : State :=
  let es := mget [] s.caches.tlb cluster
  match s.tlbHit cluster ctx va with
  | some e =>
    if write && !e.leaf.getLsbD 7 then
      let s := s.homeWrite e.leafAddr 1#4 ((s.homeRead e.leafAddr).toWord ||| 0xC0#32)
      { s with
        caches := { s.caches with
          tlb := mset cluster (es.map fun x => if x == e then { x with leaf := x.leaf ||| 0x80 } else x) s.caches.tlb } }
    else s
  | none =>
    let set := if write then 0xC0#32 else 0x40#32
    let s := s.homeWrite l.at_ 1#4 ((s.homeRead l.at_).toWord ||| set)
    { s with
      caches := { s.caches with
        tlb := mset cluster
          (es ++ [{ ctx := ctx, va := l.va, size := l.size, leaf := l.w ||| set.setWidth 128, leafAddr := l.at_ }])
          s.caches.tlb } }

/-- The kinds of access (R47). -/
inductive AKind where
  | fetch | load | store | atomic | bank | engineRead | engineWrite
  deriving DecidableEq, Repr

/-- How an access to a page is served (R50). -/
def Leaf.route (l : Leaf) : Route :=
  match l.home with
  | 0 | 2 => .cached
  | 3 => .scratch
  | _ => if 8 ≤ regionOf l.frame then .remote else .controller

/-- The home address of a byte of a page. -/
def Leaf.ha (l : Leaf) (va : Nat) : Nat := homeAddr l.home l.homeloc (l.pa va)

/-- The slice that keeps a slice-pinned line (R290). -/
def pinnedSlice (homeloc pa : Nat) : Nat :=
  let first := bits homeloc 3 0; let span := bits homeloc 7 4
  bits homeloc 9 8 * 96 + 8 * first + bits pa 38 0 / 64 % (8 * (span + 1))

/-- The slice of the device that is the home of a word of HBM (R290): 96 × die + slice. -/
def State.sliceOf (s : State) (ha : Nat) : Nat :=
  if 2 ^ 53 ≤ ha then pinnedSlice (ha / 2 ^ 53 - 1) (paOf ha)
  else s.stackOf ha / 2 * 96 + bits ha 38 0 / 64 % 96

/-- A slice-pinned line that is not held finds its slice's pinned half full (R46). -/
def State.pinnedFull (s : State) (l : Leaf) (va : Nat) : Bool :=
  let line := lineOf (l.ha va)
  l.home == 2 && !(mget false s.caches.pinned line) &&
    8192 ≤ (s.caches.pinned.filter fun p => s.sliceOf p.1 == s.sliceOf line).length

/-- Hold the slice-pinned line of an access (R46). -/
def State.pin (s : State) (l : Leaf) (va : Nat) : State :=
  if l.home = 2 then { s with caches := { s.caches with pinned := mset (lineOf (l.ha va)) true s.caches.pinned } } else s

/-- The first address of a range in one page at which its slice's pinned half is full, the lines before it held. -/
def State.pinFail (s : State) (l : Leaf) : List Nat → Option Nat
  | [] => none
  | va :: vas => if s.pinnedFull l va then some va else (s.pin l va).pinFail l vas

/-- At the TLB fill of a page of HOME 0 or 2 the reverse map shows a line of its frame in an L1 of the cluster under
another HOME, or another HOMELOC (R55). -/
def State.homeClash (s : State) (w : Who) (l : Leaf) (va : Nat) : Bool :=
  (l.home == 0 || l.home == 2) && (s.tlbHit w.cluster w.ctx va).isNone && (w.core.bind fun c => s.tagHit c w.ctx va).isNone &&
    s.caches.l1.any fun p =>
      let ha := p.1 % 2 ^ 64
      p.1 / 2 ^ 64 / 8 == w.cluster && paOf ha / 2 ^ l.size == l.pa va / 2 ^ l.size && ha / 2 ^ 53 != l.ha va / 2 ^ 53

/-- The aperture of a physical address on another device (R326). -/
def State.apertureOf (s : State) (pa : Nat) : Option Aperture := mfind (regionOf pa - 8) s.dev.apertures

/-- The aperture is enabled and holds the address (R326). -/
def State.apertureOk (s : State) (pa : Nat) : Bool :=
  match s.apertureOf pa with
  | some x => x.en && pa % 2 ^ 48 < x.size
  | none => false

/-- The node an address of another device belongs to (R326). -/
def State.nodeOf (s : State) (pa : Nat) : Nat :=
  match s.apertureOf pa with
  | some x => x.node
  | none => 0xFFFF

/-- The physical address at its target that a request to an aperture is sent for: EBASE + PA[47:0] (R326). -/
def State.fabricPA (s : State) (pa : Nat) : Nat := ((s.apertureOf pa).map fun x => x.base).getD 0 + pa % 2 ^ 48

/-- No port reaches a node: one that reached it does so no more, and none that reaches it is up (R332). -/
def State.cutOff (s : State) (node : Nat) : Bool :=
  (mfind node s.dev.cut).isSome && !(s.dev.links.any fun p => p.2.peer == node && p.2.up)

/-- The word at its target that an address in an aperture names, as one number. -/
def State.remoteKey (s : State) (a : Nat) : Nat := s.nodeOf a * 2 ^ 56 + s.fabricPA a

/-- The cause of an error that another device answers with: its home has lost the word, or it refuses the request (R132,
R327; a free choice, log entry 15). -/
def State.remoteCause (s : State) (a : Nat) : Cause :=
  if Config.remoteAnswer s.tick (s.remoteKey a) = 1 then .ownerLost else .dataLost

/-- What a read of a word of another device gives in one piece: DATA_LOST from a node that is cut off and over a port whose
retries fail (R297, R332), that device's error, else a free value. Log entry 15. -/
def State.remoteGot (s : State) (a : Nat) : Got :=
  if s.cutOff (s.nodeOf a) || s.cutWord a then .lost .dataLost
  else if Config.remoteAnswer s.tick (s.remoteKey a) = 0 then .word (Config.remoteWord s.tick (s.remoteKey a))
  else .lost (s.remoteCause a)

/-- A read of a word through its home (R145). -/
def State.routeGot (s : State) (a : Nat) (rt : Route) : Got :=
  match rt with
  | .cached => s.homeRead a
  | .remote => s.remoteGot a
  | _ => s.ctlGot a

/-- The page of CheckAccess (R47), in its order; `align` 1 tests nothing; `homes`: the homes the instruction can use; `fmt`:
the format it demands; `line`: the line of the address itself is accessed, so that a slice-pinned one needs room (R46). A
write through a leaf whose DY is clear meets a home in reset as the walk does (R45, R334). -/
def State.checkPage (s : State) (w : Who) (kind : AKind) (va align : Nat) (homes : List Nat) (fmt : Option Nat)
    (line : Bool) : Except Cause Leaf :=
  let engine := kind = .fetch ∨ kind = .bank ∨ kind = .engineRead ∨ kind = .engineWrite
  if va % align ≠ 0 then .error .misaligned
  else match s.look (if engine then { w with core := none } else w) va with
    | none => .error ((s.walkLost va 4 w.root).getD .notPresent)
    | some l =>
      let writes := kind = .store ∨ kind = .atomic ∨ kind = .engineWrite
      let reads := kind = .load ∨ kind = .atomic ∨ kind = .engineRead
      if l.partid ≠ 0 ∧ l.partid ≠ w.partid then .error .notPresent
      else if reservedPage (l.pa va) ∨ l.route = .remote ∧ ¬ s.apertureOk (l.pa va) then .error .notPresent
      else if l.bit 5 ∧ ¬ w.sys then .error .privDenied
      else if kind = .fetch ∧ ¬ l.bit 3 then .error .exDenied
      else if reads ∧ ¬ l.bit 1 then .error .rdDenied
      else if writes ∧ ¬ l.bit 2 then .error .wrDenied
      else if kind = .atomic ∧ ¬ l.bit 4 then .error .amoDenied
      else if l.home ∉ homes ∨ s.homeClash (if engine then { w with core := none } else w) l va ∨ line ∧ s.pinnedFull l va then
        .error .homeMismatch
      else if writes ∧ ¬ l.bit 7 ∧ s.down l.at_ then .error .dataLost
      else match fmt with
        | some f => if l.fmt = f then .ok l else .error .fmtMismatch
        | none => .ok l

/-- CheckAccess (R47) of an access to the line of its address. -/
def State.checkAccess (s : State) (w : Who) (kind : AKind) (va align : Nat) (homes : List Nat) (fmt : Option Nat) :
    Except Cause Leaf := s.checkPage w kind va align homes fmt true

/-- All homes (R46). -/
def anyHome : List Nat := [0, 1, 2, 3]

/-- The line of an access takes the tag under which it is now used (R54, R293). -/
def State.tagLine (s : State) (core : Nat) (line : Nat) (t : L1Line) : State :=
  { s with caches := { s.caches with lines := mset (l1Key core line) t s.caches.lines } }

/-- The 64-KiB units of a range of addresses, each with its part of the range. -/
def unitsOf (va n : Nat) : List (Nat × Nat) :=
  (List.range ((va + n - 1) / 65536 + 1 - va / 65536)).map fun i =>
    let a := max va ((va / 65536 + i) * 65536)
    (a, min (va + n) ((va / 65536 + i + 1) * 65536) - a)

/-- The lines of a range of addresses, each by its first address in the range. -/
def rangeLines (va n : Nat) : List Nat :=
  (List.range ((va + n - 1) / 64 + 1 - va / 64)).map fun i => max va ((va / 64 + i) * 64)

/-- Check part of one unit: its page, and of a slice-pinned page every line, each after those before it are held (R46, R47).
The page and the state with the lines held, or the cause with its address. -/
def State.checkUnit (s : State) (w : Who) (kind : AKind) (homes : List Nat) (a n : Nat) : Except (Cause × Nat) (Leaf × State) :=
  match s.checkAccess w kind a 1 homes none with
  | .error c => .error (c, a)
  | .ok l =>
    if l.home ≠ 2 then .ok (l, s)
    else match s.pinFail l (rangeLines a n) with
      | some b => .error (.homeMismatch, b)
      | none => .ok (l, (rangeLines a n).foldl (fun t x => t.pin l x) s)

/-- Check the pages of a range (R47): the first failure in address order with its address, or the state with the slice-pinned
lines held. -/
def State.checkRange (s : State) (w : Who) (kind : AKind) (va n align : Nat) (homes : List Nat) :
    Except (Cause × Nat) State :=
  if va % align ≠ 0 then .error (.misaligned, va)
  else (unitsOf va n).foldl (fun acc u => match acc with
    | .error e => .error e
    | .ok t => (t.checkUnit w kind homes u.1 u.2).map Prod.snd) (.ok s)

/-- Record an access that all its checks let through: the leaf's AC and DY bits and the TLB entry, which an access that an
L1 line serves under its own tag needs only for DY; the pinned line; and the line's tag, under the latest alias (R45, R46,
R54, R293, R294). An access that a check denies records nothing (DESIGN CHOICE, log entry 73: R45 does not say). -/
def State.touch (s : State) (w : Who) (va : Nat) (write : Bool) : State :=
  match s.look w va with
  | none => s
  | some l =>
    let hit := (w.core.bind fun c => s.tagHit c w.ctx va).isSome
    let s := if hit && !(write && !l.bit 7) then s else s.noteAccess w.cluster w.ctx va l write
    let s := s.pin l va
    match w.core with
    | some c =>
      if l.route = .cached then
        s.tagLine c (lineOf (l.ha va))
          { ctx := w.ctx, va := lineOf va, attr := some (if write then { l with w := l.w ||| 0x80 } else l) }
      else s
    | none => s

end Sys2Proof.Machine
end

