-- ==== Sys2Proof/Machine/Rings.lean ====
section
/-!
DEFINITION. What Grenlar does towards the host and the policy engines: device addresses of queues, event records
(R302, R329), TAIL and EHEAD writes (R299, R300, R303), writes applied at a memory controller (R55), write-backs among them
(R290, R301), and requests to the policy engines (R306, R307).
-/

namespace Sys2Proof.Machine

/-- Saturating policy counts (R308). -/
def pcntKey (idx cluster inst : Nat) : Nat := idx * 2 ^ 32 + cluster * 2 ^ 16 + inst
def State.pcntOf (s : State) (idx cluster inst : Nat) : Nat := mget 0 s.pcnt (pcntKey idx cluster inst)
def State.bump (s : State) (idx cluster inst n : Nat) : State :=
  { s with pcnt := mput 0 s.pcnt (pcntKey idx cluster inst) (s.pcntOf idx cluster inst + n) }

/-- EVDROP, RRFALL, PCFGERR, IMPDENY (R308). -/
def evDrop : Nat := 0x74
def rrFall : Nat := 0x75
def pcfgErr : Nat := 0x76
def impDeny : Nat := 0x78

/-! ### Device addresses of a queue (R298, R301) -/

/-- The physical address and route of a device address used by a queue of a partition, under the partition's root
table, or itself a physical address where the system has named no table (log entry 14). -/
def State.devAddr (s : State) (partid : Nat) (kind : AKind) (a align : Nat) (homes : List Nat) : Option (Nat × Route) :=
  match mfind partid s.dev.roots with
  | some root =>
    match s.checkAccess { cluster := 0, ctx := 0xFFFF, root := root, partid := partid, sys := false } kind a align homes
        none with
    | .ok l => some (l.ha a, l.route)
    | .error _ => none
  | none => if a % align = 0 ∧ isHbm a then some (a, if 1 ∈ homes ∧ homes.length = 1 then .controller else .cached)
    else none

/-- Read a word at a physical or home address: its value, or why there is none (R297, R334). -/
def State.readRoute (s : State) (a : Nat) (r : Route) : Got :=
  match r with
  | .cached => s.homeRead a
  | _ => s.ctlGot a

/-- A word at a device address: none where no page gives it, or its home does not. -/
def State.devWord (s : State) (partid a : Nat) : Option Word :=
  (s.devAddr partid .load a 4 anyHome).bind fun p => match s.readRoute p.1 p.2 with
    | .word w => some w
    | .lost _ => none

/-- A 64-bit number at a device address, 0 where it cannot be read. -/
def State.dev64 (s : State) (partid a : Nat) : Nat :=
  ((s.devWord partid a).getD 0).toNat + 2 ^ 32 * ((s.devWord partid (a + 4)).getD 0).toNat

/-! ### Writes at a memory controller (R55, R128) -/

/-- The queue whose NOTIFY line holds a physical address. -/
def State.notifyQueue (s : State) (pa : Nat) : Option (Nat × VQueue) :=
  s.queues.find? fun p =>
    match s.devAddr p.2.req.partid .store p.2.req.notify 64 [1] with
    | some (a, _) => lineOf a == lineOf pa
    | none => false

def State.setQueue (s : State) (qid : Nat) (q : VQueue) : State := { s with queues := mset qid q s.queues }

/-- The fields of a notify line that producers and the host write (R299). -/
def producerField (off : Nat) : Bool := off == 0x00 || off == 0x08 || off == 0x10

/-- A word of a slice is applied at its controller: producers' fields of a NOTIFY line take it in their turn, and its other
fields ignore it (R299, R303). -/
def State.backWord (s : State) (a : Nat) (w : Word) : State :=
  match s.notifyQueue a with
  | none => s.putWord a 15#4 w
  | some (qid, q) =>
    let q := mget q s.queues qid
    if producerField (a % 64) then (s.putWord a 15#4 w).setQueue qid { q with fwd := q.fwd ++ [(a % 64, w)] } else s

/-- A slice writes a dirty word back to memory (R290); an error that cannot be corrected goes with it. -/
def State.writeBack (s : State) (ha : Nat) : State :=
  match mfind ha s.caches.l2 with
  | some w => ((s.delSlice ha).backWord (paOf ha) w).setBad (paOf ha) (s.sliceErr ha)
  | none => s

/-- A write at the memory controller first clears the line from its home slice: dirty unregistered words go to
memory (R55). -/
def State.clearSlice (s : State) (pa : Nat) : State :=
  (((List.range 16).map fun i => lineOf pa + 4 * i).foldl (fun t a => t.writeBack a) s).joinFences s.fences.length

/-- Surrender a core's registration of a word: complete it, write it back to memory, keep it as V (R139). -/
def State.surrender (s : State) (core ha : Nat) : State :=
  let s := s.grant core ha
  match s.l1 core ha with
  | some x =>
    if x.st = .o then (((s.delOwner ha).setSlice ha x.val).writeBack ha).setL1 core ha { x with st := .v } else s
  | none => s

/-- Write bytes at a memory controller: the line leaves its home slice first (R55). -/
def State.ctlWrite (s : State) (a : Nat) (mask : BitVec 4) (w : Word) : State :=
  (s.clearSlice a).putWord a mask w

/-- Write the device fields of a notify line to NOTIFY (R299, R303); where its stack is fenced they follow at the die's
re-admission (R334, log entry 81). -/
def State.mirror (s : State) (q : VQueue) : State :=
  match s.devAddr q.req.partid .store q.req.notify 64 [1] with
  | some (a, _) =>
    if s.down a then s
    else ((s.ctlWrite (a + 4) 15#4 q.ridx).ctlWrite (a + 0x0C) 15#4 (BitVec.ofNat 32 q.stopped)).ctlWrite (a + 0x14) 15#4
      q.etail
  | none => s

/-- The bytes of an event record (R302). -/
def eventBytes (e : Event) (seq : Nat) : List Byte :=
  leBytes 2 e.code ++ leBytes 1 e.src ++ [0#8] ++ leBytes 4 e.qid ++ leBytes 4 e.tag ++ leBytes 4 e.detail ++
    leBytes 8 e.addr ++ leBytes 4 e.value ++ leBytes 4 seq

/-- Write bytes at a device address of a queue's event ring, through the controller. -/
def State.ringPut (s : State) (partid : Nat) : Nat → List Byte → State
  | _, [] => s
  | a, b :: bs =>
    let s := match s.devAddr partid .store a 1 [1] with
      | some (p, _) => (s.clearSlice p).putByte p b
      | none => s
    s.ringPut partid (a + 1) bs

/-- The event ring is full (R302). -/
def VQueue.full (q : VQueue) : Bool := (q.etail - q.ehead).toNat == q.req.ecount

/-- The stack that takes a queue's next event record is not fenced (R334). -/
def State.ringUp (s : State) (q : VQueue) : Bool :=
  match s.devAddr q.req.partid .store (q.req.evring + 32 * (q.etail.toNat % q.req.ecount)) 1 [1] with
  | some (p, _) => !s.down p
  | none => true

/-- Write one event record at ETAIL and advance ETAIL (R302). -/
def State.writeEvent (s : State) (qid : Nat) (q : VQueue) (e : Event) : State :=
  let s := (s.setQueue qid q).ringPut q.req.partid (q.req.evring + 32 * (q.etail.toNat % q.req.ecount)) (eventBytes e q.seq)
  let q' := { mget q s.queues qid with etail := q.etail + 1, seq := q.seq + 1 }
  (s.setQueue qid q').mirror q'

/-- Send an event to a queue's ring: written, held while the ring is full or its stack is fenced (log entry 81), or dropped and
counted (R302). -/
def State.postEvent (s : State) (qid : Nat) (e : Event) : State :=
  match mfind qid s.queues with
  | none => s.bump evDrop 0 0 1
  | some q =>
    if !q.full && q.held.isEmpty && s.ringUp q then s.writeEvent qid q e
    else if q.held.length < 16 then s.setQueue qid { q with held := q.held ++ [e] }
    else s.bump evDrop 0 0 1

/-- Write held events while the ring has room. -/
def State.flushHeld (s : State) (qid : Nat) : Nat → State
  | 0 => s
  | n + 1 =>
    match mfind qid s.queues with
    | none => s
    | some q =>
      match q.held with
      | [] => s
      | e :: es => if q.full || !s.ringUp q then s else ((s.writeEvent qid { q with held := es } e)).flushHeld qid n

/-- Send a device event (R329). -/
def State.deviceEvent (s : State) (code detail value : Nat) : State :=
  match s.dev.devq with
  | some qid => s.postEvent qid ⟨code, 3, qid, 0, detail, 0, value⟩
  | none => s.bump evDrop 0 0 1

/-! ### Requests to the policy engines (R306, R307, R321) -/

/-- The cluster whose engine serves a request. -/
def engineOf (s : State) (r : PReq) : Nat :=
  match r.kind with
  | 0 => r.inst % 32
  | 2 => r.inst / 64
  | 3 => clusterOf (mget {} s.teams r.inst).core
  | _ => r.inst / 64

/-- The cluster whose engine holds a request now: while its own die is not up, cluster (c + 8) mod 32 (R333). -/
def State.heldAt (s : State) (r : PReq) : Nat :=
  let c := engineOf s r
  if mget 0 s.dev.dies (dieOfCluster c) = 0 then c else (c + 8) % 32

/-- Call a decision point: the request enters the engine's buffer, merges with a pending one, or waits (R307). -/
def State.call (s : State) (r : PReq) : State :=
  let c := s.heldAt r
  let e := mget {} s.engines c
  let same := fun (x : PReq) => x.point == r.point && x.kind == r.kind && x.inst == r.inst
  if (r.point = 1 ∨ r.point = 3) ∧ (e.reqs ++ e.wait).any same then s
  else if e.reqs.length < 64 then { s with engines := mset c { e with reqs := e.reqs ++ [r] } s.engines }
  else { s with engines := mset c { e with wait := e.wait ++ [r] } s.engines }

/-- Records of a queue that Grenlar has read and not started, oldest first (R301). -/
def State.waitingRecords (s : State) (qid : Nat) : List (Nat × Launch) :=
  s.launches.filter fun p => p.2.qid == qid && p.2.st == .waiting && p.2.task.isNone

/-- The oldest record of a queue that is accepted and not started (R300). -/
def State.oldestUnstarted (s : State) (qid : Nat) (q : VQueue) : Option Word :=
  match s.waitingRecords qid with
  | (_, r) :: _ => some r.idx
  | [] => if q.ridx = q.tail then none else some q.ridx

/-- A queue enters STATE 1 or 2 (R300): RIDX goes back to its oldest unstarted record, which stays unstarted. -/
def State.stopQueue (s : State) (qid : Nat) (q : VQueue) (st : Nat) : State :=
  let q' := { q with stopped := st, ridx := (s.oldestUnstarted qid q).getD q.ridx }
  let s := { s with
    launches := s.launches.filter fun (p : Nat × Launch) => !(p.2.qid == qid && p.2.st == RState.waiting && p.2.task.isNone) }
  (s.setQueue qid q').mirror q'

/-- An accepted TAIL published records that have not started and that a new TAIL still publishes. -/
def State.publishes (s : State) (qid : Nat) (q : VQueue) (new idx : Word) : Bool :=
  let o := (s.oldestUnstarted qid q).getD q.ridx
  idx != o && (idx - o).toNat ≤ (new - o).toNat

/-- TailWrite (R300) on a resident queue. -/
def State.tailWrite (s : State) (qid : Nat) (new : Word) : State :=
  match mfind qid s.queues with
  | none => s
  | some q =>
    if q.stopped ≠ 0 ∨ new = q.tail then s
    else if q.req.count < (new - q.ridx).toNat then
      (s.stopQueue qid q 1).postEvent qid ⟨4, 1, qid, new.toNat, 0, 0, q.tail.toNat⟩
    else
      (s.setQueue qid { q with
        tail := new, accepts := (q.accepts.filter fun p => s.publishes qid q new p.1) ++ [(new, s.dev.time)],
        lastUse := s.tick }).call ⟨1, 0, qid, 0⟩

/-- A producer's write to a notify line (R299, R303): device fields ignore it. -/
def State.notifyWrite (s : State) (qid off : Nat) (w : Word) : State :=
  match mfind qid s.queues with
  | none => s
  | some q =>
    if off = 0x00 then
      if q.resident.isSome then s.tailWrite qid w
      else (s.setQueue qid { q with heldTail := some w }).call ⟨5, 0, qid, 0⟩
    else if off = 0x08 then s.setQueue qid { q with resv := w }
    else if off = 0x10 then (s.setQueue qid { q with ehead := w }).flushHeld qid 16
    else s

/-- The residency table: the first 128 KiB of die 0's pocket, which only Grenlar writes (R313). -/
def inResidency (a : Nat) : Bool := 2 ^ 48 ≤ a && a < 2 ^ 48 + 2 ^ 17

/-- Apply a store of bytes of a word at a memory controller, with what the machine does about it: notify lines take
producers' writes, those of a resident queue or behind earlier ones in their turn (R299, R303); the device fields of a notify
line and the residency table ignore it (R313). -/
def State.ctlStore (s : State) (a : Nat) (mask : BitVec 4) (w : Word) : State :=
  if isWindow a then
    let die := bits a 23 22; let page := bits a 21 16; let off := bits a 15 0
    match (if page < 48 ∧ off < 64 then s.slotQueue die page else none) with
    | some (qid, q) => s.notifyWrite qid off (mergeBytes mask w (q.notifyWord off))
    | none => s
  else if inResidency a then s
  else match s.notifyQueue a with
    | some (qid, q) =>
      let off := a % 64
      if producerField off then
        let s := s.ctlWrite a mask w
        let v := s.ctlWord (a / 4 * 4)
        let q := mget q s.queues qid
        if q.resident.isSome || !q.fwd.isEmpty then s.setQueue qid { q with fwd := q.fwd ++ [(off, v)] }
        else s.notifyWrite qid off v
      else s
    | none => s.ctlWrite a mask w

/-! ### Partition entries and tile-task bindings (R304, R305) -/

/-- A field of a 16-byte entry. -/
def efld (w : BitVec 128) (hi lo : Nat) : Nat := bits w.toNat hi lo

/-- The four ranges of a partition entry, as (first, count): scratchpad pages, tiles, accumulators, lane sets. -/
def partRanges (w : BitVec 128) : List (Nat × Nat) :=
  [(efld w 95 88, efld w 87 80), (efld w 79 72, efld w 71 64), (efld w 63 60, efld w 59 56),
   (efld w 55 52, efld w 51 47)]

/-- Two ranges share a unit. -/
def rangesMeet (a b : Nat × Nat) : Bool := a.2 != 0 && b.2 != 0 && a.1 < b.1 + b.2 && b.1 < a.1 + a.2

/-- The limits of a partition entry (R305). -/
def partLimits (w : BitVec 128) : Bool :=
  efld w 127 104 == 0 && efld w 103 96 ≤ 15 && efld w 95 88 ≤ 63 && efld w 87 80 ≤ 63 && efld w 46 1 == 0 && efld w 79 72 ≤ 127 && efld w 71 64 ≤ 128 &&
    efld w 63 60 ≤ 7 && efld w 59 56 ≤ 8 && efld w 51 47 ≤ 16 &&
    ((partRanges w).zip [64, 128, 8, 16]).all fun p => p.1.1 + p.1.2 ≤ p.2

/-- A write of a partition entry (R305): ignored and counted in PCFGERR while the partition holds a group, where it
breaks a limit, or where it overlaps another enabled partition of the core. -/
def State.partitionWrite (s : State) (core p : Nat) (w : BitVec 128) : State :=
  let held := s.teams.any fun t => t.2.core == core && t.2.part == p && t.2.st != .saved && t.2.st != .parked
  let meets := (List.range 8).any fun o =>
    o != p && (mget 0 s.partitions (8 * core + o)).getLsbD 0 &&
      ((partRanges w).zip (partRanges (mget 0 s.partitions (8 * core + o)))).any fun x => rangesMeet x.1 x.2
  if core < 256 ∧ p < 8 ∧ !held ∧ partLimits w ∧ !meets then
    { s with partitions := mput 0 s.partitions (8 * core + p) w }
  else s.bump pcfgErr 0 0 1

/-- A write of a tile-task binding (R304): only while the queue is disabled, with reserved bits zero and TQID the
number of a queue. -/
def State.bindingWrite (s : State) (cluster q : Nat) (w : BitVec 128) : State :=
  let k := cluster * 64 + q
  let x := mget {} s.kqs k
  if cluster < 32 ∧ q < 64 ∧ !x.en ∧ efld w 127 121 = 0 ∧ efld w 63 50 = 0 ∧ efld w 31 1 = 0 ∧
      (mfind (efld w 49 36) s.queues).isSome then
    { s with kqs := mset k { x with binding := w } s.kqs }
  else s.bump pcfgErr 0 0 1

/-- Apply the words of one store at a memory controller, as one write; what lies beyond the entries of pages 48 and 50 ignores
it, and only a system context (`sys`) can change a binding: another's write is a refused one, and counted (R303 to R305, R308, R321; the count is DEDUCED, log entry
105). -/
def State.ctlStores (s : State) (ws : List (Nat × BitVec 4 × Word)) (sys : Bool := false) : State :=
  match ws with
  | [] => s
  | (a, _, _) :: _ =>
    if isWindow a ∧ (bits a 21 16 = 48 ∨ bits a 21 16 = 50) then
      let base := a / 16 * 16
      let word := fun i => ws.foldl
        (fun v (x : Nat × BitVec 4 × Word) => if x.1 == base + 4 * i then mergeBytes x.2.1 x.2.2 v else v)
        (s.windowWord (base + 4 * i))
      let w : BitVec 128 := word 3 ++ word 2 ++ word 1 ++ word 0
      let die := bits a 23 22; let off := bits a 15 0
      if 8192 ≤ off then s
      else if bits a 21 16 = 48 then s.partitionWrite (64 * die + off / 128) (off % 128 / 16) w
      else if sys then s.bindingWrite (8 * die + off / 1024) (off % 1024 / 16) w
      else s.bump pcfgErr 0 0 1
    else
      let s := ws.foldl (fun t (x : Nat × BitVec 4 × Word) => t.clearSlice x.1) s
      (ws.foldl (fun t (x : Nat × BitVec 4 × Word) => t.ctlStore x.1 x.2.1 x.2.2) s).joinFences s.fences.length

/-- The next write of a queue's NOTIFY line is applied, where the queue is resident to its slot page (R303). -/
def State.notifyForward (s : State) (qid : Nat) : State :=
  match mfind qid s.queues with
  | none => s
  | some q =>
    match q.fwd with
    | [] => s
    | (off, w) :: rest => (s.setQueue qid { q with fwd := rest }).notifyWrite qid off w

end Sys2Proof.Machine
end

