-- ==== Sys2Proof/Machine/Capacity.lean ====
section
/-!
DEFINITION. The sizes of the caches (R2, R290, R291, R293, R294): 16-way L1 sets, 8-way TLB sets, 16-way registry sets, and
slices of 1 MiB. What an instruction or an event brought in beyond them makes room at its end: an L1 line without P words is
evicted, a TLB entry leaves, the least recently granted registry entry is retired, a slice writes a line back. A structure's
indexing and the choice of what leaves, except in the registry, are free (log entry 72).
-/

namespace Sys2Proof.Machine

/-- Repeat a repair while it finds something, at most `n` times. -/
def repeatFix (f : State → Option State) : Nat → State → State
  | 0, s => s
  | n + 1, s => match f s with
    | some t => repeatFix f n t
    | none => s

/-- A set of an L1 that holds more than 16 lines loses one that holds no P word (R293). -/
def State.trimL1 (s : State) : Option State :=
  if s.caches.lines.length ≤ 16 then none
  else s.caches.lines.findSome? fun p =>
    let core := p.1 / 2 ^ 64; let line := p.1 % 2 ^ 64
    let ps := s.peers core line
    if s.holdsLine core line && 16 ≤ ps.length then
      (pickOne s ((line :: ps).filter fun x => !s.lineHasP core x)).map fun x => s.evictLine core x
    else none

/-- The lines that the registries hold. -/
def State.regLines (s : State) : List Nat := (s.caches.owner.map fun p => lineOf p.1).eraseDups

/-- When a registry entry was last granted (R291). -/
def State.grantOf (s : State) (line : Nat) : Nat := mget 0 s.caches.granted line

/-- A set of a slice's registry that holds more than 16 entries retires the least recently granted (R291). -/
def State.trimRegistry (s : State) : Option State :=
  if s.caches.owner.length ≤ 16 then none
  else
    let ls := s.regLines
    let key := fun x => (s.sliceOf x, Config.registrySet x % 2048)
    ls.findSome? fun x =>
      let set := ls.filter fun y => key y == key x
      if 16 < set.length then
        some (s.retireLine (set.foldl (fun m y => if s.grantOf y < s.grantOf m then y else m) x))
      else none

/-- The lines of a slice that are newer than memory and not pinned. -/
def State.sliceLines (s : State) (n : Nat) : List Nat :=
  ((s.caches.l2.map fun p => lineOf p.1).eraseDups).filter fun x => x < 2 ^ 53 && s.sliceOf x == n

/-- A slice of 16,384 lines that holds more writes one back that is not pinned (R2, R290). -/
def State.trimSlice (s : State) : Option State :=
  if s.caches.l2.length + s.caches.pinned.length ≤ 16384 then none
  else s.caches.l2.findSome? fun p =>
    let n := s.sliceOf p.1
    let ls := s.sliceLines n
    if 16384 < (s.caches.pinned.filter fun q => s.sliceOf q.1 == n).length + ls.length then
      (pickOne s ls).map fun x => ((List.range 16).map fun i => x + 4 * i).foldl (fun t ha => t.writeBack ha) s
    else none

/-- The set of a cluster TLB that an entry falls into (R294). -/
def TlbEntry.set (e : TlbEntry) : Nat := Config.tlbSet e.ctx e.va e.size % 1024

/-- A set of a cluster TLB that holds more than eight entries loses one (R294). -/
def State.trimTlb (s : State) : Option State :=
  s.caches.tlb.findSome? fun p =>
    if p.2.length ≤ 8 then none
    else p.2.findSome? fun e =>
      let at_ := (List.range p.2.length).filter fun i => (p.2[i]?.map TlbEntry.set) == some e.set
      if 8 < at_.length then
        (pickOne s at_).map fun i =>
          { s with caches := { s.caches with tlb := mset p.1 (p.2.eraseIdx i) s.caches.tlb } }
      else none

/-- Every structure keeps to its size. -/
def State.trim (s : State) : State :=
  let s := repeatFix State.trimTlb ((s.caches.tlb.map fun p => p.2.length).sum) s
  let s := repeatFix State.trimL1 s.caches.lines.length s
  let s := repeatFix State.trimRegistry s.caches.owner.length s
  repeatFix State.trimSlice s.caches.l2.length s

end Sys2Proof.Machine
end

