-- ==== Sys2Proof/Machine/Ops.lean ====
section
/-!
DEFINITION. Operations that every family shares: ending a team (R19, R301), taking a trap and returning from one
(R162–R164, R166), and ordering primitives: releases and acquires (R133–R135, R149, R150).
-/

namespace Sys2Proof.Machine

/-! ### Translations and core-pinned pages (R51, R56) -/

/-- The translation cached with an L1 line, as an entry. -/
def L1Line.entry (t : L1Line) : Option TlbEntry :=
  t.attr.map fun l => { ctx := t.ctx, va := l.va, size := l.size, leaf := l.w, leafAddr := l.at_ }

/-- Remove TLB entries in every cluster, and attributes cached with L1 lines (R56, R168). -/
def State.tlbRemove (s : State) (p : TlbEntry → Bool) : State :=
  { s with
    caches := { s.caches with
      tlb := s.caches.tlb.map fun c => (c.1, c.2.filter fun e => !p e),
      lines := s.caches.lines.map fun c =>
        (c.1, match c.2.entry with
          | some e => if p e then { c.2 with attr := none } else c.2
          | none => c.2) } }

/-- A leaf of a core-pinned page, naming a core and a page position, present or not (R44, R46). -/
def pinLeaf (e : BitVec 128) (core pos : Nat) (v : Bool) : BitVec 128 :=
  let keep := e &&& ~~~(((BitVec.allOnes 36).setWidth 128 <<< 16) ||| ((BitVec.allOnes 10).setWidth 128 <<< 66) ||| 1#128)
  keep ||| (BitVec.ofNat 128 pos <<< 16) ||| (BitVec.ofNat 128 core <<< 66) ||| (if v then 1#128 else 0#128)

/-- Write a table entry at its home, and remove the translations that came from it (R51, R56). -/
def State.setEntry (s : State) (a : Nat) (e : BitVec 128) : State :=
  (((((s.homeWrite a 15#4 (entryWord e 0)).homeWrite (a + 4) 15#4 (entryWord e 1)).homeWrite (a + 8) 15#4
    (entryWord e 2)).homeWrite (a + 12) 15#4 (entryWord e 3))).tlbRemove fun x => x.leafAddr == a

/-- The leaves of a page name its core and position, or are held absent. -/
def State.setPin (s : State) (x : Pin) (v : Bool) : State :=
  x.leaves.foldl (fun u a => u.setEntry a (pinLeaf (u.entry a) x.core x.pos v)) s

/-! ### The end of groups and teams -/

/-- The groups of a context, by name. -/
def State.groupsOf (s : State) (ctx : Nat) : List Nat :=
  (s.groups.filter fun p => !isPolicy p.1 && ctxOf p.1 == ctx).map Prod.fst

/-- Map every word of a byte range of a context's addresses to its home address, page by page; absent pages are
skipped (R223). -/
def State.regionWords (s : State) (w : Who) (base len : Nat) : List (Nat × Leaf) :=
  if len = 0 then []
  else
    let first := base / 4
    let last := (base + len - 1) / 4
    (List.range (last + 1 - first)).filterMap fun i =>
      let va := 4 * (first + i)
      (s.translate w.cluster w.ctx w.root va).map fun l => (l.ha va, l)

/-- The home addresses of the cached words of a region of a context (R223): from one, up to another, for each page. -/
def State.regionSpans (s : State) (w : Who) (base len : Nat) : List (Nat × Nat) :=
  if len = 0 then []
  else (List.range ((base + len - 1) / 65536 + 1 - base / 65536)).filterMap fun i =>
    let va := (base / 65536 + i) * 65536
    (s.translate w.cluster w.ctx w.root va).bind fun l =>
      if l.route == .cached then
        let lo := max va (base / 4 * 4)
        let hi := min (va + 65536) ((base + len - 1) / 4 * 4 + 4)
        some (l.ha lo, l.ha lo + (hi - lo))
      else none

/-- Those of some home addresses that lie in a region. -/
def State.inRegion (s : State) (w : Who) (base len : Nat) (has : List Nat) : List Nat :=
  let spans := s.regionSpans w base len
  has.filter fun ha => spans.any fun p => p.1 ≤ ha && ha < p.2

/-- The home addresses of a core's L1 words that lie in a region of a context (R223): the L1's words are scanned. The region
is that of the addresses under the requester's HOME and HOMELOC, so words that the L1 holds under another home of the frame
are not of it (DESIGN CHOICE, log entry 84). -/
def State.regionL1 (s : State) (core : Nat) (w : Who) (base len : Nat) : List Nat :=
  s.inRegion w base len ((s.l1Words core).map Prod.fst)

/-- A core surrenders a region (R139): its registrations are written back to memory, and the words that it, or a core before
it, stored there and whose registration a cache has since retired or evicted (R291, R292), which only their slice holds. -/
def State.surrenderRegion (s : State) (core : Nat) (w : Who) (base len : Nat) : State :=
  let t := (s.regionL1 core w base len).foldl (fun t a => t.surrender core a) s
  (t.inRegion w base len (t.caches.l2.map Prod.fst)).foldl
    (fun u a => if (u.ownerOf a).isSome then u else u.writeBack a) t

/-- The group's private words leave the L1, dirty or not, and are deregistered (R52). -/
def State.dropPrivate (s : State) (k : Nat) : State :=
  let t := s.teamOf k
  let len := 128 * ((t.priv + 3) / 4)
  (s.regionL1 t.core (s.who k) (s.group k).pb len).foldl
    (fun u ha => (if u.ownerOf ha == some t.core then u.delOwner ha else u).dropL1 t.core ha) s

/-- Take a group out of every queue it waits in. -/
def State.leaveQueues (s : State) (k : Nat) : State :=
  { s with kqs := s.kqs.map fun p => (p.1, { p.2 with waiters := p.2.waiters.filter fun x => x != k }) }

/-- The registers that a take writes (R270). -/
def KqRec.words (r : KqRec) : List Word :=
  [r.key, lo32 r.pay, hi32 r.pay, BitVec.ofNat 32 (2 ^ 31 + r.ovf.toNat * 2 ^ 16 + r.bucket % 2 ^ 16)]

/-- Write the record of each lane that a take served. -/
def Group.kqWrite (g : Group) (d : Nat) (got : List (Nat × Option KqRec)) : Group :=
  got.foldl (fun g p => match p.2 with
    | some r => ((List.range 4).zip r.words).foldl (fun g w => g.setRegs (d + w.1) [p.1] fun _ => w.2) g
    | none => g) g

/-- At a halt or a save, requests not yet performed are withdrawn: lanes already served have their results and advance;
the others keep their PCs (R273). -/
def State.kqWithdraw (s : State) (k : Nat) : State :=
  match (s.group k).wait.kq with
  | none => s
  | some w =>
    ((s.updGroup k fun g =>
      { (g.kqWrite w.d w.got).advance (w.got.map Prod.fst) 12 with wait := { g.wait with kq := none } })).leaveQueues k

/-- Release the endpoints that a group's ports hold, as its group ends; elements written to its ports that the fabric has
not taken go with the ports (DESIGN CHOICE, log entry 67: R30 speaks of a rebinding only). -/
def State.releaseEndpoints (s : State) (k : Nat) : State :=
  { s with
    dev := { s.dev with
      endpoints := s.dev.endpoints.map fun p =>
        (p.1, if (p.2.holder.map fun h => h / 8) == some k then { p.2 with holder := none } else p.2) } }

/-- The atomics of a group that ends are still performed at their homes (R128, R220). -/
def State.orphan (s : State) (k : Nat) : State :=
  let core := s.coreOf k
  { s with
    orphans := (s.group k).ops.foldl (fun m o => match o.kind with
      | .atomic .. => if o.done then m else mset o.id (core, o) m
      | _ => m) s.orphans }

/-- What a group leaves behind at its end: the accumulators whose tags still name it (R34), and the latest window of its
remote stores, with which those still held are sent (R149). -/
def State.notePast (s : State) (k : Nat) : State :=
  let g := s.group k
  let s := if (mfind (ctxOf k) s.teams).isNone then s else s.updTeam (ctxOf k) fun t =>
    { t with
      past := t.past ++ [(gidOf k, g.slot, g.acc)],
      nlast := match g.nlast with
        | some n => some (max n (t.nlast.getD 0))
        | none => t.nlast }
  if s.caches.flights.any fun p => p.2.grp == k && p.2.held then
    { s with late := mset k (g.nlast.getD 0) s.late }
  else s

/-- A group ends (R19): its slot, rows, tiles and accumulator grant return, its private words leave the L1, and
results in flight for it are discarded, those of the SFU queue among them, before its rows are handed on (R201). -/
def State.dropGroup (s : State) (k : Nat) : State :=
  let s := ((((s.dropPrivate k).leaveQueues k).releaseEndpoints k).orphan k).notePast k
  { s with
    groups := mdel k s.groups,
    sfu := s.sfu.map fun (p : Nat × List SfuEntry) => (p.1, p.2.filter fun e => e.grp != k) }

/-- A record ends: its release is under way, and its signal fence and COMPLETE event follow it (R301). -/
def State.endRecord (s : State) (lid : Nat) (r : Launch) : State :=
  { s with launches := mset lid { r with st := .ended } s.launches }

/-- The teams a launch record asks for: the product of the extents above F0 (R13, R301). -/
def Launch.teamCount (r : Launch) : Nat := ((r.exts.drop 1).map fun e => e + 1).foldl (· * ·) 1

/-- Images whose unload waits go when no team of theirs is left, and no record that was admitted before and has teams to
start (R111): their routines are unbound, and their windows are freed with what they hold. A routine of theirs that an engine
runs goes on to its decision, in a window that reads zero (DESIGN CHOICE, log entry 91: R111 does not say). -/
def State.reapImages (s : State) : State :=
  let gone := s.dev.images.filter fun p => p.2.unload && !(s.teams.any fun t => t.2.image == p.1) &&
    !(s.launches.any fun r => r.2.kind == 1 && r.2.image == p.1 && r.2.st != .ended)
  let s := (gone.flatMap fun p => p.2.windows).foldl (fun u w => u.putBytes w.1 (List.replicate w.2 memDefault)) s
  { s with
    routines := s.routines.filter fun p => !(gone.map Prod.fst).contains p.2.image,
    dev := { s.dev with images := s.dev.images.filter fun p => !(gone.map Prod.fst).contains p.1 } }

/-- The pages of a team that hold their rows. -/
def Team.rowPages (t : Team) : List Pin :=
  (((List.range t.pages.length).zip t.pages).filter fun p => (mfind p.1 t.spilt).isNone).map Prod.snd

/-- The core-pinned pages of a team that ends: their mappings go and their rows are free (R51), or with others of its gang
left they stay where they are until the last one ends (R281). -/
def State.endPages (s : State) (ctx : Nat) : State :=
  let t := mget {} s.teams ctx
  let x := mget {} s.gangs t.gang
  let ps := x.pages ++ t.rowPages
  if x.teams.all fun c => c == ctx then
    let s := ps.foldl (fun u p => u.setPin p false) s
    { s with gangs := mdel t.gang s.gangs }
  else { s with gangs := mset t.gang { x with teams := x.teams.filter (fun c => c != ctx), pages := ps } s.gangs }

/-- A team ends (R19): its groups, its pages, its place in its gang, its TLB entries and its record's count. Log entry 30. -/
def State.endTeam (s : State) (ctx : Nat) : State :=
  let t := mget {} s.teams ctx
  let s : State := ((s.groupsOf ctx).foldl (fun u k => u.dropGroup k) s).endPages ctx
  let last := (mget {} s.teams ctx).nlast
  let s : State :=
    { s with
      teams := mdel ctx s.teams,
      caches := { s.caches with
        tlb := s.caches.tlb.map fun (p : Nat × List TlbEntry) => (p.1, p.2.filter fun e => e.ctx != ctx),
        lines := s.caches.lines.map fun (p : Nat × L1Line) => if p.2.ctx == ctx then (p.1, { p.2 with attr := none }) else p } }
  (match mfind t.launch s.launches with
   | none => s
   | some r =>
     let r := { r with
       live := r.live - 1, ends := r.ends ++ [(ctx, t.core, s.nextId)],
       nlast := match last with
         | some n => some (max n (r.nlast.getD 0))
         | none => r.nlast }
     let s := { s with launches := mset t.launch r s.launches }
     if r.st = RState.started ∧ r.live = 0 ∧ r.placed = r.teamCount then s.endRecord t.launch r else s).reapImages

/-- WDOG of a team's tenant on its die (R22, R311). -/
def State.wdogOf (s : State) (t : Team) : Nat := mget (2 ^ 24) s.wdog (32 * dieOf t.core + t.tenant)

/-- The system handler ends a team with a FAULT event (R163, R302); a team that has ended already is not ended again. -/
def State.faultTeam (s : State) (ctx : Nat) (c : Cause) (addr tepc : Nat) : State :=
  match mfind ctx s.teams with
  | some t => (s.postEvent t.qid ⟨3, 1, t.qid, t.tag, c.code, addr, tepc⟩).endTeam ctx
  | none => s

/-! ### Halting and parking (R314, R317) -/

def State.setTState (s : State) (ctx : Nat) (st : TState) : State := s.updTeam ctx fun t => { t with st := st }

/-- A team is halted when every group of it has stopped (R314). -/
def State.haltedAll (s : State) (ctx : Nat) : State :=
  if (s.groupsOf ctx).all fun x => (s.group x).halted then s.updTeam ctx fun t => { t with st := .halted, haltReq := false }
  else s

/-- A group stops at a boundary (R314); what it waits for at queue homes is withdrawn (R273). -/
def State.haltGroup (s : State) (k : Nat) : State :=
  ((s.kqWithdraw k).updGroup k fun g => { g with halted := true }).haltedAll (ctxOf k)

/-- Park a team at a NOT_PRESENT that the system will map later: its groups are asked to halt, and it is saved (R317). -/
def State.parkTeam (s : State) (ctx : Nat) : State := s.updTeam ctx fun t => { t with park := true, haltReq := true }

/-- The table entries that a walk of an address meets, from a table at a level (R43). -/
def State.pathOf (s : State) (va : Nat) : Nat → Nat → List Nat
  | level, base =>
    let lo := if level = 0 then 16 else 21 + 9 * (level - 1)
    let a := base + 16 * bits va (lo + (if level = 0 then 4 else 8)) lo
    a :: match level with
      | 0 => []
      | level + 1 =>
        let e := s.entry a
        if e.getLsbD 0 && e.getLsbD 8 then s.pathOf va level (bits e.toNat 51 9 * 512) else []

/-- An address lies in a core-pinned page whose rows have been claimed and that has not been restored (R51). -/
def State.heldPage (s : State) (root va : Nat) : Bool :=
  let path := s.pathOf va 4 root
  s.teams.any fun t => t.2.spilt.any fun i => match t.2.pages[i.1]? with
    | some x => x.leaves.any fun a => path.contains a
    | none => false

/-! ### Taking a trap (R162, R163) -/

/-- One raising lane: its number, cause, and the faulting address where the cause has one. -/
structure Raised where
  lane  : Nat
  cause : Cause
  addr  : Option Nat
  deriving DecidableEq, Repr

/-- The cause of the lowest-numbered raising lane (R12). -/
def trapCause (rs : List Raised) : Option Raised :=
  rs.foldl (fun m r => match m with
    | none => some r
    | some x => if r.lane < x.lane then some r else some x) none

/-- A policy routine that faults ends without a decision (R76). -/
def State.policyFault (s : State) (k : Nat) : State :=
  let c := clusterOfEngine k
  let e := mget {} s.engines c
  match e.run with
  | some r => { s with engines := mset c { e with run := some { r with status := .failed } } s.engines }
  | none => s

/-- The faulting addresses of the raising lanes go to TADDR (R43, R47, R163). -/
def Group.noteAddrs (g : Group) (rs : List Raised) : Group :=
  { g with
    taddr := rs.foldl (fun m (r : Raised) => match r.addr with
      | some a => mput 0 m r.lane (BitVec.ofNat 57 a)
      | none => m) g.taddr }

/-- The handler entry of the raising lanes (R163). A release that the group was waiting in issues anew after the handler,
and the handler's own releases are others (R133). -/
def Group.enterHandler (g : Group) (rs : List Raised) (c : Cause) : Group :=
  let ls := rs.map Raised.lane
  let g' := { g with
    tcause := ls.foldl (fun m l => mput 0 m l (BitVec.ofNat 8 c.code)) g.tcause,
    tepc := ls.foldl (fun m l => mput 0 m l ((g.pcOf l).setWidth 32)) g.tepc,
    taddr := (g.noteAddrs rs).taddr,
    hmask := maskOf ls,
    h := true,
    wait := { g.wait with relAt := none, kq := none } }
  g'.setPcs ls fun l => (g.pcOf l).extractLsb' 32 32 ++ g.ctl.tvec

/-- What the system software does at a NOT_PRESENT (log entry 11): 0 the group goes on once the page is there, 1 its team is
parked (R317), else it is ended. At a page that is held absent it resumes or parks (R51). -/
def State.missAnswer (s : State) (k va : Nat) : Nat :=
  if s.heldPage (s.teamOf k).root va then Config.systemAnswer s.tick % 2 else Config.systemAnswer s.tick

/-- TakeTrap (R163): the raising lanes trap together with the cause of the lowest of them (R12). System causes leave
the PCs unchanged: NOT_PRESENT leaves its addresses in TADDR (R43) and is answered by the system software (log entry 11),
PREEMPT halts, WATCHDOG ends the team; ACC_CLAIM is resolved where it is raised (R279). -/
def State.takeTrap (s : State) (k : Nat) (rs : List Raised) : State :=
  match trapCause rs with
  | none => s
  | some r =>
    if isPolicy k then s.policyFault k
    else
      let g := s.group k
      let ctx := ctxOf k
      let tepc := ((g.pcOf r.lane).setWidth 32 : Word).toNat
      let addr := r.addr.getD 0
      match r.cause with
      | .notPresent =>
        let a := s.missAnswer k addr
        let s := s.setGroup k (g.noteAddrs rs)
        if a = 0 then s
        else if a = 1 then (s.parkTeam ctx).haltGroup k
        else s.faultTeam ctx .notPresent addr tepc
      | .accClaim => s
      | .preempt => s.haltGroup k
      | .watchdog => s.faultTeam ctx .watchdog 0 tepc
      | c =>
        if g.h then s.faultTeam ctx .doubleTrap addr tepc
        else match c.routeBit with
          | some b =>
            if g.ctl.troute.getLsbD b then s.setGroup k (g.enterHandler rs c)
            else s.faultTeam ctx c addr tepc
          | none => s.faultTeam ctx c addr tepc

/-- Record a failure against a group (R215, R249); when every lane has exited the team ends with a FAULT event. -/
def State.recordFail (s : State) (k cls : Nat) (m : Mark) : State :=
  if (allLanes.any fun l => (s.group k).alive l) then s.updGroup k fun g => { g with fails := g.fails ++ [(cls, m)] }
  else s.faultTeam (ctxOf k) m.cause m.addr 0

/-- Count down completed operations in issue order and record the failures of those that leave (R39, R249); so also that
of an AMO without .ret (R215; the moment is a DESIGN CHOICE, log entry 101). -/
def State.retire (s : State) (k : Nat) : State :=
  let g := s.group k
  let g' := g.retired
  let gone := g.ops.filter fun o => o.done && !(g'.ops.any fun x => x.id == o.id)
  gone.foldl (fun t o => match o.fail with
    | some m => t.recordFail k o.cls m
    | none => t) (s.setGroup k g')

/-- The oldest recorded failure that an instruction raises: every class, or the class of a WAITC (R249). It is raised
in the lowest executing lane and is taken off the record. -/
def State.failRaise (s : State) (k : Nat) (cls : Option Nat) (run : List Nat) : Option (State × Raised) :=
  let g := s.group k
  match g.fails.find? fun p => cls == none || cls == some p.1 with
  | some p => some (s.setGroup k { g with fails := g.fails.erase p }, ⟨lowest run, p.2.cause, some p.2.addr⟩)
  | none => none

/-- Every lane at the issue PC traps (R70). -/
def State.trapAll (s : State) (k : Nat) (c : Cause) : State :=
  s.takeTrap k ((s.group k).atIssue.map fun l => ⟨l, c, none⟩)

/-- Return from a handler (R166): the lanes take TEPC and leave HMASK; H clears when HMASK is empty. -/
def Group.tret (g : Group) (ls : List Nat) : Group :=
  let g' := g.setPcs ls fun l => (g.pcOf l).extractLsb' 32 32 ++ mget 0 g.tepc l
  let m := g.hmask &&& ~~~(maskOf ls)
  { g' with hmask := m, h := m != 0#32 }

/-! ### Releases and acquires -/

/-- The group has a load whose data has not come, or an atomic that its home has not acknowledged (R133, R220), or one that
has failed and whose failure, behind older operations, has still to be recorded (R39, R215). -/
def Group.loading (g : Group) : Bool :=
  g.ops.any fun o =>
    o.done && o.cls == 0 && o.fail.isSome || !o.done && (match o.kind with
      | .load ls _ _ => ls.any fun x => x.slots.any fun sl => sl.val.isNone
      | .atomic _ _ _ _ its _ => its.any fun i => !i.done
      | .tile _ _ _ _ _ => true
      | _ => false)

/-- Stores of a group in flight on a route. -/
def State.flying (s : State) (k : Nat) (remote : Bool) : Bool :=
  s.caches.flights.any fun p => p.2.grp == k && p.2.op == none && (p.2.route == .remote) == remote

/-- REL of team scope may complete: loads returned, stores acknowledged, atomics acknowledged (R133, R220). -/
def State.relTeamReady (s : State) (k : Nat) : Bool := !(s.group k).loading && !s.flying k false

/-- A core has a word whose registration was requested before `n` and is not granted (R133). -/
def State.pWords (s : State) (core n : Nat) : Bool := (s.l1Words core).any fun p => p.2.st == .p && p.2.seq < n

/-- ERR now (R330): the offset at the last Sync and the drift allowed since; in holdover 2,000 ns more each second. -/
def Dev.errNow (d : Dev) : Nat :=
  match d.sync with
  | 0 => d.err + Config.driftAllowed (d.time - d.lastSync)
  | 1 => d.err + 2000 * ((d.time - d.holdAt) / 1000000000)
  | _ => d.err

/-- The stream to a node is under acknowledgement ordering: its link has stopped meeting the bound, 2 × ERR alone is above
WLEN, or the device is unsynchronised (R150, R331). -/
def State.ackOrder (s : State) (node : Nat) : Bool :=
  (mget {} s.dev.streams node).ack || s.dev.sync == 2 || s.dev.wlen < 2 * s.dev.errNow

/-- The streams of a group that are under acknowledgement ordering have unacknowledged stores (R150). -/
def State.ackOwed (s : State) (k : Nat) : Bool :=
  s.caches.flights.any fun p =>
    p.2.grp == k && p.2.op == none && p.2.route == .remote && s.ackOrder p.2.node

/-- A release of a scope by a group: none while it must still wait (having noted which P words it waits for), the
state after it when it completes (R133, R149, R150). -/
def State.release (s : State) (k scope : Nat) : Option State :=
  let g := s.group k
  if !s.relTeamReady k then none
  else if scope ≤ 1 then some s
  else
    let n := g.wait.relAt.getD s.nextId
    if s.pWords (s.coreOf k) n then none
    else if scope = 5 ∧ s.ackOwed k then none
    else
      let g := { g with wait := { g.wait with relAt := none } }
      some (s.setGroup k (match (if scope = 5 then g.nlast else none) with
        | some n => { g with hold := some (max n (g.hold.getD 0)), relGen := g.relGen + 1 }
        | none => g))

/-- A release of a scope that waits remembers which registrations it waits for, if any, from when the group's loads have
returned: a store that one of them has read is among them (R133, R137). -/
def State.relWait (s : State) (k scope : Nat) : State :=
  if scope ≤ 1 || !s.relTeamReady k then s
  else s.updGroup k fun g => { g with wait := { g.wait with relAt := some (g.wait.relAt.getD s.nextId) } }

/-- Acquire (R134): at clus or wider the core's V words are dropped. -/
def State.acquire (s : State) (k scope : Nat) : State :=
  if scope ≤ 1 then s else s.dropV (s.coreOf k) fun _ => true

/-- An issue that must wait: the group's next instruction is stalled (R21). -/
def State.stall (s : State) : State := { s with stalled := true }

end Sys2Proof.Machine
end

