-- ==== Sys2Proof/Machine/Operands.lean ====
section
/-!
DEFINITION. Operand forms and checks 5 to 9 of R69: which operands an instruction may name, which registers, tiles
and ports it waits for, the values of A, B, C and E in a lane, and the shape that every issue has.
-/

namespace Sys2Proof.Machine

/-- The length of an encoding (R57). -/
def formLen : Form → Nat
  | .b3 | .bi | .bj => 4
  | .xL => 20
  | _ => 12

/-! ### Check 8: operand fields (R23, R27, R31, R34, R62, R171) -/

/-- `n` registers from `r` exist in a group of `regs` registers and are aligned to `n` (R23, R171, R212). -/
def regsOk (regs r n : Nat) : Bool := r % n == 0 && r + n ≤ regs

/-- A port field is bound: to any kind as a source, to kind 4 as a destination (R27). -/
def portBound (g : Group) (r : Nat) (write : Bool) : Bool :=
  if write then g.portKind (r - 120) == 4 else g.portKind (r - 120) != 0

/-- A register field is legal: `port` says whether a port may stand there. -/
def useOk (t : Team) (g : Group) (port : Bool) (r : Nat) (u : Use) : Bool :=
  match u with
  | .none | .num => true
  | .src n => if isPort r then port && portBound g r false else regsOk t.regs r n
  | .dst n => if isPort r then port && portBound g r true else regsOk t.regs r n
  | .tile | .tileDst => r < t.tiles
  | .acc => r < t.accs
  | .opt | .fmtSrc => r == 0 || r < t.regs

/-- A present guard names a register of the group (R65). -/
def guardOk (t : Team) (gd : Guard) : Bool := !Guard.present gd || gd.reg.toNat < t.regs

/-- Instructions that use all 64 bits of the literal: BRA, CALL, TWAIT and LEA (R62). -/
def fullLit (op : Nat) : Bool := op == 0x01 || op == 0x04 || op == 0x0B || op == 0x2D

/-- The literal keeps its rules (R62). -/
def litOk (op : Nat) (f : Fields) : Bool :=
  match f.form with
  | .bjL => f.lit.extractLsb' 57 7 == 0#7 && f.lit.extractLsb' 0 2 == 0#2
  | .b3L | .biL | .xL => fullLit op || f.lit.extractLsb' 32 32 == 0#32
  | _ => true

/-- B is a register field: not an immediate and not replaced by the literal (R62). -/
def bIsReg (f : Fields) : Bool :=
  match f.form with
  | .b3 | .x => true
  | _ => false

/-- The general part of check 8. -/
def operandsOk (t : Team) (g : Group) (pol : Bool) (op : Nat) (f : Fields) : Bool :=
  let sh := shapeOf op f.sub.toNat
  let ports := sh.ports && !pol
  let a := f.a.toNat; let b := f.b.toNat; let d := f.d.toNat
  let aPort := sh.a.isSrc && isPort a
  let bPort := bIsReg f && sh.b.isSrc && isPort b
  useOk t g (ports && sh.a == .src 1) a sh.a &&
    (if bIsReg f then useOk t g (ports && sh.b == .src 1 && !f.u) b sh.b else true) &&
    useOk t g false f.c.toNat sh.c && useOk t g false f.e.toNat sh.e &&
    useOk t g (ports && sh.dPort) d sh.d &&
    !(aPort && bPort && a == b) &&
    !(isPort d && (match sh.d with | .dst _ => true | _ => false) && (aPort && a == d || bPort && b == d)) &&
    guardOk t f.g0 && guardOk t f.g1 && litOk op f

/-! ### Check 9: sources, guards and ports (R25, R26, R28, R31) -/

/-- The registers of a source field. -/
def Use.regs (u : Use) (r : Nat) : List Nat :=
  match u with
  | .src n => if isPort r then [] else (List.range n).map fun i => r + i
  | .opt => if r = 0 then [] else [r]
  | .fmtSrc => [r]
  | _ => []

/-- Something that an issue waits for. -/
inductive Need where
  | regs (rs : List Nat) (wait : Bool)
  /-- One register in quarters of its own (R203). -/
  | lanes (r : Nat) (qs : List Nat) (wait : Bool)
  | tile (t : Nat) (wait : Bool)
  | take (q : Nat) (wait : Bool)
  | put (q : Nat) (wait : Bool)
  deriving DecidableEq, Repr

/-- The need of a source field. Log entry 35. -/
def needOf (u : Use) (r : Nat) (wait : Bool) : List Need :=
  match u with
  | .tile => [.tile r wait]
  | .src _ => if isPort r then [.take (r - 120) wait] else [.regs (u.regs r) wait]
  | .opt | .fmtSrc => if (u.regs r).isEmpty then [] else [.regs (u.regs r) wait]
  | _ => []

/-- A base form blocks always; an extended form by its wait bit (R25, R61). -/
def waits (f : Fields) (i : Nat) : Bool := !isX f.form || f.wb.getLsbD i

/-- The guard registers. -/
def guardRegs (f : Fields) : List Nat :=
  (if Guard.present f.g0 then [f.g0.reg.toNat] else []) ++ (if Guard.present f.g1 then [f.g1.reg.toNat] else [])

/-- The guard registers as a need (R65). -/
def guardNeed (f : Fields) : List Need := if (guardRegs f).isEmpty then [] else [.regs (guardRegs f) (waits f 4)]

/-- The needs of check 9, in its order: A, B, C, E, the guards, a port named as D. TLD's element source counts only in the
format-aware mode (`fx`). -/
def needs (op : Nat) (f : Fields) (fx : Bool) : List Need :=
  let sh := shapeOf op f.sub.toNat
  needOf sh.a f.a.toNat (waits f 0) ++
    (if bIsReg f then needOf sh.b f.b.toNat (waits f 1) else []) ++
    (if sh.c == .fmtSrc && !fx then [] else needOf sh.c f.c.toNat (waits f 2)) ++
    needOf sh.e f.e.toNat (waits f 3) ++ guardNeed f ++
    (match sh.d with
     | .dst _ => if isPort f.d.toNat then [.put (f.d.toNat - 120) (waits f 0)] else []
     | _ => [])

/-- A need is met: the full bits of the quarters `qs`, or the elements or room for `k` executing lanes. -/
def Need.met (g : Group) (qs : List Nat) (k : Nat) : Need → Bool
  | .regs rs _ => rs.all fun r => g.fullIn r qs
  | .lanes r rs _ => g.fullIn r rs
  | .tile t _ => (g.tile t).full
  | .take q _ => k ≤ (g.port q).elems.length
  | .put q _ => k ≤ (g.port q).room

/-- What an unmet need raises: none where it waits. -/
def Need.trap : Need → Option Cause
  | .regs _ w | .lanes _ _ w | .tile _ w => if w then none else some .feEmpty
  | .take _ w => if w then none else some .queueEmpty
  | .put _ w => if w then none else some .queueFull

/-- The destination registers and tile, among them the link pair of BRX and CALL (R26, R31, R152). -/
def dstRegs (op : Nat) (f : Fields) : List Nat :=
  let sh := shapeOf op f.sub.toNat
  (match sh.d with
   | .dst n => if isPort f.d.toNat then [] else (List.range n).map fun i => f.d.toNat + i
   | _ => []) ++
  (match sh.c with
   | .dst n => (List.range n).map fun i => f.c.toNat + i
   | _ => []) ++
  (if sh.cStat then [f.c.toNat] else []) ++ (if op = 0x0E then [f.d.toNat] else []) ++
  (if op = 0x04 ∨ op = 0x03 ∧ f.d ≠ 0#7 then [f.d.toNat, f.d.toNat + 1] else [])

/-- The destinations are full in the quarters of the executing lanes (R26, R31). -/
def dstReady (g : Group) (qs : List Nat) (op : Nat) (f : Fields) : Bool :=
  ((dstRegs op f).all fun r => g.fullIn r qs) &&
    (match (shapeOf op f.sub.toNat).d with
     | .tileDst => (g.tile f.d.toNat).full
     | _ => true)

/-! ### Guards (R65) -/

/-- A guard passes in a lane. -/
def guardPass (g : Group) (gd : Guard) (l : Nat) : Bool :=
  !Guard.present gd || ((g.reg gd.reg.toNat l).getLsbD gd.bit.toNat).xor gd.sense

/-- Both guards pass. -/
def passes (g : Group) (f : Fields) (l : Nat) : Bool := guardPass g f.g0 l && guardPass g f.g1 l

/-! ### Checks 5 to 9 -/

/-- The instructions of the policy profile (R78). -/
def inProfile (op : Nat) (f : Fields) : Bool :=
  0x20 ≤ op && op ≤ 0x3D || 0xC0 ≤ op && op ≤ 0xD7 || op == 0x06 || op == 0x0E || 0xB0 ≤ op && op ≤ 0xB2 ||
    op == 0x01 && f.form != .bjL && 0 < signExt f.off.toNat 15 ||
    op == 0x02 && 0 < signExt (f.b.toNat * 16384 + f.a.toNat * 128 + f.d.toNat) 21 ||
    op == 0x0F && (0x09 ≤ f.imm.toNat && f.imm.toNat ≤ 0x0B || 0x40 ≤ f.imm.toNat && f.imm.toNat ≤ 0x7F) ||
    (op == 0x70 || op == 0x71) && f.sub == 0x20#8

/-- Check 5 (R36, R69, R77). -/
def ctxOk (pol : Bool) (op : Nat) (f : Fields) : Bool :=
  if pol then inProfile op f
  else !(0xB0 ≤ op && op ≤ 0xB2) && !((op == 0x0F || op == 0x10) && 0x40 ≤ f.imm.toNat && f.imm.toNat ≤ 0x7F)

/-- Check 6: privileged instructions (R69, R77). -/
def privOk (sys : Bool) (op : Nat) : Bool := sys || !(0xB3 ≤ op && op ≤ 0xB5)

/-- Check 7: the scope field (R69, R74). -/
def scopeOk (op : Nat) (f : Fields) : Bool := !(op == 0x75 || op == 0x76 || op == 0x77 || op == 0x78) || bits f.sub.toNat 2 0 ≤ 5

/-- The causes of checks 5 to 8, in order. `legal`: the instruction's own part of check 8. -/
def checkFields (t : Team) (g : Group) (pol : Bool) (op : Nat) (f : Fields) (legal : Bool) : Option Cause :=
  if !ctxOk pol op f then some .illegalCtx
  else if !privOk t.sys op then some .privOp
  else if !scopeOk op f then some .scopeInvalid
  else if !(operandsOk t g pol op f && legal) then some .illegalOpnd
  else none

/-- What the checks decide: no lane to issue, a trap of every lane at the issue PC, a stall, or the lanes at the
issue PC and those of them that the guards pass. -/
inductive Gate where
  | idle
  | trap (c : Cause)
  | stall
  | go (at_ ex : List Nat)
  deriving DecidableEq, Repr

/-- BRC and LOOPB do not filter their lanes by the guards (R65). -/
def ownGuards (op : Nat) : Bool := op == 0x02 || op == 0x0E

/-- The lanes that execute (R9, R65). Log entry 43. -/
def executing (g : Group) (op : Nat) (f : Fields) : List Nat :=
  if ownGuards op then g.atIssue else g.atIssue.filter (passes g f)

/-- The lanes that check 9 takes to execute: those that no guard which is ready in their quarter excludes (R9, R25, R69).
Where the guards are ready they are the executing lanes. Log entry 35. -/
def expected (g : Group) (op : Nat) (f : Fields) : List Nat :=
  if ownGuards op then g.atIssue
  else g.atIssue.filter fun l => [f.g0, f.g1].all fun gd => guardPass g gd l || !g.fullIn gd.reg.toNat [quarter l]

/-! ### Operand values -/

/-- OPs whose IMM8 is zero-extended (R60); the others' is sign-extended. -/
def zeroImm (op : Nat) : Bool := 0xD4 ≤ op && op ≤ 0xD7 || op ≤ 0x10 || 0xB0 ≤ op && op ≤ 0xB2

/-- What an executing lane reads: the group before the instruction, the executing lanes, and those of them that
complete (R9, R10). -/
structure Rd where
  g   : Group
  ex  : List Nat
  run : List Nat

/-- The 32-bit A and C operands of a lane: a register, or a port's element of its rank among the executing lanes (R28). -/
def Rd.a (r : Rd) (f : Fields) (l : Nat) : Word := r.g.src r.ex f.a.toNat l
def Rd.c (r : Rd) (f : Fields) (l : Nat) : Word := r.g.reg f.c.toNat l

/-- The 32-bit B operand of a lane: literal, immediate, uniform register (from the lowest executing lane, R24),
register or port. -/
def Rd.b (r : Rd) (op : Nat) (f : Fields) (l : Nat) : Word :=
  if hasLit f.form then lo32 f.lit
  else match f.form with
    | .bi => if zeroImm op then f.imm.setWidth 32 else f.imm.signExtend 32
    | _ => if f.u then r.g.reg f.b.toNat (lowest r.ex) else r.g.src r.ex f.b.toNat l

/-- The lane that supplies a register of B (R24, R212). -/
def laneB (f : Fields) (ex : List Nat) (l : Nat) : Nat := if f.u then lowest ex else l

/-! ### Lanes that name lanes (R38, R203, R206) -/

/-- The tile size 2^PART of a group (R38). -/
def Group.tsize (g : Group) : Nat := 2 ^ (min g.ctl.part.toNat 5)

/-- base(l). -/
def Group.tbase (g : Group) (l : Nat) : Nat := g.tsize * (l / g.tsize)

/-- The source lane that SHFL names (R206). -/
def shflSource (g : Group) (sub b l : Nat) : Option Nat :=
  let n := g.tsize; let base := g.tbase l; let o := l - base
  match sub with
  | 0 => some (base + b % n)
  | 1 => if b ≤ o then some (l - b) else none
  | 2 => if o + b < n then some (l + b) else none
  | 3 => some (base + Nat.xor o (b % n))
  | _ => some (base + (o + b) % n)

/-- The source lane of a lane. -/
def Rd.source (r : Rd) (f : Fields) (l : Nat) : Option Nat :=
  shflSource r.g f.sub.toNat (r.b 0x61 f l).toNat l

/-- The quarters in which SHFL reads A: those of its source lanes that have not exited (R203). -/
def Rd.sourceQuarters (r : Rd) (f : Fields) : List Nat :=
  quartersOf (r.ex.filterMap fun l => (r.source f l).bind fun j => if r.g.alive j then some j else none)

/-- What check 9 examines for lanes that execute, in its order. SHFL's A is needed in the quarters of their source lanes
too, once B, which names them, is full (R203; DEDUCED, log entry 35). -/
def allNeeds (g : Group) (op : Nat) (f : Fields) (fx : Bool) (ex : List Nat) : List Need :=
  (if op = 0x61 && (!bIsReg f || g.fullIn f.b.toNat (quartersOf ex)) then
    [.lanes f.a.toNat (Rd.sourceQuarters ⟨g, ex, ex⟩ f) (waits f 0)] else []) ++ needs op f fx

/-- What an issue finds not ready, in the order of check 9 (R25, R28, R69). Log entry 35. -/
def unmet (g : Group) (op : Nat) (f : Fields) (fx : Bool) : List Need :=
  (allNeeds g op f fx (expected g op f)).filter fun n =>
    !n.met g (quartersOf (expected g op f)) (expected g op f).length

/-! ### The gate -/

/-- Checks 5 to 9 of R69 for the current group. -/
def gate (s : State) (k op : Nat) (f : Fields) (legal : Team → Group → Bool) (fx : Bool) : Gate :=
  let t := s.teamOf k
  let g := s.group k
  if g.atIssue.isEmpty then .idle
  else match checkFields t g (isPolicy k) op f (legal t g) with
    | some c => .trap c
    | none =>
      let ex := executing g op f
      match (unmet g op f fx).findSome? Need.trap with
      | some c => .trap c
      | none =>
        if !(unmet g op f fx).isEmpty || !dstReady g (quartersOf ex) op f then .stall
        else .go g.atIssue ex

/-- OFF14 of the memory family (R213). -/
def off14 (f : Fields) : Int := signExt (f.e.toNat * 128 + f.c.toNat) 14

/-- An instruction names a port as a source: it is a queue-fed move (R25, R171). -/
def queueFed (op : Nat) (f : Fields) : Bool :=
  let sh := shapeOf op f.sub.toNat
  sh.a.isSrc && isPort f.a.toNat || bIsReg f && sh.b.isSrc && isPort f.b.toNat

/-! ### The shape of an issue -/

/-- The first marked register of some registers in a lane. -/
def firstMark (g : Group) (rs : List Nat) (l : Nat) : Option Mark := rs.findSome? fun r => g.markOf r l

/-- Instructions that take their register operands from the lowest executing lane of the group and act once (R155, R168,
R169, R223, R227, R248, R264). -/
def byGroup (op : Nat) (f : Fields) : Bool :=
  op == 0x76 || 0x78 ≤ op && op ≤ 0x81 || op == 0x82 && f.sub == 0#8 || 0x88 ≤ op && op ≤ 0x8A || op == 0x90 ||
    0x93 ≤ op && op ≤ 0x97 || op == 0xA0 || (op == 0xA2 || op == 0xA3) && f.sub == 2#8 || op == 0xA4 ||
    0xB3 ≤ op && op ≤ 0xB5

/-- ACCWIN's register and ACCRD's row, which come from the lowest executing lane of each quarter (R227). -/
def byQuarter (op : Nat) : Bool := op == 0x85 || op == 0x86

/-- The lane in which lane `l` reads its register operands. -/
def operandLane (op : Nat) (f : Fields) (ex : List Nat) (l : Nat) : Nat :=
  if byGroup op f then lowest ex
  else if byQuarter op then lowest (ex.filter fun x => quarter x == quarter l)
  else l

/-- LOOPB and PACK read their D as well (R153, R195). -/
def readsD (op : Nat) : Bool := op == 0x0E || op == 0x50

/-- The lane in which lane `l` reads E: GATH and SCAT take their window from the lowest executing lane (R251). -/
def laneE (op : Nat) (f : Fields) (ex : List Nat) (l : Nat) : Nat :=
  if op == 0x91 || op == 0x92 then lowest ex else operandLane op f ex l

/-- The mark that a lane meets among its guards and the registers that it reads, in the order guards, A, B, C, E, and a D
that is read (R215; the order is the model's choice, log entry 94). A uniform B is read in the lowest executing lane only
(R24). `fx`: TLD reads its element source (R229). Log entries 40, 95. -/
def markedIn (g : Group) (op : Nat) (f : Fields) (fx : Bool) (ex : List Nat) (l : Nat) : Option Mark :=
  let sh := shapeOf op f.sub.toNat
  let bRegs := if bIsReg f && (!f.u || l == lowest ex || byGroup op f) then sh.b.regs f.b.toNat else []
  let cRegs := if sh.c == .fmtSrc && !fx then [] else sh.c.regs f.c.toNat
  (firstMark g (guardRegs f) l).or
    (if ex.contains l then
      ((firstMark g (sh.a.regs f.a.toNat ++ bRegs ++ cRegs) (operandLane op f ex l)).or
        (firstMark g (sh.e.regs f.e.toNat) (laneE op f ex l))).or
        (firstMark g (if readsD op then [f.d.toNat] else []) l)
    else none)

/-- The lanes that raise before they execute, for a mark on a guard or a source (R215). A marked operand that the
whole group, or a whole quarter, takes from one lane raises in every executing lane of the group or quarter (R227). -/
def markRaises (g : Group) (op : Nat) (f : Fields) (fx : Bool) (at_ ex : List Nat) : List Raised :=
  at_.filterMap fun l => (markedIn g op f fx ex l).map fun m => ⟨l, m.cause, some m.addr⟩

/-- What the body of an instruction answers: it waits (having perhaps noted an arrival); it does not execute, and some
lanes trap; or it has taken effect in the lanes that did not raise. A body moves no PC unless its instruction is a branch. -/
inductive Res where
  | wait (s : State)
  | trap (s : State) (raised : List Raised)
  | done (s : State) (raised : List Raised)

/-- Advance lanes past the instruction. -/
def State.pass (s : State) (k : Nat) (ls : List Nat) (len : Nat) : State := s.updGroup k fun g => g.advance ls len

/-- Issue an instruction for the current group: checks 5 to 9, marks, the body in the lanes that remain, the advance
of the lanes that completed or were excluded by the guards (R65), and the trap of those that raised. `adv`: the body's
lanes advance. Where marks leave no lane the body does not run, and takes no port elements (log entry 96). -/
def issue (op : Nat) (f : Fields) (legal : Team → Group → Bool) (fx : Bool) (adv : Bool)
    (body : State → Nat → List Nat → List Nat → Res) (s : State) : State :=
  let k := s.cur
  match gate s k op f legal fx with
  | .idle => s
  | .trap c => (s.updGroup k Group.unpark).trapAll k c
  | .stall => s.stall
  | .go at_ ex =>
    let g := s.group k
    let marks := markRaises g op f fx at_ ex
    let run := ex.filter fun l => !(marks.map Raised.lane).contains l
    let out := at_.filter fun l => !ex.contains l && !(marks.map Raised.lane).contains l
    match (if run.isEmpty then .done (s.updGroup k Group.unpark) [] else body (s.updGroup k Group.unpark) k ex run) with
    | .wait s' => s'.stall
    | .trap s' raised => (s'.pass k out (formLen f.form)).takeTrap k (marks ++ raised)
    | .done s' raised =>
      let ok := run.filter fun l => !(raised.map Raised.lane).contains l
      let s' := s'.pass k out (formLen f.form)
      let s' := if adv then s'.pass k ok (formLen f.form) else s'
      s'.takeTrap k (marks ++ raised)

/-- The outcome of an instruction's meaning. -/
abbrev Out := Host.Outcome State Fault Refusal

/-- Write one value per lane into D: a register, the push of a port, or for a queue-fed move a register that is empty
until the result is written (R171, R172). -/
def writeD (s : State) (k op : Nat) (f : Fields) (ok : List Nat) (v : Nat → Word) : State :=
  let d := f.d.toNat
  if isPort d then s.updGroup k fun g => g.push (d - 120) (ok.map v)
  else if queueFed op f then
    let s := s.updGroup k fun g => g.setEmpty d (quartersOf ok) true
    s.addOp k 6 (.load (ok.map fun l => ⟨l, 0, [], .known [(d, v l)]⟩) [d] (quartersOf ok))
  else s.updGroup k fun g => g.setRegs d ok v

/-- Write one 64-bit value per lane into the pair D. -/
def writePair (s : State) (k op : Nat) (f : Fields) (ok : List Nat) (v : Nat → BitVec 64) : State :=
  let d := f.d.toNat
  if queueFed op f then
    let s := s.updGroup k fun g => (g.setEmpty d (quartersOf ok) true).setEmpty (d + 1) (quartersOf ok) true
    s.addOp k 6
      (.load (ok.map fun l => ⟨l, 0, [], .known [(d, lo32 (v l)), (d + 1, hi32 (v l))]⟩) [d, d + 1] (quartersOf ok))
  else s.updGroup k fun g => g.setPairs d ok v

/-- Take the elements of the ports that A and B name: one for each executing lane (R28), a lane that raises included
(DESIGN CHOICE, log entry 96). -/
def popSources (s : State) (k op : Nat) (f : Fields) (ex : List Nat) : State :=
  let sh := shapeOf op f.sub.toNat
  s.updGroup k fun g =>
    let g := if sh.a.isSrc then g.pop ex f.a.toNat else g
    if bIsReg f && sh.b.isSrc then g.pop ex f.b.toNat else g

/-- A register instruction that computes D from its operands in each lane. -/
def aluIssue (op : Nat) (f : Fields) (legal : Bool) (res : Rd → Nat → Word) (s : State) : State :=
  issue op f (fun _ _ => legal) false true (fun s k ex run =>
    .done (writeD (popSources s k op f ex) k op f run (res ⟨s.group k, ex, run⟩)) []) s

/-- The same for a pair D. -/
def pairIssue (op : Nat) (f : Fields) (legal : Bool) (res : Rd → Nat → BitVec 64) (s : State) : State :=
  issue op f (fun _ _ => legal) false true (fun s k ex run =>
    .done (writePair (popSources s k op f ex) k op f run (res ⟨s.group k, ex, run⟩)) []) s

end Sys2Proof.Machine
end

