-- ==== Sys2Proof/Machine/Flags.lean ====
section
/-!
DEFINITION. Status bits and predicates. The machine keeps no condition codes: a carry, a comparison or a status is one
bit of an ordinary register (R171, R177, R179, R188, R202).
-/

namespace Sys2Proof.Machine

/-- A word with bit `b` set to a value. -/
def setBit (w : Word) (b : Nat) (x : Bool) : Word :=
  if x then w ||| BitVec.twoPow 32 b else w &&& ~~~(BitVec.twoPow 32 b)

/-- Write a status bit C:E per lane, after D: the other bits keep their values (R177, R202). -/
def writeStatus (s : State) (k : Nat) (f : Fields) (ok : List Nat) (x : Nat → Bool) : State :=
  s.updGroup k fun g => g.setRegs f.c.toNat ok fun l => setBit (g.reg f.c.toNat l) f.e.toNat (x l)

/-- E names a bit (R171, R202). -/
def bitE (f : Fields) : Bool := f.e.toNat < 32

/-- Carry or borrow out of IADDC and ISUBB (R177). -/
def carryOut (sub : Bool) (a b : Word) (k : Bool) : Bool :=
  if sub then a.toNat < b.toNat + k.toNat else 2 ^ 32 ≤ a.toNat + b.toNat + k.toNat

/-- The comparisons of ICMP (R179). -/
def icmp (sub : Nat) (a b : Word) : Bool :=
  match sub with
  | 0 => a == b
  | 1 => a != b
  | 2 => a.toInt < b.toInt
  | 3 => a.toInt ≤ b.toInt
  | 4 => b.toInt < a.toInt
  | 5 => b.toInt ≤ a.toInt
  | 6 => a.toNat < b.toNat
  | 7 => a.toNat ≤ b.toNat
  | 8 => b.toNat < a.toNat
  | _ => b.toNat ≤ a.toNat

/-- An instruction that writes a predicate into bit E of D and keeps D's other bits (R179, R188). -/
def predIssue (op : Nat) (f : Fields) (p : Rd → Nat → Bool) (s : State) : State :=
  aluIssue op f (bitE f) (fun r l => setBit (r.g.reg f.d.toNat l) f.e.toNat (p r l)) s

end Sys2Proof.Machine
end

