-- ==== Sys2Proof/Machine/Numbers.lean ====
section
/-!
DEFINITION. Number formats, rounding and conversion (R112 to R120), and exact accumulation (R121 to R124).
-/

namespace Sys2Proof.Machine

/-- A decoded value: a finite nonzero value is `± m × 2^e` with `m > 0`. -/
inductive Val where
  | nan
  | inf (neg : Bool)
  | zero (neg : Bool)
  | fin (neg : Bool) (m : Nat) (e : Int)
  deriving DecidableEq, Repr

/-- A floating-point format (R112, R113): exponent and fraction widths, bias, and whether it has infinities and NaNs
of the IEEE shape (0), only the E4M3 NaNs (1), or none (2). -/
structure Fmt where
  ebits : Nat
  fbits : Nat
  bias  : Nat
  kind  : Nat
  deriving DecidableEq, Repr

def fp32 : Fmt := ⟨8, 23, 127, 0⟩
def bf16 : Fmt := ⟨8, 7, 127, 0⟩
def fp16 : Fmt := ⟨5, 10, 15, 0⟩
def e4m3 : Fmt := ⟨4, 3, 7, 1⟩
def e5m2 : Fmt := ⟨5, 2, 15, 0⟩
def e2m1 : Fmt := ⟨2, 1, 1, 2⟩

/-- The format of a float code (R72, R112). -/
def fmtOf (fc : Nat) : Fmt :=
  match fc with
  | 0 => fp32 | 1 => bf16 | 2 => fp16 | 3 => e4m3 | 4 => e5m2 | _ => e2m1

def Fmt.width (f : Fmt) : Nat := 1 + f.ebits + f.fbits
def Fmt.p (f : Fmt) : Nat := f.fbits + 1
def Fmt.emin (f : Fmt) : Int := 1 - (f.bias : Int)

/-- The largest finite value as a multiple of a power of two (R112). -/
def Fmt.maxM (f : Fmt) : Nat := if f.kind = 1 then 2 ^ f.p - 2 else 2 ^ f.p - 1
def Fmt.maxE (f : Fmt) : Int :=
  (if f.kind = 0 then 2 ^ f.ebits - 2 else 2 ^ f.ebits - 1 : Nat) - (f.bias : Int) - f.fbits

/-- The value of an encoding (R112, R113). -/
def decodeVal (f : Fmt) (x : Nat) : Val :=
  let fr := x % 2 ^ f.fbits
  let e := x / 2 ^ f.fbits % 2 ^ f.ebits
  let neg := x / 2 ^ (f.ebits + f.fbits) % 2 == 1
  if f.kind = 0 ∧ e = 2 ^ f.ebits - 1 then (if fr = 0 then .inf neg else .nan)
  else if f.kind = 1 ∧ e = 2 ^ f.ebits - 1 ∧ fr = 2 ^ f.fbits - 1 then .nan
  else if e = 0 then (if fr = 0 then .zero neg else .fin neg fr (f.emin - f.fbits))
  else .fin neg (2 ^ f.fbits + fr) ((e : Int) - f.bias - f.fbits)

/-! ### Rounding (R118) -/

/-- The rounding modes (R72). -/
inductive RM where
  | rn | rz | rm | rp | ra
  deriving DecidableEq, Repr

def rmOf (n : Nat) : RM :=
  match n with
  | 0 => .rn | 1 => .rz | 2 => .rm | 3 => .rp | _ => .ra

/-- floor(log2 (num / den)) for positive num and den. -/
def floorLog2 (num den : Nat) : Int :=
  let k : Int := (Nat.log2 num : Int) - Nat.log2 den
  let le := if 0 ≤ k then den * 2 ^ k.toNat ≤ num else den ≤ num * 2 ^ (-k).toNat
  if le then k else k - 1

/-- `num / den × 2^e` as an integer quotient: numerator and denominator of `x / 2^g`. -/
def scaleTo (num den : Nat) (e g : Int) : Nat × Nat :=
  if g ≤ e then (num * 2 ^ (e - g).toNat, den) else (num, den * 2 ^ (g - e).toNat)

/-- The quotient rounded to an integer under a mode, for a value of the given sign (R118, R190). -/
def roundQuot (mode : RM) (neg : Bool) (n d : Nat) : Nat :=
  let q := n / d; let r := n % d
  match mode with
  | .rn => if 2 * r < d then q else if d < 2 * r then q + 1 else if q % 2 = 0 then q else q + 1
  | .ra => if 2 * r < d then q else q + 1
  | .rz => q
  | .rm => if neg ∧ r ≠ 0 then q + 1 else q
  | .rp => if !neg ∧ r ≠ 0 then q + 1 else q

/-- The exponent of Grid at `num / den × 2^e` (R118). -/
def gridExp (p : Nat) (emin : Int) (num den : Nat) (e : Int) : Int := max (floorLog2 num den + e) emin - p + 1

/-- Round `num / den × 2^e` > 0 to a grid of precision p and least exponent emin: the multiple and its exponent. -/
def roundGrid (p : Nat) (emin : Int) (mode : RM) (neg : Bool) (num den : Nat) (e : Int) : Nat × Int :=
  let g := gridExp p emin num den e
  let nd := scaleTo num den e g
  (roundQuot mode neg nd.1 nd.2, g)

/-- `q × 2^g` exceeds `m × 2^e`. -/
def exceeds (q : Nat) (g : Int) (m : Nat) (e : Int) : Bool :=
  if e ≤ g then m < q * 2 ^ (g - e).toNat else m * 2 ^ (e - g).toNat < q

/-- The bits of exponent and fraction for a rounded multiple `q × 2^g` of a grid (R112). -/
def encodeMag (ebias : Nat) (p : Nat) (emin : Int) (q : Nat) (g : Int) : Nat :=
  let q' := if q = 2 ^ p then q / 2 else q
  let g' := if q = 2 ^ p then g + 1 else g
  if q' < 2 ^ (p - 1) then q' * 2 ^ (g' - (emin - p + 1)).toNat
  else (g' + p - 1 + ebias).toNat * 2 ^ (p - 1) + (q' - 2 ^ (p - 1))

/-- The sign bit of a format. -/
def Fmt.sign (f : Fmt) (neg : Bool) : Nat := if neg then 2 ^ (f.ebits + f.fbits) else 0

/-- The infinity of a format, the canonical NaN, and the pattern of the largest finite value (R112, R113). -/
def Fmt.infBits (f : Fmt) : Nat := (2 ^ f.ebits - 1) * 2 ^ f.fbits
def Fmt.nanBits (f : Fmt) : Nat :=
  if f.kind = 2 then 2 ^ (f.ebits + f.fbits) - 1
  else if f.kind = 1 then 2 ^ (f.ebits + f.fbits) - 1
  else f.infBits + 2 ^ (f.fbits - 1)
def Fmt.maxBits (f : Fmt) : Nat :=
  if f.kind = 0 then f.infBits - 1 else if f.kind = 1 then 2 ^ (f.ebits + f.fbits) - 2 else 2 ^ (f.ebits + f.fbits) - 1

/-- What overflow and an infinite source give (R120). Formats narrower than 16 bits saturate unless .ovf is set. -/
def Fmt.overBits (f : Fmt) (neg ovf : Bool) : Nat :=
  if 16 ≤ f.width then f.sign neg + f.infBits
  else if f.kind = 1 then (if ovf then f.nanBits else f.sign neg + f.maxBits)
  else if f.kind = 0 then f.sign neg + (if ovf then f.infBits else f.maxBits)
  else f.sign neg + f.maxBits

/-- The rounding mode of a destination (R119). -/
def Fmt.mode (f : Fmt) : RM := if f.width < 16 then .ra else .rn

/-- A finite nonzero value converted to a format, and whether it overflowed (R120). -/
def convertFin (f : Fmt) (mode : RM) (ovf neg : Bool) (num den : Nat) (e : Int) : Nat × Bool :=
  let qg := roundGrid f.p f.emin mode neg num den e
  if exceeds qg.1 qg.2 f.maxM f.maxE then (f.overBits neg ovf, true)
  else (f.sign neg + encodeMag f.bias f.p f.emin qg.1 qg.2, false)

/-- Convert (R120): the encoding, and whether a finite value overflowed. -/
def convertFull (f : Fmt) (ovf : Bool) (x : Val) : Nat × Bool :=
  match x with
  | .nan => (f.nanBits, false)
  | .inf neg => (f.overBits neg ovf, false)
  | .zero neg => (f.sign neg, false)
  | .fin neg m e => convertFin f f.mode ovf neg m 1 e

def convert (f : Fmt) (ovf : Bool) (x : Val) : Nat := (convertFull f ovf x).1

/-! ### Exact arithmetic (R186) -/

def Val.neg : Val → Val
  | .nan => .nan
  | .inf n => .inf !n
  | .zero n => .zero !n
  | .fin n m e => .fin (!n) m e

def Val.isNeg : Val → Bool
  | .nan => false
  | .inf n | .zero n | .fin n _ _ => n

/-- The exact product, with 0 × inf a NaN. -/
def Val.mul : Val → Val → Val
  | .nan, _ | _, .nan => .nan
  | .inf _, .zero _ | .zero _, .inf _ => .nan
  | .inf a, y => .inf (a.xor y.isNeg)
  | x, .inf b => .inf (x.isNeg.xor b)
  | .zero a, y => .zero (a.xor y.isNeg)
  | x, .zero b => .zero (x.isNeg.xor b)
  | .fin a m e, .fin b n k => .fin (a.xor b) (m * n) (e + k)

/-- A signed mantissa. -/
def signed (neg : Bool) (m : Nat) : Int := if neg then -(m : Int) else m

/-- The exact sum, with inf − inf a NaN and the zero signs of R186. -/
def Val.add : Val → Val → Val
  | .nan, _ | _, .nan => .nan
  | .inf a, .inf b => if a == b then .inf a else .nan
  | .inf a, _ => .inf a
  | _, .inf b => .inf b
  | .zero a, .zero b => .zero (a && b)
  | .zero _, y => y
  | x, .zero _ => x
  | .fin a m e, .fin b n k =>
    let g := min e k
    let t := signed a (m * 2 ^ (e - g).toNat) + signed b (n * 2 ^ (k - g).toNat)
    if t = 0 then .zero false else .fin (t < 0) t.natAbs g

/-- FADD, FMUL and FFMA on patterns of a format, rounded once (R186, R193). -/
def faddBits (f : Fmt) (a b : Nat) : Nat := convert f false ((decodeVal f a).add (decodeVal f b))
def fsubBits (f : Fmt) (a b : Nat) : Nat := convert f false ((decodeVal f a).add (decodeVal f b).neg)
def fmulBits (f : Fmt) (a b : Nat) : Nat := convert f false ((decodeVal f a).mul (decodeVal f b))
def ffmaBits (f : Fmt) (a b c : Nat) : Nat :=
  convert f false (((decodeVal f a).mul (decodeVal f b)).add (decodeVal f c))

/-- Order of two decoded values, −0 and +0 equal: `x < y`, false with a NaN. -/
def Val.lt (x y : Val) : Bool :=
  match x.add y.neg with
  | .fin neg _ _ => neg
  | .inf neg => neg
  | .zero _ => false
  | .nan => match x, y with
    | .inf a, .inf b => a && !b
    | _, _ => false

/-- A value is a NaN. -/
def Val.isNan : Val → Bool
  | .nan => true
  | _ => false

/-- Equality of values (R188). -/
def Val.eq (x y : Val) : Bool := !x.isNan && !y.isNan && !x.lt y && !y.lt x

/-- FMIN and FMAX (R187): one of the operands, bit for bit, −0 below +0. -/
def fminmaxBits (f : Fmt) (isMax nanWins : Bool) (a b : Nat) : Nat :=
  let x := decodeVal f a; let y := decodeVal f b
  if x.isNan && y.isNan || nanWins && (x.isNan || y.isNan) then f.nanBits
  else if x.isNan then b
  else if y.isNan then a
  else
    let less := x.lt y || !y.lt x && x.isNeg && !y.isNeg
    if isMax then (if less then b else a) else if less then a else b

/-- RoundToInt (R190) of a finite value. -/
def roundToInt (mode : RM) (x : Val) : Int :=
  match x with
  | .fin neg m e =>
    let nd := scaleTo m 1 e 0
    signed neg (roundQuot mode neg nd.1 nd.2)
  | _ => 0

/-- The value of an integer; zero takes the given sign. -/
def intVal (i : Int) (zneg : Bool) : Val := if i = 0 then .zero zneg else .fin (i < 0) i.natAbs 0

/-! ### Scales and elements (R114 to R117) -/

/-- The value of an SC24 scale (R115): NaN for SE = 255. -/
def scaleVal (x : Nat) : Val :=
  let se := bits x 23 16; let sf := bits x 15 0
  if se = 255 then .nan
  else if se = 0 then (if sf = 0 then .zero false else .fin false sf (-142))
  else .fin false (2 ^ 16 + sf) ((se : Int) - 143)

/-- The scale 1.0 (R228). -/
def scaleOne : Nat := 0x7F0000

/-- The SC24 encoding of `num / den × 2^e` rounded upward, or the NaN-scale beyond its range (R196). -/
def scaleUp (num den : Nat) (e : Int) : Nat :=
  let qg := roundGrid 17 (-126) .rp false num den e
  if exceeds qg.1 qg.2 (2 ^ 17 - 1) 111 then 0xFF0000 else encodeMag 127 17 (-126) qg.1 qg.2

/-- Bits of an element of a page format (R116). -/
def elemBits (fmt : Nat) : Nat :=
  match fmt with
  | 1 | 8 => 4
  | 2 => 3
  | 3 | 4 => 8
  | 5 | 6 => 16
  | 7 => 32
  | _ => 8

/-- The value of an element pattern of a page format (R112, R114). -/
def elemVal (fmt x : Nat) : Val :=
  match fmt with
  | 1 => intVal (signExt x 4) false
  | 2 => intVal (signExt x 3) false
  | 3 => decodeVal e4m3 x
  | 4 => decodeVal e5m2 x
  | 5 => decodeVal bf16 x
  | 6 => decodeVal fp16 x
  | 7 => decodeVal fp32 x
  | _ => decodeVal e2m1 x

/-- Where element `n` of a page lies (R116): none beyond the page's elements; else its block, the bit within the page
at which it starts, and for inline scales the byte of the block's slot. -/
def elemPlace (fmt blk scl pageBytes n : Nat) : Option (Nat × Nat × Nat) :=
  let b := elemBits fmt
  if scl = 0 then
    (if n < pageBytes * 8 / b then some (0, n * b, 0) else none)
  else
    let per := 32 * 2 ^ blk
    let data := per * b / 8
    let stride := if scl = 1 then data + 4 else data
    let k := n / per
    if k < pageBytes / stride then some (k, 8 * (k * stride) + n % per * b, k * stride + data) else none

/-! ### The exact accumulator (R121 to R124) -/

/-- A term: an exact real `± m × 2^e` (or zero), or NONFINITE. -/
def termOf (x : Val) : Option (Int × Int) :=
  match x with
  | .fin neg m e => some (signed neg m, e)
  | .zero _ => some (0, 0)
  | _ => none

/-- ExactProduct (R122): decoded elements and their scales; none is NONFINITE. -/
def exactProduct (a b sa sb : Val) : Option (Int × Int) :=
  match termOf a, termOf b, termOf sa, termOf sb with
  | some x, some y, some u, some v => some (x.1 * y.1 * u.1 * v.1, x.2 + y.2 + u.2 + v.2)
  | _, _, _, _ => none

end Sys2Proof.Machine
end

