-- ==== Sys2Proof/Machine/CrossLane.lean ====
section
/-!
DEFINITION. Cross-lane instructions (R202 to R211).
-/

namespace Sys2Proof.Machine

/-! ### The lanes an instruction sees (R203) -/

/-- Tile(l), ascending. -/
def Group.tileLanes (g : Group) (l : Nat) : List Nat := (List.range g.tsize).map fun i => g.tbase l + i

/-- The member mask of a lane. -/
def Rd.mask (r : Rd) (op : Nat) (f : Fields) (l : Nat) : Word := r.b op f l

/-- Named(l). -/
def Rd.named (r : Rd) (op : Nat) (f : Fields) (l : Nat) : List Nat :=
  (r.g.tileLanes l).filter fun j => laneBit (r.mask op f l) j

/-- Part(l). -/
def Rd.part (r : Rd) (op : Nat) (f : Fields) (l : Nat) : List Nat :=
  (r.named op f l).filter fun j => r.ex.contains j

/-- Status(l). -/
def Rd.status (r : Rd) (op : Nat) (f : Fields) (l : Nat) : Bool :=
  (r.named op f l).any fun j => !r.ex.contains j

/-! ### Operators (R204) -/

/-- A reduction operator on words. -/
def roApply (ro : Nat) (a b : Word) : Word :=
  match ro with
  | 0 => a + b
  | 1 => if a.toInt ≤ b.toInt then a else b
  | 2 => if a.toInt ≤ b.toInt then b else a
  | 3 => if a.toNat ≤ b.toNat then a else b
  | 4 => if a.toNat ≤ b.toNat then b else a
  | 5 => a &&& b
  | 6 => a ||| b
  | 7 => a ^^^ b
  | 8 => BitVec.ofNat 32 (fminmaxBits fp32 false false a.toNat b.toNat)
  | 9 => BitVec.ofNat 32 (fminmaxBits fp32 true false a.toNat b.toNat)
  | _ => BitVec.ofNat 32 (faddBits fp32 a.toNat b.toNat)

/-- The identity of an operator. -/
def roIdentity (ro : Nat) : Word :=
  match ro with
  | 0 | 4 | 6 | 7 => 0#32
  | 1 => 0x7FFFFFFF#32
  | 2 => 0x80000000#32
  | 3 | 5 => 0xFFFFFFFF#32
  | 8 => 0x7F800000#32
  | 9 => 0xFF800000#32
  | _ => 0x80000000#32

/-- One level of PairTree: neighbours combine. -/
def pairLevel (op : Word → Word → Word) : List Word → List Word
  | a :: b :: xs => op a b :: pairLevel op xs
  | xs => xs

/-- PairTree over 2^n elements. -/
def pairTree (op : Word → Word → Word) : Nat → List Word → Word
  | 0, xs => xs.headD 0#32
  | n + 1, xs => pairTree op n (pairLevel op xs)

/-! ### The shape of the family -/

/-- A cross-lane instruction that writes D and the status bit C:E. -/
def laneIssue (op : Nat) (f : Fields) (res : Rd → Nat → Word) (st : Rd → Nat → Bool) (s : State) : State :=
  issue op f (fun _ _ => bitE f) false true (fun s k ex run =>
    let r : Rd := ⟨s.group k, ex, run⟩
    .done (writeStatus (writeD s k op f run (res r)) k f run (st r)) []) s

/-! ### The instructions -/

/-- The predicate of a lane: A is not zero. -/
def Rd.pred (r : Rd) (f : Fields) (j : Nat) : Bool := r.g.reg f.a.toNat j != 0#32

/-- VOTE's result (R205). -/
def voteRes (f : Fields) (r : Rd) (l : Nat) : Word :=
  let p := r.part 0x60 f l
  let t := p.filter (r.pred f)
  match f.sub.toNat with
  | 0 => if t.length = p.length then 1#32 else 0#32
  | 1 => if t.isEmpty then 0#32 else 1#32
  | 2 => if t.isEmpty ∨ t.length = p.length then 1#32 else 0#32
  | 3 => maskOf t
  | _ => BitVec.ofNat 32 t.length

def execVote (f : Fields) (s : State) : Out :=
  .next (laneIssue 0x60 f (voteRes f) (fun r l => r.status 0x60 f l) s)

/-- SHFL's result. -/
def shflRes (f : Fields) (r : Rd) (l : Nat) : Word :=
  match r.source f l with
  | none => r.g.reg f.a.toNat l
  | some j => if r.g.alive j then r.g.reg f.a.toNat j else 0#32

/-- SHFL's status. -/
def shflStatus (f : Fields) (r : Rd) (l : Nat) : Bool :=
  match r.source f l with
  | none => true
  | some j => !r.ex.contains j

/-- SHFL (R203, R206). -/
def execShfl (f : Fields) (s : State) : Out := .next (laneIssue 0x61 f (shflRes f) (shflStatus f) s)

/-- The participating lanes that share a lane's key. -/
def Rd.peers (r : Rd) (op : Nat) (f : Fields) (l : Nat) : List Nat :=
  (r.part op f l).filter fun j => r.g.reg f.a.toNat j == r.g.reg f.a.toNat l

/-- MRED (R207): the reduction over the lane's class, and the class mask. -/
def mredRes (f : Fields) (r : Rd) (l : Nat) : BitVec 64 :=
  let k := r.peers 0x62 f l
  pair64 (k.foldl (fun x j => roApply f.sub.toNat x (r.g.reg (f.a.toNat + 1) j)) (roIdentity f.sub.toNat)) (maskOf k)

def execMred (f : Fields) (s : State) : Out :=
  .next (issue 0x62 f (fun _ _ => bitE f) false true (fun s k ex run =>
    let r : Rd := ⟨s.group k, ex, run⟩
    .done (writeStatus (writePair s k 0x62 f run (mredRes f r)) k f run fun l => r.status 0x62 f l) []) s)

/-- MATCH (R208). -/
def matchRes (f : Fields) (r : Rd) (l : Nat) : Word :=
  let p := r.part 0x63 f l
  let k := r.peers 0x63 f l
  match f.sub.toNat with
  | 0 => maskOf k
  | 1 => if k.length = p.length then maskOf p else 0#32
  | _ => BitVec.ofNat 32 (k.headD 32)

def execMatchLanes (f : Fields) (s : State) : Out :=
  .next (laneIssue 0x63 f (matchRes f) (fun r l => r.status 0x63 f l) s)

/-- The elements that a tree reduction takes: the participants that `p` admits by position, the identity elsewhere. -/
def treeOf (op ro : Nat) (f : Fields) (r : Rd) (l : Nat) (p : Nat → Bool) : Word :=
  let part := r.part op f l
  pairTree (roApply ro) (min r.g.ctl.part.toNat 5)
    ((List.range r.g.tsize).map fun i =>
      let j := r.g.tbase l + i
      if part.contains j && p i then r.g.reg f.a.toNat j else roIdentity ro)

/-- SCAN (R209): bit 4 of SUB is .excl. -/
def scanRes (f : Fields) (r : Rd) (l : Nat) : Word :=
  let o := l - r.g.tbase l
  treeOf 0x64 (bits f.sub.toNat 3 0) f r l fun i => if f.sub.getLsbD 4 then i < o else i ≤ o

def execScan (f : Fields) (s : State) : Out :=
  .next (laneIssue 0x64 f (scanRes f) (fun r l => r.status 0x64 f l) s)

/-- TRED (R210). -/
def tredRes (f : Fields) (r : Rd) (l : Nat) : Word := treeOf 0x65 f.sub.toNat f r l fun _ => true

def execTred (f : Fields) (s : State) : Out :=
  .next (laneIssue 0x65 f (tredRes f) (fun r l => r.status 0x65 f l) s)

/-- PART (R211). -/
def execPart (f : Fields) (s : State) : Out :=
  .next (issue 0x66 f (fun _ _ => true) false true (fun s k _ run =>
    let g := s.group k
    let g := { g with ctl := { g.ctl with part := f.sub.setWidth 32 } }
    .done (s.setGroup k (g.setRegs f.d.toNat run fun l => maskOf (g.tileLanes l))) []) s)

end Sys2Proof.Machine
end

