-- ==== Sys2Proof/Machine/Integer.lean ====
section
/-!
DEFINITION. Integer, logic and address instructions (R171 to R183).
-/

namespace Sys2Proof.Machine

/-! ### Results -/

/-- The results of R173. -/
def iaddRes (sub : Nat) (a b : Word) : Word :=
  if sub = 1 then word (sat (a.toInt + b.toInt) (-2 ^ 31) (2 ^ 31 - 1)) else a + b
def isubRes (sub : Nat) (a b : Word) : Word :=
  if sub = 1 then word (sat (a.toInt - b.toInt) (-2 ^ 31) (2 ^ 31 - 1)) else a - b
def imulhRes (sub : Nat) (a b : Word) : Word :=
  if sub = 1 then word ((a.toNat * b.toNat / 2 ^ 32 : Nat)) else word ((a.toInt * b.toInt) / 2 ^ 32)
def iminRes (sub : Nat) (a b : Word) : Word :=
  if sub = 1 then (if a.toNat ≤ b.toNat then a else b) else if a.toInt ≤ b.toInt then a else b
def imaxRes (sub : Nat) (a b : Word) : Word :=
  if sub = 1 then (if a.toNat ≤ b.toNat then b else a) else if a.toInt ≤ b.toInt then b else a

/-- Shifts and rotates (R176): the count is all 32 bits of B. -/
def shlRes (a b : Word) : Word := if b.toNat < 32 then a <<< b.toNat else 0#32
def shrRes (a b : Word) : Word := if b.toNat < 32 then a >>> b.toNat else 0#32
def sarRes (a b : Word) : Word := if b.toNat < 32 then a.sshiftRight b.toNat else if a.msb then BitVec.allOnes 32 else 0#32
def rotRes (a b : Word) : Word := a.rotateLeft (b.toNat % 32)

/-- R174. -/
def iabsRes (a : Word) : Word := word a.toInt.natAbs
def popcRes (a : Word) : Word := BitVec.ofNat 32 ((List.range 32).filter fun i => a.getLsbD i).length
def clzRes (a : Word) : Word := BitVec.ofNat 32 ((List.range 32).takeWhile fun i => !a.getLsbD (31 - i)).length
def brevRes (a : Word) : Word := maskOf ((List.range 32).filter fun i => a.getLsbD (31 - i))

/-- Bits of a field that lie inside the word (R181). -/
def fieldLen (b : Word) : Nat :=
  let p := bits b.toNat 7 0; let n := bits b.toNat 15 8
  if 32 ≤ p then 0 else min n (32 - p)

/-- BFE and BFI (R181). -/
def bfeRes (sub : Nat) (a b : Word) : Word :=
  let p := bits b.toNat 7 0; let k := fieldLen b
  let x := a.toNat / 2 ^ p % 2 ^ k
  if k = 0 then 0#32 else if sub = 1 then word (signExt x k) else BitVec.ofNat 32 x
def bfiRes (a b c : Word) : Word :=
  let p := bits b.toNat 7 0
  let m := BitVec.ofNat 32 ((2 ^ fieldLen b - 1) * 2 ^ p)
  (c &&& ~~~m) ||| ((a <<< p) &&& m)

/-- BYTX (R182). -/
def bytxByte (sub : Nat) (src : BitVec 64) (sel : Nat) : Byte :=
  let y : Byte := src.extractLsb' (8 * (sel % 8)) 8
  if sel < 8 then y else if sub = 1 ∧ y.msb then 0xFF#8 else 0#8
def bytxRes (sub : Nat) (a b c : Word) : Word :=
  let src := pair64 a c
  let r := fun i => bytxByte sub src (bits b.toNat (4 * i + 3) (4 * i))
  (r 3 ++ r 2 ++ r 1 ++ r 0 : BitVec 32).rotateLeft (8 * bits b.toNat 17 16)

/-! ### Meanings -/

/-- A two-source instruction with its SUB (R173, R176). -/
def alu2 (op : Nat) (f : Fields) (res : Word → Word → Word) (s : State) : Out :=
  .next (aluIssue op f true (fun r l => res (r.a f l) (r.b op f l)) s)

/-- A one-source instruction (R174). -/
def alu1 (op : Nat) (f : Fields) (res : Word → Word) (s : State) : Out :=
  .next (aluIssue op f true (fun r l => res (r.a f l)) s)

def execIadd (f : Fields) (s : State) : Out := alu2 0x20 f (iaddRes f.sub.toNat) s
def execIaddImm (f : Fields) (s : State) : Out := alu2 0xC0 f (iaddRes 0) s
def execIsub (f : Fields) (s : State) : Out := alu2 0x21 f (isubRes f.sub.toNat) s
def execIsubImm (f : Fields) (s : State) : Out := alu2 0xC1 f (isubRes 0) s
def execImul (f : Fields) (s : State) : Out := alu2 0x24 f (fun a b => a * b) s
def execImulImm (f : Fields) (s : State) : Out := alu2 0xC4 f (fun a b => a * b) s
def execImulh (f : Fields) (s : State) : Out := alu2 0x25 f (imulhRes f.sub.toNat) s
def execImulhImm (f : Fields) (s : State) : Out := alu2 0xC5 f (imulhRes 0) s
def execImin (f : Fields) (s : State) : Out := alu2 0x28 f (iminRes f.sub.toNat) s
def execIminImm (f : Fields) (s : State) : Out := alu2 0xC8 f (iminRes 0) s
def execImax (f : Fields) (s : State) : Out := alu2 0x29 f (imaxRes f.sub.toNat) s
def execImaxImm (f : Fields) (s : State) : Out := alu2 0xC9 f (imaxRes 0) s
def execAnd (f : Fields) (s : State) : Out := alu2 0x30 f (fun a b => a &&& b) s
def execAndImm (f : Fields) (s : State) : Out := alu2 0xD0 f (fun a b => a &&& b) s
def execOr (f : Fields) (s : State) : Out := alu2 0x31 f (fun a b => a ||| b) s
def execOrImm (f : Fields) (s : State) : Out := alu2 0xD1 f (fun a b => a ||| b) s
def execXor (f : Fields) (s : State) : Out := alu2 0x32 f (fun a b => a ^^^ b) s
def execXorImm (f : Fields) (s : State) : Out := alu2 0xD2 f (fun a b => a ^^^ b) s
def execAndn (f : Fields) (s : State) : Out := alu2 0x33 f (fun a b => a &&& ~~~b) s
def execAndnImm (f : Fields) (s : State) : Out := alu2 0xD3 f (fun a b => a &&& ~~~b) s
def execShl (f : Fields) (s : State) : Out := alu2 0x34 f shlRes s
def execShlImm (f : Fields) (s : State) : Out := alu2 0xD4 f shlRes s
def execShr (f : Fields) (s : State) : Out := alu2 0x35 f shrRes s
def execShrImm (f : Fields) (s : State) : Out := alu2 0xD5 f shrRes s
def execSar (f : Fields) (s : State) : Out := alu2 0x36 f sarRes s
def execSarImm (f : Fields) (s : State) : Out := alu2 0xD6 f sarRes s
def execRot (f : Fields) (s : State) : Out := alu2 0x37 f rotRes s
def execRotImm (f : Fields) (s : State) : Out := alu2 0xD7 f rotRes s
def execIabs (f : Fields) (s : State) : Out := alu1 0x2A f iabsRes s
def execMov (f : Fields) (s : State) : Out := alu1 0x2E f (fun a => a) s
def execPopc (f : Fields) (s : State) : Out := alu1 0x3A f popcRes s
def execClz (f : Fields) (s : State) : Out := alu1 0x3B f clzRes s
def execBrev (f : Fields) (s : State) : Out := alu1 0x3C f brevRes s

/-- MOVI (R175): the sign-extended immediate or the literal. -/
def execMovi (f : Fields) (s : State) : Out := .next (aluIssue 0x2F f true (fun r l => r.b 0x2F f l) s)

/-- An instruction of the carry chain (R177): D, then bit C:E. Of a queue-fed one whose D is not C the bit is written at issue
and C stays full, while D is still pending (DESIGN CHOICE, log entry 92: R171 leaves D empty and does not say when C:E is
written). -/
def carryIssue (op : Nat) (sub : Bool) (f : Fields) (s : State) : State :=
  issue op f (fun _ _ => bitE f) false true (fun s k ex run =>
    let r : Rd := ⟨s.group k, ex, run⟩
    let cin := fun l => (r.c f l).getLsbD f.e.toNat
    let res := fun l =>
      if sub then r.a f l - r.b op f l - BitVec.ofNat 32 (cin l).toNat
      else r.a f l + r.b op f l + BitVec.ofNat 32 (cin l).toNat
    let out := fun l => carryOut sub (r.a f l) (r.b op f l) (cin l)
    let s := popSources s k op f ex
    -- of a queue-fed move whose D is C, the result written later holds the bit (R177)
    if queueFed op f && f.d == f.c then .done (writeD s k op f run fun l => setBit (res l) f.e.toNat (out l)) []
    else .done (writeStatus (writeD s k op f run res) k f run out) []) s

def execIaddc (f : Fields) (s : State) : Out := .next (carryIssue 0x22 false f s)
def execIsubb (f : Fields) (s : State) : Out := .next (carryIssue 0x23 true f s)

/-- IMAD and IMADW (R178). -/
def execImad (f : Fields) (s : State) : Out :=
  .next (aluIssue 0x26 f true (fun r l => r.a f l * r.b 0x26 f l + r.c f l) s)
def imadwRes (sub : Nat) (a b : Word) (c : BitVec 64) : BitVec 64 :=
  if sub = 1 then a.setWidth 64 * b.setWidth 64 + c else a.signExtend 64 * b.signExtend 64 + c
def execImadw (f : Fields) (s : State) : Out :=
  .next (pairIssue 0x27 f true
    (fun r l => imadwRes f.sub.toNat (r.a f l) (r.b 0x27 f l) (r.g.pair f.c.toNat l)) s)

/-- ICMP (R179) and SEL (R180). -/
def execIcmp (f : Fields) (s : State) : Out :=
  .next (predIssue 0x2B f (fun r l => icmp f.sub.toNat (r.a f l) (r.b 0x2B f l)) s)
def execSel (f : Fields) (s : State) : Out :=
  .next (aluIssue 0x2C f (bitE f)
    (fun r l => if (r.c f l).getLsbD f.e.toNat then r.a f l else r.b 0x2C f l) s)

def execBfe (f : Fields) (s : State) : Out := alu2 0x38 f (bfeRes f.sub.toNat) s
def execBfi (f : Fields) (s : State) : Out :=
  .next (aluIssue 0x39 f true (fun r l => bfiRes (r.a f l) (r.b 0x39 f l) (r.c f l)) s)
def execBytx (f : Fields) (s : State) : Out :=
  .next (aluIssue 0x3D f true (fun r l => bytxRes f.sub.toNat (r.a f l) (r.b 0x3D f l) (r.c f l)) s)

/-- LEA (R183): the index is the sign-extended register, or the whole literal. -/
def leaRes (f : Fields) (a : BitVec 64) (b : Word) : BitVec 64 :=
  a + ((if f.form = .xL then f.lit else b.signExtend 64) <<< f.e.toNat)
def execLea (f : Fields) (s : State) : Out :=
  .next (pairIssue 0x2D f (f.e.toNat < 8) (fun r l => leaRes f (r.g.pair f.a.toNat l) (r.b 0x2D f l)) s)

end Sys2Proof.Machine
end

