-- ==== Sys2Proof/Machine/Counters.lean ====
section
/-!
DEFINITION. Keyed-queue figures (R267, R270, R272), the partitions' and queues' figures that the scheduler uses
(R305, R319), and the policy counters and decision registers that a routine reads (R308).
-/

namespace Sys2Proof.Machine

/-! ### Figures of a keyed queue -/

def State.kq (s : State) (q : Nat) : KQueue := mget {} s.kqs q

/-- A record may be taken (R267). -/
def KQueue.takeable (x : KQueue) (r : KqRec) : Bool := r.sealed || x.rdy == 0 || r.pay == 0#64

/-- The record that a take selects (R270): the lowest bucket, then the lowest age. -/
def KQueue.select (x : KQueue) : Option KqRec :=
  (x.recs.filter x.takeable).foldl (fun (m : Option KqRec) r => match m with
    | none => some r
    | some y => if r.bucket < y.bucket || r.bucket == y.bucket && r.order < y.order then some r else some y) none

/-- Held and takeable records and the lowest bucket. -/
def KQueue.stat (x : KQueue) : Nat × Nat × Word :=
  (x.recs.length, (x.recs.filter x.takeable).length, match x.select with
    | some r => BitVec.ofNat 32 r.bucket
    | none => 0xFFFFFFFF#32)

/-- The tile-task binding of a queue is enabled (R304). -/
def KQueue.bound (x : KQueue) : Bool := x.binding.getLsbD 0

/-- The virtual queue that a tile-task binding names (R304). -/
def KQueue.tqid (x : KQueue) : Nat := efld x.binding 49 36

/-- A keyed queue serves as a tile-task queue (R304). -/
def KQueue.taskQueue (x : KQueue) : Bool := x.en && x.sys && x.bound

/-- The tenant of a tile-task queue (R304, R321). -/
def State.taskTenant (s : State) (q : Nat) : Option Nat :=
  if (s.kq q).taskQueue then (mfind (s.kq q).tqid s.queues).map fun v => v.req.tenant else none

/-! ### Figures of a partition -/

/-- The entry of a partition, named core × 8 + p (R305). -/
def State.part (s : State) (p : Nat) : BitVec 128 := mget 0 s.partitions p

def partEn (w : BitVec 128) : Bool := w.getLsbD 0
def partTen (w : BitVec 128) : Nat := efld w 103 96

/-- A team holds its group slots: it is placed and not saved. -/
def Team.held (t : Team) : Bool := t.st == .running || t.st == .halted || t.st == .placing

/-- The teams of a partition that hold their slots. -/
def State.heldIn (s : State) (p : Nat) : List Team :=
  (s.teams.filter fun t => t.2.core * 8 + t.2.part == p && t.2.held).map Prod.snd

/-- The groups of a team that have not ended. -/
def State.liveGroups (s : State) (ctx : Nat) : Nat := (s.groupsOf ctx).length

/-- Group slots held in a partition. -/
def State.slotsHeld (s : State) (p : Nat) : Nat :=
  ((s.teams.filter fun t => t.2.core * 8 + t.2.part == p && t.2.held).map fun t => s.liveGroups t.1).sum

/-- Something that each live group of a partition's teams holds, in all. -/
def State.heldSum (s : State) (p : Nat) (f : Nat → Nat) : Nat :=
  ((s.teams.filter fun t => t.2.core * 8 + t.2.part == p && t.2.held).map fun t => ((s.groupsOf t.1).map f).sum).sum

/-- Pages of a core that a gang holds whose team 0 has ended (R281). -/
def State.gangPages (s : State) (core : Nat) : List Nat :=
  s.gangs.flatMap fun x => (x.2.pages.filter fun p => p.core == core).map Pin.pos

/-- A unit is spared out (R337): kind 0 core is 1 in SPARED; 2 row set (core × 16 + lane set). -/
def State.sparedUnit (s : State) (kind unit : Nat) : Bool := mget false s.dev.spared (kind * 65536 + unit)

/-- Rows that a lane set of a core offers: 384, less those that have been spared out (R23, R337). -/
def State.laneRows (s : State) (core ls : Nat) : Nat := 384 - mget 0 s.dev.rowsOut (core * 16 + ls)

/-- Rows that a group takes: one for each register, less what packing saves (R23, R305). -/
def State.groupRows (s : State) (k : Nat) : Nat := (s.teamOf k).regs - (s.group k).packed.length

/-- Rows and tile units that a group holds on its core, without those that its frame holds (R315). -/
def State.rowsHeld (s : State) (k : Nat) : Nat :=
  let g := s.group k
  (s.teamOf k).regs - g.spiltRows.length - (g.packed.filter fun p => !g.spiltRows.contains p.1).length
def State.tilesHeld (s : State) (k : Nat) : Nat := (s.teamOf k).tiles - (s.group k).spiltTiles.length

/-- Rows of a partition's lane sets. -/
def State.partRows (s : State) (p : Nat) : Nat :=
  ((List.range (efld (s.part p) 51 47)).map fun i => s.laneRows (p / 8) (efld (s.part p) 55 52 + i)).sum

/-- The tenant that runs on a partition: of its latest TICK, else its TEN (R306, R308). -/
def State.runningTenant (s : State) (p : Nat) : Nat := mget (partTen (s.part p)) s.runTen p

/-- Free units of a partition: group slots, rows, tile units and scratchpad pages. -/
def State.freeSlots (s : State) (p : Nat) : Nat := 4 * efld (s.part p) 51 47 - s.slotsHeld p
def State.freeRows (s : State) (p : Nat) : Nat := s.partRows p - s.heldSum p s.rowsHeld
def State.freeTiles (s : State) (p : Nat) : Nat := efld (s.part p) 71 64 - s.heldSum p s.tilesHeld
def State.freePages (s : State) (p : Nat) : Nat :=
  efld (s.part p) 87 80 - ((s.heldIn p).map fun t => t.pages.length - t.spilt.length).sum -
    ((s.gangPages (p / 8)).filter fun x => efld (s.part p) 95 88 ≤ x && x < efld (s.part p) 95 88 + efld (s.part p) 87 80).length

/-! ### Figures of a virtual queue -/

/-- The device time at which the TAIL that published a record was accepted. -/
def VQueue.acceptedAt (q : VQueue) (idx : Word) : Option Nat :=
  (q.accepts.find? fun p => (p.1 - idx - 1).toNat < q.req.count && idx != p.1).map Prod.snd

/-- Age in ns of the oldest unstarted record (R308). -/
def State.queueAge (s : State) (qid : Nat) (q : VQueue) : Option Nat :=
  (s.oldestUnstarted qid q).bind fun i => (q.acceptedAt i).map fun t => s.dev.time - t

/-! ### Policy counters (R308) -/

/-- How many structures of each kind of R308's SOFT row the device has (R2; log entry 24): L1s, scratchpads, register files,
tile storages, quarter units of accumulators, slices, registries, pockets, bank groups, modules and ports. -/
def structures (kind : Nat) : Nat := [256, 256, 4096, 256, 1024, 384, 384, 4, 512, 192, 16].getD kind 0

/-- A count as a routine reads it: saturated. -/
def satWord (n : Nat) : Word := BitVec.ofNat 32 (min n (2 ^ 32 - 1))

/-- An hour of device time in ns. -/
def hourNs : Nat := 3600000000000

/-- Index of the SOFT counts of an hour. -/
def softKey (hour : Nat) : Nat := 0x79 + 128 * hour

/-- A counter of an instance, for an engine's cluster and routine (R308): none where the index is reserved or the
instance lies outside its class. Stall counters hold timing only: free values (log entry 18). -/
def State.counter (s : State) (cluster : Nat) (r : PRun) (i inst : Nat) : Option Word :=
  let queue := fun (f : VQueue → Word) => (mfind inst s.queues).map f
  let tenant := fun (w : Word) => if inst < 16 then some w else none
  let part := fun (w : Word) => if inst < 2048 then some w else none
  let kq := fun (w : Word) => if inst < 2048 then some w else none
  let one := fun (w : Word) => if inst = 0 then some w else none
  match i with
  | 0x48 => queue fun q => q.tail - q.ridx
  | 0x49 => queue fun q => match q.resident with
    | some (d, sl) => BitVec.ofNat 32 (2 ^ 31 + d * 256 + sl)
    | none => 0#32
  | 0x4A => queue fun q => match s.queueAge inst q with
    | some n => satWord (n / 1000)
    | none => Config.freeCounter s.tick i
  | 0x4B => queue fun _ => satWord (s.teams.filter fun t => t.2.qid == inst && (t.2.st == .running || t.2.st == .parked || t.2.park)).length
  | 0x4C => queue fun q => BitVec.ofNat 32 q.req.tenant
  | 0x50 => tenant (satWord (s.pcntOf i cluster inst))
  | 0x54 | 0x55 => tenant (satWord (s.pcntOf i 0 inst))
  | 0x51 => tenant (satWord ((s.teams.filter fun t => t.2.tenant == inst && t.2.held && clusterOf t.2.core == cluster).map
      fun t => s.liveGroups t.1).sum)
  | 0x52 => tenant (satWord (s.pcntOf i cluster inst / 1000))
  | 0x53 => tenant (satWord (s.pcntOf i 0 inst / 1024))
  | 0x58 | 0x59 | 0x5A | 0x5B | 0x5C | 0x5D | 0x5E | 0x5F => part (Config.freeCounter s.tick (2048 * i + inst))
  | 0x60 => part (satWord (s.freeSlots inst))
  | 0x61 => part (satWord (s.freeRows inst))
  | 0x62 => part (satWord (s.freeTiles inst))
  | 0x63 => part (satWord (s.freePages inst))
  | 0x64 => part (BitVec.ofNat 32 (s.runningTenant inst))
  | 0x68 => kq (satWord (s.kq inst).stat.1)
  | 0x69 => kq (satWord (s.kq inst).stat.2.1)
  | 0x6A => kq (s.kq inst).stat.2.2
  | 0x70 => one (BitVec.ofNat 32 r.req.point)
  | 0x71 => one (BitVec.ofNat 32 (if r.req.kind = 4 then r.req.key.toNat else r.req.inst))
  | 0x72 => one (BitVec.ofNat 32 (s.dev.time / 1000))
  | 0x73 => one (satWord (s.pcntOf i cluster 0))
  | 0x74 | 0x75 | 0x76 | 0x78 => one (satWord (s.pcntOf i 0 0))
  | 0x77 => one (BitVec.ofNat 32 r.req.kind)
  | 0x79 => if inst % 4096 < structures (inst / 4096) then some (satWord (s.pcntOf (softKey (s.dev.time / hourNs)) 0 inst)) else none
  | _ => none

/-- The instance that MOVC of a counter reads in a decision (R308). -/
def PRun.instanceOf (r : PRun) (i : Nat) : Option Nat :=
  if 0x48 ≤ i ∧ i ≤ 0x4C then (if r.req.kind = 0 then some r.req.inst else none)
  else if 0x50 ≤ i ∧ i ≤ 0x55 then (if r.tenant < 16 then some r.tenant else none)
  else if 0x58 ≤ i ∧ i ≤ 0x64 then (if r.req.kind = 2 then some r.req.inst else none)
  else if 0x68 ≤ i ∧ i ≤ 0x6A then (if r.req.kind = 1 ∨ r.req.kind = 4 then some r.req.inst else none)
  else if i = 0x79 then none
  else some 0

/-- What MOVC of indices 0x40 to 0x7F reads in a routine; none where it traps. -/
def State.ownCounter (s : State) (k i : Nat) : Option Word :=
  let c := clusterOfEngine k
  (mget {} s.engines c).run.bind fun r =>
    if 0x40 ≤ i ∧ i ≤ 0x47 then some (mget 0 r.dec (i - 0x40))
    else (r.instanceOf i).bind fun n => s.counter c r i n

end Sys2Proof.Machine
end

