-- ==== Sys2Proof/Machine/Control.lean ====
section
/-!
DEFINITION. Control, group and trap instructions (R152 to R166), and the events that complete a barrier, a timed wait
and a group (R19, R157 to R159).
-/

namespace Sys2Proof.Machine

/-! ### Branches (R152, R153, R154) -/

/-- A displaced PC. -/
def pcPlus (pc : BitVec 64) (d : Int) : BitVec 64 := BitVec.ofInt 64 (pc.toNat + d)

/-- The target of BRA and CALL. -/
def bjTarget (f : Fields) (pc : BitVec 64) : BitVec 64 :=
  if f.form = .bjL then f.lit else pcPlus pc (4 * signExt f.off.toNat 15)

/-- The displacement of BRC: OFF21 in word 0 bits 30:10. -/
def off21 (f : Fields) : Int := signExt (f.b.toNat * 16384 + f.a.toNat * 128 + f.d.toNat) 21

/-- A link register: even, from 2 to 118, below the demand. -/
def linkOk (t : Team) (d : Nat) : Bool := 2 ≤ d && d % 2 == 0 && d + 2 ≤ t.regs

/-- Addr of a register pair (R11): none where bits 63:57 are set. -/
def pairAddr (x : BitVec 64) : Option Nat := if x.toNat < 2 ^ 57 then some x.toNat else none

/-- Write the return address into a link pair. -/
def Group.link (g : Group) (d : Nat) (ls : List Nat) (len : Nat) : Group :=
  g.setPairs d ls fun l => g.pcOf l + BitVec.ofNat 64 len

def execNop (f : Fields) (s : State) : Out :=
  .next (issue 0x00 f (fun _ _ => true) false true (fun s _ _ _ => .done s []) s)

def execBra (f : Fields) (s : State) : Out :=
  .next (issue 0x01 f (fun _ _ => true) false false (fun s k _ run =>
    .done (s.updGroup k fun g => g.setPcs run fun l => bjTarget f (g.pcOf l)) []) s)

def execBrc (f : Fields) (s : State) : Out :=
  .next (issue 0x02 f (fun _ _ => true) false false (fun s k _ run =>
    .done (s.updGroup k fun g => g.setPcs run fun l =>
      if passes g f l then pcPlus (g.pcOf l) (4 * off21 f) else g.pcOf l + 12#64) []) s)

/-- BRX and RET: each lane goes to the address in its pair A; a lane whose address has bits 63:57 set raises. -/
def jumpPair (op : Nat) (f : Fields) (link : Bool) (legal : Team → Group → Bool) (s : State) : State :=
  issue op f legal false false (fun s k _ run =>
    let g := s.group k
    let t := fun l => pairAddr (g.pair f.a.toNat l)
    let ok := run.filter fun l => (t l).isSome
    let g' := if link then g.link f.d.toNat ok (formLen f.form) else g
    .done (s.setGroup k (g'.setPcs ok fun l => BitVec.ofNat 64 ((t l).getD 0)))
      ((run.filter fun l => (t l).isNone).map fun l => ⟨l, .illegalOpnd, none⟩)) s

def execBrx (f : Fields) (s : State) : Out :=
  .next (jumpPair 0x03 f (f.d != 0#7) (fun t _ => f.d == 0#7 || linkOk t f.d.toNat) s)

def execRet (f : Fields) (s : State) : Out := .next (jumpPair 0x05 f false (fun _ _ => true) s)

def execCall (f : Fields) (s : State) : Out :=
  .next (issue 0x04 f (fun t _ => linkOk t f.d.toNat) false false (fun s k _ run =>
    .done (s.updGroup k fun g =>
      (g.link f.d.toNat run (formLen f.form)).setPcs run fun l => bjTarget f (g.pcOf l)) []) s)

/-- CNT and BOFF of LOOPB (R153). -/
def loopCnt (f : Fields) : Nat := f.b.toNat * 128 + f.a.toNat
def loopOff (f : Fields) : Nat := f.e.toNat * 128 + f.c.toNat

def execLoopb (f : Fields) (s : State) : Out :=
  .next (issue 0x0E f (fun t _ => loopCnt f ≤ 4095 && loopOff f != 0 && f.d.toNat < t.regs) false false
    (fun s k _ run =>
      .done (s.updGroup k fun g =>
        let again := fun l => (g.reg f.d.toNat l).toNat + 1 < loopCnt f + 1
        (g.setRegs f.d.toNat run fun l => if again l then g.reg f.d.toNat l + 1#32 else 0#32).setPcs run fun l =>
          if again l then pcPlus (g.pcOf l) (-4 * (loopOff f : Int)) else g.pcOf l + 12#64) []) s)

/-! ### EXIT and YIELD (R154) -/

/-- Lanes exit: their PCs become all ones, their park bits clear, and they leave HMASK (R18, R154, R166). -/
def Group.exit (g : Group) (ls : List Nat) : Group :=
  let m := g.hmask &&& ~~~(maskOf ls)
  { (g.setPcs ls fun _ => exitedPC) with
    park := g.park &&& ~~~(maskOf ls), hmask := m, h := g.h && m != 0#32 }

/-- A policy routine ends with its decision (R154). -/
def State.policyExit (s : State) (k : Nat) : State :=
  let c := clusterOfEngine k
  let e := mget {} s.engines c
  match e.run with
  | some r => { s with engines := mset c { e with run := some { r with status := .decided } } s.engines }
  | none => s

def execExit (f : Fields) (s : State) : Out :=
  .next (issue 0x06 f (fun _ _ => true) false false (fun s k _ run =>
    if isPolicy k then .done ((s.updGroup k fun g => g.exit run).policyExit k) []
    else match s.failRaise k none run with
      | some (s, r) => .trap s [r]
      | none => .done (s.updGroup k fun g => g.exit run) []) s)

/-- R20, R22: a watchdog count that has reached its limit is not set to zero any more. -/
def execYield (f : Fields) (s : State) : Out :=
  .next (issue 0x07 f (fun _ _ => true) false true (fun s k _ run =>
    .done ((s.updGroup k fun g => { g with park := g.park ||| maskOf run, yielded := true }).updTeam (ctxOf k)
      fun t => { t with watch := if s.wdogOf t ≤ t.watch then t.watch else 0 }) []) s)

/-! ### Waiting (R155–R159) -/

def execWaitc (f : Fields) (s : State) : Out :=
  .next (issue 0x08 f (fun _ _ => f.a.toNat ≤ 5 && f.imm.toNat ≤ 63) false true (fun s k _ run =>
    match s.failRaise k (some f.a.toNat) run with
    | some (s, r) => .trap s [r]
    | none => if (s.group k).count f.a.toNat ≤ f.imm.toNat then .done s [] else .wait s) s)

/-- The BAR phase of a team completes (R157): some waiting arrival's count is reached, or with count 0 every group of
the team has arrived. -/
def State.barReady (s : State) (ctx : Nat) : Bool :=
  let t := mget {} s.teams ctx
  t.barArr.any fun n =>
    if n = 0 then (s.groupsOf ctx).all fun k => (s.group k).wait.barAt == some t.barPhase
    else n ≤ t.barArr.length

/-- Complete the phase. -/
def State.barComplete (s : State) (ctx : Nat) : State :=
  if s.barReady ctx then s.updTeam ctx fun t => { t with barPhase := t.barPhase + 1, barArr := [] } else s

/-- A group arrives at BAR with its count. -/
def State.barArrive (s : State) (k n : Nat) : State :=
  let t := s.teamOf k
  (((s.updGroup k fun g => { g with wait := { g.wait with barAt := some t.barPhase } }).updTeam (ctxOf k)
    fun t => { t with barArr := t.barArr ++ [n] })).barComplete (ctxOf k)

/-- BAR after its arrival: it completes when the group's phase has. -/
def barWait (s : State) (k : Nat) : Res :=
  let g := s.group k
  match g.wait.barAt with
  | some p =>
    if p < (s.teamOf k).barPhase then
      .done ((s.setGroup k { g with wait := { g.wait with barAt := none } }).acquire k 1) []
    else .wait s
  | none => .wait s

def execBar (f : Fields) (s : State) : Out :=
  .next (issue 0x09 f (fun _ _ => f.imm.toNat ≤ 64) false true (fun s k _ run =>
    match s.failRaise k none run with
    | some (s, r) => .trap s [r]
    | none =>
      if ((s.group k).wait.barAt).isSome then barWait s k
      else match s.release k 1 with
        | none => .wait s
        | some s => barWait (s.barArrive k f.imm.toNat) k) s)

/-- The BAR phase completes when no further arrival is awaited (R157). -/
def execBarPhaseComplete (ctx : Nat) (s : State) : Out := .next (s.barComplete ctx)

/-- Every team of a gang has arrived in its phase: every group of the team has (R158). -/
def State.gangReady (s : State) (gang : Nat) : Bool :=
  let x := mget {} s.gangs gang
  !x.arrived.isEmpty && x.teams.all fun c => (s.groupsOf c).all fun k => x.arrived.contains k

/-- Complete the gang's phase. -/
def State.gangComplete (s : State) (gang : Nat) : State :=
  if s.gangReady gang then
    let x := mget {} s.gangs gang
    { s with gangs := mset gang { x with phase := x.phase + 1, arrived := [] } s.gangs }
  else s

def execGbarPhaseComplete (gang : Nat) (s : State) : Out := .next (s.gangComplete gang)

/-- The phase of a group's gang. -/
def State.gangPhase (s : State) (k : Nat) : Nat := (mget {} s.gangs (s.teamOf k).gang).phase

/-- The arrival of .arrive and .sync: none while the group's last arrival is in an incomplete phase, or its release is
not complete; `sync` notes the arrival of a .sync. -/
def State.gbarArrive (s : State) (k : Nat) (sync : Bool) : Option State :=
  let g := s.group k
  if g.wait.gbarOwed == some (s.gangPhase k) then none
  else (s.release k 4).map fun s =>
    let p := s.gangPhase k
    let gang := (s.teamOf k).gang
    let x := mget {} s.gangs gang
    let s := s.updGroup k fun g =>
      { g with wait := { g.wait with gbarOwed := some p, gbarAt := if sync then some p else g.wait.gbarAt } }
    ({ s with gangs := mset gang { x with arrived := x.arrived ++ [k] } s.gangs }).gangComplete gang

/-- .wait: until the phase of the group's last arrival has completed, then ACQ dev. -/
def gbarWait (s : State) (k : Nat) : Res :=
  let g := s.group k
  let done := { g with wait := { g.wait with gbarOwed := none, gbarAt := none } }
  match g.wait.gbarOwed with
  | none => if g.loading then .wait s else .done ((s.setGroup k done).acquire k 4) []
  | some p =>
    if p < s.gangPhase k && !g.loading then .done ((s.setGroup k done).acquire k 4) [] else .wait s

/-- A GBAR after the check for recorded failures. -/
def gbarIssue (f : Fields) (body : State → Nat → Res) (s : State) : State :=
  issue 0x0A f (fun _ _ => true) false true (fun s k _ run =>
    match s.failRaise k none run with
    | some (s, r) => .trap s [r]
    | none => body s k) s

def execGbarArrive (f : Fields) (s : State) : Out :=
  .next (gbarIssue f (fun s k => match s.gbarArrive k false with
    | some s => .done s []
    | none => .wait (s.relWait k 4)) s)

def execGbarWait (f : Fields) (s : State) : Out := .next (gbarIssue f gbarWait s)

def execGbarSync (f : Fields) (s : State) : Out :=
  .next (gbarIssue f (fun s k =>
    if (s.group k).wait.gbarAt.isSome then gbarWait s k
    else match s.gbarArrive k true with
      | some s => gbarWait s k
      | none => .wait (s.relWait k 4)) s)

/-- The device time that TWAIT waits for: the largest of the lanes' values (R159). -/
def twaitTarget (s : State) (f : Fields) (r : Rd) : Nat :=
  let v := if f.form = .xL then f.lit.toNat
    else r.run.foldl (fun m l => max m (r.g.pair f.b.toNat (laneB f r.ex l)).toNat) 0
  if f.sub = 0#8 then v * s.dev.wlen else v

def execTwait (f : Fields) (s : State) : Out :=
  .next (issue 0x0B f (fun _ _ => true) false true (fun s k ex run =>
    let n := twaitTarget s f ⟨s.group k, ex, run⟩
    if n ≤ s.dev.time then .done (s.updGroup k fun g => { g with wait := { g.wait with twait := none } }) []
    else .wait (s.updGroup k fun g => { g with wait := { g.wait with twait := some n } })) s)

/-- Device time has reached the value that a group's TWAIT waits for: the group is eligible again (R159). -/
def execTwaitExpire (g : Nat) (s : State) : Out :=
  .next (match (s.group g).wait.twait with
    | some n => if n ≤ s.dev.time then { s with blocked := s.blocked.filter fun k => k != g } else s
    | none => s)

/-! ### Control registers (R36, R37, R160, R161) -/

/-- Indices that MOVC may read on a core (R37). -/
def ctlReadable (i : Nat) : Bool :=
  i ≤ 0x0E || 0x10 ≤ i && i ≤ 0x1E || 0x20 ≤ i && i ≤ 0x35 || 0x38 ≤ i && i ≤ 0x3E

/-- Indices that MOVTC may write (R37). -/
def ctlWritable (i : Nat) : Bool :=
  i ∈ [0x0C, 0x0D, 0x0E, 0x12, 0x13, 0x14, 0x15, 0x18, 0x19, 0x1A, 0x1D, 0x1E] || 0x20 ≤ i && i ≤ 0x2F

/-- The WID of a lane (R14, R15). -/
def widOf (t : Team) (k l : Nat) : Nat := t.wid + 32 * gidOf k + l

/-- The accumulator flags of a quarter's unit (R35). Log entry 42. -/
def accst (s : State) (k q : Nat) : Word :=
  let t := s.teamOf k; let g := s.group k
  (List.range t.accs).foldl (fun w i =>
    let a := s.acc t.core q (g.acc + i)
    setBit (setBit w i a.inx) (8 + i) a.ovf) 0#32

/-- The value of a control register in a lane (R37, R160). -/
def ctlValue (s : State) (k i l : Nat) : Word :=
  let g := s.group k; let t := s.teamOf k
  if 0x20 ≤ i ∧ i ≤ 0x2F then mget 0 g.ctl.tc (i - 0x20)
  else match i with
    | 0x00 => BitVec.ofNat 32 l
    | 0x01 => BitVec.ofNat 32 (gidOf k)
    | 0x02 => BitVec.ofNat 32 t.core
    | 0x03 => BitVec.ofNat 32 (clusterOf t.core)
    | 0x04 => BitVec.ofNat 32 (dieOf t.core)
    | 0x05 => s.dev.node.setWidth 32
    | 0x06 => BitVec.ofNat 32 (widOf t k l)
    | 0x07 => BitVec.ofNat 32 (widOf t k l / 2 ^ 32)
    | 0x08 => t.widf
    | 0x09 => BitVec.ofNat 32 s.dev.time
    | 0x0A => g.ctl.timehi
    | 0x0B => BitVec.ofNat 32 (s.dev.time / s.dev.wlen)
    | 0x0C => g.ctl.part
    | 0x0D => g.ctl.prio
    | 0x0E => g.ctl.qmap
    | 0x10 => maskOf g.atIssue
    -- the lanes that have exited, H = 1 or not (DESIGN CHOICE, log entry 68)
    | 0x11 => maskOf (allLanes.filter fun x => !g.alive x)
    | 0x12 => g.park
    | 0x13 => g.ctl.tvec
    | 0x14 => (mget 0 g.tcause l).setWidth 32
    | 0x15 => mget 0 g.tepc l
    | 0x16 => (mget 0 g.taddr l).setWidth 32
    | 0x17 => ((mget 0 g.taddr l) >>> 32).setWidth 32
    | 0x18 => g.ctl.troute
    | 0x19 => g.ctl.cltmo
    | 0x1A => accst s k (quarter l)
    | 0x1B => (g.pcOf l).setWidth 32
    | 0x1C => ((g.pcOf l) >>> 32).setWidth 32
    | 0x1D => g.ctl.msgloc
    | 0x1E => g.ctl.msgdst
    | 0x30 => BitVec.ofNat 32 (g.count 0)
    | 0x31 => BitVec.ofNat 32 (g.count 1)
    | 0x32 => BitVec.ofNat 32 (g.count 2)
    | 0x33 => BitVec.ofNat 32 (g.count 3)
    | 0x34 => BitVec.ofNat 32 (g.count 4)
    | 0x35 => BitVec.ofNat 32 (g.count 5)
    | 0x38 => Config.capMask.extractLsb' 0 32
    | 0x39 => Config.capMask.extractLsb' 32 32
    | 0x3A => Config.capMask.extractLsb' 64 32
    | 0x3B => Config.capMask.extractLsb' 96 32
    | 0x3C => t.taskKey
    | 0x3D => lo32 t.taskPay
    | 0x3E => hi32 t.taskPay
    | _ => 0#32

/-- MOVC (R160): a control register into D. In a policy routine indices 0x40 to 0x7F read the decision's own counters
and registers (R167, R308); one that may not be read there traps. -/
def movcIssue (f : Fields) (s : State) : State :=
  let i := f.imm.toNat
  issue 0x0F f (fun _ _ => ctlReadable i || 0x40 ≤ i) false true (fun s k _ run =>
    if 0x40 ≤ i then
      match s.ownCounter k i with
      | some w => .done (s.updGroup k fun g => g.setRegs f.d.toNat run fun _ => w) []
      | none => .trap s (run.map fun l => ⟨l, .illegalOpnd, none⟩)
    else
      let g := (s.group k).setRegs f.d.toNat run fun l => ctlValue s k i l
      .done (s.setGroup k
        (if i = 0x09 then { g with ctl := { g.ctl with timehi := BitVec.ofNat 32 (s.dev.time / 2 ^ 32) } } else g)) []) s

def execMovc (f : Fields) (s : State) : Out := .next (movcIssue f s)
def execMovcTimelo (f : Fields) (s : State) : Out := .next (movcIssue f s)

/-- A tile shape keeps the limits of R32, and an INT3 row is whole (R228; DEDUCED, log entry 80). -/
def tcOk (w : Word) : Bool :=
  let n := w.toNat
  bits n 31 14 == 0 && !(9 ≤ bits n 3 0 && bits n 3 0 ≤ 14) && (bits n 9 4 + 1) * (16 * (bits n 13 10 + 1)) ≤ 4096 &&
    (bits n 3 0 != 2 || (bits n 13 10 + 1) % 3 == 0)

/-- A value keeps its register's layout (R161). -/
def ctlLayout (i : Nat) (w : Word) : Bool :=
  let n := w.toNat
  if 0x20 ≤ i ∧ i ≤ 0x2F then tcOk w
  else match i with
    | 0x0C => 1 ≤ n && n ≤ 5
    | 0x0D => n ≤ 15
    | 0x0E => (List.range 8).all fun q => bits n (4 * q + 3) (4 * q) ≤ 4
    | 0x13 | 0x15 => n % 4 == 0
    | 0x14 => n < 256
    | 0x18 => n < 2 ^ 26
    | 0x1A => n < 2 ^ 16
    | 0x1D => n < 2 ^ 12
    | 0x1E => n < 2 ^ 28
    | _ => true

/-- Write a group-scope control register. -/
def Ctl.write (c : Ctl) (i : Nat) (w : Word) : Ctl :=
  if 0x20 ≤ i ∧ i ≤ 0x2F then { c with tc := mput 0 c.tc (i - 0x20) w }
  else match i with
    | 0x0C => { c with part := w }
    | 0x0D => { c with prio := w }
    | 0x13 => { c with tvec := w }
    | 0x18 => { c with troute := w }
    | 0x19 => { c with cltmo := w }
    | 0x1D => { c with msgloc := w }
    | 0x1E => { c with msgdst := w }
    | _ => c

/-- All lanes of an instruction raise ILLEGAL_OPND. -/
def allOpnd (run : List Nat) : List Raised := run.map fun l => ⟨l, .illegalOpnd, none⟩

/-- A MOVTC of a group-scope register other than QMAP, PARKMASK and ACCST (R161). Where a mark on A raises in the lowest
executing lane (R215), the value is that of the lowest lane that does not raise (DESIGN CHOICE, log entry 69). -/
def movtcGroup (f : Fields) (s : State) : State :=
  let i := f.imm.toNat
  issue 0x10 f (fun _ _ => ctlWritable i) false true (fun s k _ run =>
    let g := s.group k
    let w := g.reg f.a.toNat (lowest run)
    if ctlLayout i w then .done (s.setGroup k { g with ctl := g.ctl.write i w }) [] else .trap s (allOpnd run)) s

/-- TCAUSE and TEPC (R161): each lane writes its value or raises. -/
def movtcLane (f : Fields) (s : State) : State :=
  let i := f.imm.toNat
  issue 0x10 f (fun _ _ => ctlWritable i) false true (fun s k _ run =>
    let g := s.group k
    let v := fun l => g.reg f.a.toNat l
    let ok := run.filter fun l => ctlLayout i (v l)
    let g' := if i = 0x14 then
        { g with tcause := ok.foldl (fun m l => mput 0 m l ((v l).setWidth 8)) g.tcause }
      else { g with tepc := ok.foldl (fun m l => mput 0 m l (v l)) g.tepc }
    .done (s.setGroup k g') ((run.filter fun l => !ctlLayout i (v l)).map fun l => ⟨l, .illegalOpnd, none⟩)) s

def execMovtc (f : Fields) (s : State) : Out :=
  .next (if f.imm = 0x14#8 ∨ f.imm = 0x15#8 then movtcLane f s else movtcGroup f s)
def execMovtcPart (f : Fields) (s : State) : Out := .next (movtcGroup f s)

/-- TCk (R32, R228): the shape, and with it RT from TYPE and every scale slot 1.0. -/
def execMovtcTc (f : Fields) (s : State) : Out :=
  .next (issue 0x10 f (fun _ _ => true) false true (fun s k _ run =>
    let g := s.group k
    let i := f.imm.toNat - 0x20
    let w := g.reg f.a.toNat (lowest run)
    if tcOk w then
      let ty := bits w.toNat 3 0
      let g := { g with ctl := g.ctl.write f.imm.toNat w }
      .done (s.setGroup k (g.setTile i { g.tile i with rt := if ty = 15 then 0 else ty, slots := [] })) []
    else .trap s (allOpnd run)) s)

/-- PARKMASK (R18, R161): the executing lanes advance, then the park bits are written; bits of exited lanes are
ignored. -/
def execMovtcParkmask (f : Fields) (s : State) : Out :=
  .next (issue 0x10 f (fun _ _ => true) false true (fun s k _ run =>
    let g := s.group k
    .done (s.setGroup k { g with park := g.reg f.a.toNat (lowest run) &&& maskOf (allLanes.filter g.alive) }) []) s)

/-- ACCST (R35, R161): each quarter's unit takes its flags from the lowest executing lane of the quarter; where one of these
values breaks the layout, every executing lane traps and nothing is written (DESIGN CHOICE, log entry 70). -/
def execMovtcAccst (f : Fields) (s : State) : Out :=
  .next (issue 0x10 f (fun _ _ => true) false true (fun s k _ run =>
    let g := s.group k; let t := s.teamOf k
    let v := fun q => g.reg f.a.toNat (lowest (run.filter fun l => quarter l == q))
    if (quartersOf run).all fun q => ctlLayout 0x1A (v q) then
      .done ((quartersOf run).foldl (fun s q => (List.range t.accs).foldl (fun s i =>
        let a := s.acc t.core q (g.acc + i)
        s.setAcc t.core q (g.acc + i) { a with inx := (v q).getLsbD i, ovf := (v q).getLsbD (8 + i) }) s) s) []
    else .trap s (allOpnd run)) s)

/-- The ports whose binding a QMAP value changes. -/
def changedPorts (g : Group) (w : Word) : List Nat :=
  (List.range 8).filter fun q => bits w.toNat (4 * q + 2) (4 * q) != g.portKind q

/-- No operation targets a port, and every element written to it has left it (R29, R30). -/
def portQuiet (g : Group) (q : Nat) : Bool := (g.port q).out.isEmpty && g.ops.all fun o => o.port != some q

/-- A kind-4 binding may take the group's local endpoint (R30). -/
def endpointFree (s : State) (k : Nat) : Bool :=
  match mfind (bits (s.group k).ctl.msgloc.toNat 11 0) s.dev.endpoints with
  | some e => e.req.partid == (s.teamOf k).partid && e.holder.isNone
  | none => false

/-- Bind a changed port (R29, R30): its elements are discarded; kind 4 takes the endpoint and destination. -/
def bindPort (s : State) (k : Nat) (w : Word) (q : Nat) : State :=
  let g := s.group k
  let old := g.port q
  let s := match old.local? with
    | some ep => { s with dev := { s.dev with
        endpoints := s.dev.endpoints.map fun (p : Nat × Endpoint) => (p.1, if p.1 == ep then { p.2 with holder := none } else p.2) } }
    | none => s
  if bits w.toNat (4 * q + 2) (4 * q) = 4 then
    let ep := bits g.ctl.msgloc.toNat 11 0
    let s := { s with dev := { s.dev with
      endpoints := s.dev.endpoints.map fun (p : Nat × Endpoint) =>
        (p.1, if p.1 == ep then { p.2 with holder := some (8 * k + q) } else p.2) } }
    s.updGroup k fun g => g.setPort q
      { local? := some ep, node := bits g.ctl.msgdst.toNat 15 0, dest := bits g.ctl.msgdst.toNat 27 16 }
  else s.updGroup k fun g => g.setPort q {}

/-- QMAP (R27, R29, R30, R161). Log entry 39. -/
def execMovtcQmap (f : Fields) (s : State) : Out :=
  .next (issue 0x10 f (fun _ _ => true) false true (fun s k _ run =>
    let g := s.group k
    let w := g.reg f.a.toNat (lowest run)
    let ch := changedPorts g w
    let msg := ch.filter fun q => bits w.toNat (4 * q + 2) (4 * q) == 4
    if !ctlLayout 0x0E w || (!msg.isEmpty && !(msg.length == 1 && endpointFree s k)) then .trap s (allOpnd run)
    else if ch.all (portQuiet g) then
      let s := ch.foldl (fun s q => bindPort s k w q) s
      .done (s.updGroup k fun g => { g with ctl := { g.ctl with qmap := w } }) []
    else .wait s) s)

/-! ### Traps (R165, R166) -/

def execTrap (f : Fields) (s : State) : Out :=
  .next (issue 0x0C f (fun _ _ => true) false true (fun s _ _ run =>
    .done s (run.map fun l => ⟨l, .userTrap, none⟩)) s)

def execTret (f : Fields) (s : State) : Out :=
  .next (issue 0x0D f (fun _ g => g.h) false false (fun s k _ run =>
    .done (s.updGroup k fun g => g.tret run) []) s)

/-! ### The end of a group (R19) -/

/-- A group whose lanes have all exited and whose counters are zero. -/
def State.groupOver (s : State) (k : Nat) : Bool :=
  (mfind k s.groups).isSome && !isPolicy k && (allLanes.all fun l => !(s.group k).alive l) &&
    (List.range 6).all fun c => (s.group k).count c == 0

/-- The group ends; a BAR phase may complete without it; the team ends with its last group (R19, R157), and is halted where
the groups that are left are (R314). -/
def execGroupEnd (g : Nat) (s : State) : Out :=
  .next (if s.groupOver g then
      let ctx := ctxOf g
      let gang := (s.teamOf g).gang
      let s := s.dropGroup g
      if (s.groupsOf ctx).isEmpty then (s.endTeam ctx).gangComplete gang
      else
        let s := (s.barComplete ctx).gangComplete gang
        if (mget {} s.teams ctx).haltReq then s.haltedAll ctx else s
    else s)

end Sys2Proof.Machine
end

