-- ==== Sys2Proof/Machine/Float.lean ====
section
/-!
DEFINITION. Floating-point and conversion instructions (R184 to R196).
-/

namespace Sys2Proof.Machine

/-- A word of a pattern. -/
def ofBits (x : Nat) : Word := BitVec.ofNat 32 x

/-! ### FP32 arithmetic (R186, R187) -/

/-- A two-source operation on patterns. -/
def fp2 (op : Nat) (f : Fields) (res : Nat → Nat → Nat) (s : State) : Out :=
  .next (aluIssue op f true (fun r l => ofBits (res (r.a f l).toNat (r.b op f l).toNat)) s)

/-- A one-source operation on patterns. -/
def fp1 (op : Nat) (f : Fields) (res : Nat → Nat) (s : State) : Out :=
  .next (aluIssue op f true (fun r l => ofBits (res (r.a f l).toNat)) s)

def execFadd (f : Fields) (s : State) : Out := fp2 0x40 f (faddBits fp32) s
def execFsub (f : Fields) (s : State) : Out := fp2 0x41 f (fsubBits fp32) s
def execFmul (f : Fields) (s : State) : Out := fp2 0x42 f (fmulBits fp32) s
def execFfma (f : Fields) (s : State) : Out :=
  .next (aluIssue 0x43 f true
    (fun r l => ofBits (ffmaBits fp32 (r.a f l).toNat (r.b 0x43 f l).toNat (r.c f l).toNat)) s)
def execFmin (f : Fields) (s : State) : Out := fp2 0x44 f (fminmaxBits fp32 false (f.sub == 1#8)) s
def execFmax (f : Fields) (s : State) : Out := fp2 0x45 f (fminmaxBits fp32 true (f.sub == 1#8)) s

/-! ### Comparison and class (R188, R189) -/

/-- The comparisons of FCMP. -/
def fcmp (sub : Nat) (a b : Nat) : Bool :=
  let x := decodeVal fp32 a; let y := decodeVal fp32 b
  let num := !x.isNan && !y.isNan
  match sub with
  | 0 => x.eq y
  | 1 => num && !x.eq y
  | 2 => num && x.lt y
  | 3 => num && !y.lt x
  | 4 => num && y.lt x
  | 5 => num && !x.lt y
  | 6 => !x.eq y
  | 7 => num
  | _ => !num

def execFcmp (f : Fields) (s : State) : Out :=
  .next (predIssue 0x46 f (fun r l => fcmp f.sub.toNat (r.a f l).toNat (r.b 0x46 f l).toNat) s)

/-- The class of an FP32 value (R189). -/
def fclass (a : Nat) : Nat :=
  match decodeVal fp32 a with
  | .nan => 8
  | .inf neg => if neg then 0 else 7
  | .zero neg => if neg then 3 else 4
  | .fin neg _ _ =>
    if bits a 30 23 = 0 then (if neg then 2 else 5) else if neg then 1 else 6

def execFclass (f : Fields) (s : State) : Out := fp1 0x47 f (fun a => 2 ^ fclass a) s

/-! ### Rounding to integers (R190 to R192) -/

/-- FRND. -/
def frndBits (mode : RM) (a : Nat) : Nat :=
  match decodeVal fp32 a with
  | .nan => fp32.nanBits
  | .fin neg m e => convert fp32 false (intVal (roundToInt mode (.fin neg m e)) neg)
  | _ => a

def execFrnd (f : Fields) (s : State) : Out := fp1 0x48 f (frndBits (rmOf f.sub.toNat)) s

/-- F2I. -/
def f2iRes (uns : Bool) (mode : RM) (a : Nat) : Word :=
  let lo : Int := if uns then 0 else -2 ^ 31
  let hi : Int := if uns then 2 ^ 32 - 1 else 2 ^ 31 - 1
  match decodeVal fp32 a with
  | .nan => 0#32
  | .inf neg => word (if neg then lo else hi)
  | x => word (sat (roundToInt mode x) lo hi)

def execF2i (f : Fields) (s : State) : Out :=
  .next (aluIssue 0x4E f true
    (fun r l => f2iRes (f.sub.getLsbD 3) (rmOf (f.sub.toNat % 8)) (r.a f l).toNat) s)

/-- I2F. -/
def i2fBits (uns : Bool) (a : Word) : Nat :=
  convert fp32 false (intVal (if uns then (a.toNat : Int) else a.toInt) false)

def execI2f (f : Fields) (s : State) : Out :=
  .next (aluIssue 0x4F f true (fun r l => ofBits (i2fBits (f.sub == 1#8) (r.a f l))) s)

/-! ### Packed pairs (R193) -/

/-- Element `i` of a duo. -/
def duoElem (w : Word) (i : Nat) : Nat := bits w.toNat (16 * i + 15) (16 * i)

/-- The format of a duo instruction. -/
def duoFmt (f : Fields) : Fmt := if f.sub.getLsbD 0 then fp16 else bf16

/-- A duo from its elements; B's elements exchange places under .x. -/
def duoRes (f : Fields) (res : Nat → Nat → Nat → Nat) (a b c : Word) : Word :=
  let x := if f.sub.getLsbD 1 then 1 else 0
  let e := fun i => res (duoElem a i) (duoElem b ((i + x) % 2)) (duoElem c i)
  ofBits (e 0 + 2 ^ 16 * e 1)

/-- A duo instruction. -/
def duoIssue (op : Nat) (f : Fields) (res : Nat → Nat → Nat → Nat) (s : State) : Out :=
  .next (aluIssue op f true (fun r l => duoRes f res (r.a f l) (r.b op f l) (r.c f l)) s)

def execDuadd (f : Fields) (s : State) : Out := duoIssue 0x49 f (fun a b _ => faddBits (duoFmt f) a b) s
def execDumul (f : Fields) (s : State) : Out := duoIssue 0x4A f (fun a b _ => fmulBits (duoFmt f) a b) s
def execDufma (f : Fields) (s : State) : Out := duoIssue 0x4B f (ffmaBits (duoFmt f)) s
def execDumax (f : Fields) (s : State) : Out :=
  duoIssue 0x4C f (fun a b _ => fminmaxBits (duoFmt f) true (f.sub.getLsbD 2) a b) s

/-! ### Conversions (R194 to R196) -/

/-- CVT: the low bits of A in the source format, converted to the destination format. -/
def cvtBits (sub a : Nat) : Nat :=
  let src := fmtOf (bits sub 4 2)
  convert (fmtOf (bits sub 7 5)) (bits sub 1 1 == 1) (decodeVal src (a % 2 ^ src.width))

def execCvt (f : Fields) (s : State) : Out := fp1 0x4D f (cvtBits f.sub.toNat) s

/-- PACK: element k of the old D is replaced. -/
def packBits (sub a old : Nat) : Nat :=
  let fm := fmtOf (bits sub 7 5)
  let w := fm.width
  let k := bits sub 3 0
  let e := convert fm (bits sub 4 4 == 1) (decodeVal fp32 a)
  old % 2 ^ (k * w) + e * 2 ^ (k * w) + old / 2 ^ ((k + 1) * w) * 2 ^ ((k + 1) * w)

def execPack (f : Fields) (s : State) : Out :=
  .next (aluIssue 0x50 f true
    (fun r l => ofBits (packBits f.sub.toNat (r.a f l).toNat (r.g.reg f.d.toNat l).toNat)) s)

/-- UNPK: element k of A, decoded exactly into FP32. -/
def unpkBits (sub a : Nat) : Nat :=
  let fm := fmtOf (bits sub 7 5)
  let k := bits sub 3 0
  convert fp32 false (decodeVal fm (a / 2 ^ (k * fm.width) % 2 ^ fm.width))

def execUnpk (f : Fields) (s : State) : Out := fp1 0x51 f (unpkBits f.sub.toNat) s

/-- BSCL: the block scale for a magnitude (R196). -/
def bsclBits (sub a : Nat) : Nat :=
  let q := match sub with
    | 0 => 448 | 1 => 57344 | 2 => 7 | _ => 3
  match decodeVal fp32 a with
  | .nan | .inf _ => 0xFF0000
  | .zero _ => scaleOne
  | .fin _ m e => scaleUp m q e

def execBscl (f : Fields) (s : State) : Out := fp1 0x52 f (bsclBits f.sub.toNat) s

end Sys2Proof.Machine
end

