-- ==== Sys2Proof/Machine/Memory.lean ====
section
/-!
DEFINITION. Memory, atomic and ordering instructions (R212 to R225), and the events that complete a store, an atomic, a
registration and a line fill (R131, R133, R149, R220, R292, R293).
-/

namespace Sys2Proof.Machine

/-! ### Addresses and checks (R213, R214) -/

/-- An access of one lane: the address that a trap or a mark names, and the addresses of its words. -/
structure Access where
  lane  : Nat
  va    : Nat
  words : List Nat
  deriving DecidableEq, Repr

/-- Ea(l) (R214). -/
def Rd.ea (r : Rd) (f : Fields) (l : Nat) : Option Nat :=
  (pairAddr (r.g.pair f.a.toNat l)).bind fun a =>
    let x := (a : Int) + off14 f
    if 0 ≤ x ∧ x < 2 ^ 57 then some x.toNat else none

/-- PrivAddr(l, o) (R52). -/
def privAddr (pb l o : Nat) : Nat := pb + o / 4 * 128 + 4 * l + o % 4

/-- The word addresses of `w` bytes at a global address or at an offset of the private window. -/
def wordsAt (addr : Nat → Nat) (x w : Nat) : List Nat :=
  (List.range (if w ≤ 4 then 1 else w / 4)).map fun i => addr (x + 4 * i) / 4 * 4

/-- Check the pages of the words of an access: the first failure with its address (R47). -/
def State.checkWords (s : State) (k : Nat) (kind : AKind) : List Nat → Option (Cause × Nat)
  | [] => none
  | a :: as => match s.checkAccess (s.who k) kind a 1 anyHome none with
    | .ok _ => s.checkWords k kind as
    | .error c => some (c, a)

/-- Form and check the address of one lane's access of `w` bytes (R214): in the private space every word's page, for the
words of one lane lie 128 bytes apart (R52). -/
def State.access (s : State) (k : Nat) (r : Rd) (f : Fields) (priv : Bool) (kind : AKind) (w l : Nat) :
    Except Raised Access :=
  let bad := Except.error (Raised.mk l .illegalOpnd none)
  if priv then
    let o := (r.a f l).toNat + off14 f
    if o < 0 ∨ ((s.teamOf k).priv : Int) < o + w then bad
    else
      let o := o.toNat
      let va := privAddr r.g.pb l o
      if o % w ≠ 0 then .error ⟨l, .misaligned, some va⟩
      else
        let ws := wordsAt (privAddr r.g.pb l) o w
        match s.checkWords k kind (va :: ws.drop 1) with
        | none => .ok ⟨l, va, ws⟩
        | some (c, a) => .error ⟨l, c, some a⟩
  else match r.ea f l with
    | none => bad
    | some va =>
      match s.checkAccess (s.who k) kind va w anyHome none with
      | .ok _ => .ok ⟨l, va, wordsAt id va w⟩
      | .error c => .error ⟨l, c, some va⟩

/-- The page of an access that has been checked: that of an L1 line held under its address, or of a translation. -/
def State.leafAt (s : State) (k va : Nat) : Option Leaf := s.look (s.who k) va

/-- Hold the slice-pinned lines of some words (R46). -/
def State.pinAll (s : State) (k : Nat) (vas : List Nat) : State :=
  vas.foldl (fun t va => match t.leafAt k va with
    | some l => t.pin l va
    | none => t) s

/-- Lanes checked in ascending order, each after the lines that the lanes before it hold (R12, R46): those that pass, with
what they access, and those that raise. -/
def State.sortLanes {α : Type} (s : State) (k : Nat) (one : State → Nat → Except Raised α) (vas : α → List Nat) :
    List Nat → List α × List Raised
  | [] => ([], [])
  | l :: ls => match one s l with
    | .ok a => let p := (s.pinAll k (vas a)).sortLanes k one vas ls; (a :: p.1, p.2)
    | .error e => let p := s.sortLanes k one vas ls; (p.1, e :: p.2)

/-- The accesses of some lanes (R214). -/
def State.accessAll (s : State) (k : Nat) (r : Rd) (f : Fields) (priv : Bool) (kind : AKind) (w : Nat) (ls : List Nat) :
    List Access × List Raised :=
  s.sortLanes k (fun t l => t.access k r f priv kind w l) Access.words ls

/-- The lanes that pass and the lanes that raise. -/
def sortOut {α : Type} (xs : List (Except Raised α)) : List α × List Raised :=
  (xs.filterMap fun x => match x with
    | .ok a => some a
    | .error _ => none,
   xs.filterMap fun x => match x with
    | .ok _ => none
    | .error r => some r)

/-- The home address and the route of a word. -/
def State.place (s : State) (k va : Nat) : Nat × Route :=
  match s.leafAt k va with
  | some l => (l.ha va, l.route)
  | none => (va, .cached)

/-! ### The order of one group's accesses to a word (R129) -/

/-- An atomic of the group that its home has not acknowledged covers the word. -/
def Group.atomicOn (g : Group) (a : Nat) : Bool :=
  g.ops.any fun o => match o.kind with
    | .atomic _ _ _ _ its _ => its.any fun i => !i.done && (i.addr == a || i.wide && i.addr + 4 == a)
    | _ => false

/-- A load of the group waits for the word. -/
def Group.loadOn (g : Group) (a : Nat) : Bool :=
  g.ops.any fun o => match o.kind with
    | .load ls _ _ => ls.any fun x => x.slots.any fun sl => sl.addr == a && sl.val.isNone
    | .tile _ ps _ _ sls =>
      (ps.any fun x => x.slots.any fun sl => sl.addr == a && sl.val.isNone) ||
        sls.any fun p => p.2.addr == a && p.2.val.isNone
    | _ => false

/-- A store of the group to the word is in flight. -/
def State.flightOn (s : State) (k a : Nat) : Bool :=
  s.caches.flights.any fun p => p.2.grp == k && p.2.op == none && p.2.words.any fun w => w.1 == a

/-- A load of a word must wait for the group's earlier accesses to it, loads among them: an earlier load that still waits may
take a newer value than an L1 copy has now (R128, R129). -/
def State.loadBusy (s : State) (k a : Nat) : Bool := (s.group k).atomicOn a || s.flightOn k a || (s.group k).loadOn a

/-- A store to a word must wait for the group's earlier accesses to it; stores to one word go out in order. -/
def State.storeBusy (s : State) (k a : Nat) : Bool := (s.group k).atomicOn a || (s.group k).loadOn a

/-- An atomic on a word must wait for the group's earlier accesses to it, and for the core's registration. -/
def State.atomBusy (s : State) (k a : Nat) : Bool :=
  s.storeBusy k a || s.flightOn k a ||
    match s.l1 (s.coreOf k) a with
    | some x => x.st == .p
    | none => false

/-! ### Loads (R216, R217) -/

/-- The bytes of a word that an access of `w` bytes at an address reads. -/
def needMask (va w : Nat) : BitVec 4 :=
  if w = 1 then BitVec.twoPow 4 (va % 4) else if w = 2 then 3#4 <<< (va % 4) else 15#4

/-- A slot for a word of a checked access: what the L1 holds of it at issue. -/
def State.slotFor (s : State) (k va : Nat) (need : BitVec 4) : Slot :=
  let p := s.place k va
  { addr := p.1, route := p.2, need := need, va := va / 4 * 4,
    val := if p.2 = .cached then (s.l1Hit (s.coreOf k) p.1 need).map .word else none }

/-- The bytes of the word at a home address that the accesses of one instruction need: lanes that name one word wait for it
together, so that no lane takes an older value than a lane before it (R10, R128). -/
def State.needOfWord (s : State) (k w : Nat) (xs : List Access) (ha : Nat) : BitVec 4 :=
  xs.foldl (fun m x => if x.words.any fun a => (s.place k a).1 == ha then m ||| needMask x.va w else m) 0#4

/-- The slots of one lane among the accesses of an instruction. -/
def State.loadSlots (s : State) (k w : Nat) (xs : List Access) (x : Access) : List Slot :=
  x.words.map fun a => s.slotFor k a (if w < 4 then s.needOfWord k w xs (s.place k a).1 else 15#4)

/-- The lines that some slots miss and no miss slot holds (R293). -/
def State.newMisses (s : State) (core : Nat) (sls : List Slot) : List Nat :=
  ((sls.filter fun sl => sl.route == .cached && sl.val.isNone).map fun sl => l1Key core (lineOf sl.addr)).eraseDups.filter
    fun key => !(mget false s.caches.miss key)

/-- The lines that a core waits for. -/
def State.missCount (s : State) (core : Nat) : Nat := (s.caches.miss.filter fun p => p.1 / 2 ^ 64 == core).length

/-- The core has miss slots for the lines, of its 256 (R293); a load of more lines has them all, and the others of its lines
follow as slots become free (R229; DEDUCED, log entry 93). -/
def State.missRoom (s : State) (core : Nat) (sls : List Slot) : Bool :=
  s.missCount core + (s.newMisses core sls).length ≤ 256 || s.missCount core == 0

/-- Lines take the miss slots of a core that are free. -/
def State.sendMisses (s : State) (core : Nat) (keys : List Nat) : State :=
  { s with caches := { s.caches with
    miss := (keys.take (256 - s.missCount core)).foldl (fun m k => mset k true m) s.caches.miss } }

/-- Take miss slots for the lines that some slots miss; the misses are counted for the group's tenant (R308). Log entry 56. -/
def State.takeMisses (s : State) (k : Nat) (sls : List Slot) : State :=
  let core := s.coreOf k
  (s.bump 0x52 (clusterOf core) (s.teamOf k).tenant (s.newMisses core sls).length).sendMisses core (s.newMisses core sls)

/-- The slots of the tile loads of a core whose words the L1 does not hold: those of more than 256 lines find miss slots only
after a time (R229). -/
def State.unsent (s : State) (core : Nat) : List Slot :=
  (s.groups.filter fun p => !isPolicy p.1 && s.coreOf p.1 == core).flatMap fun p => p.2.ops.flatMap fun o => match o.kind with
    | .tile _ ps _ _ ss =>
      (ps.flatMap TilePart.slots ++ ss.map Prod.snd).filter fun sl => sl.val.isNone && (s.l1 core sl.addr).isNone
    | _ => []

/-- Record the accesses of the lanes' words: AC, DY, TLB, pinned lines and the tags of L1 lines (R45, R46, R293). -/
def State.touchAll (s : State) (k : Nat) (vas : List Nat) (write : Bool) : State :=
  vas.foldl (fun t va => t.touch (t.who k) va write) s

/-- Record accesses that use no L1: those of engines, bank engines and instruction fetch (R45, R46, R294). -/
def State.touchPages (s : State) (k : Nat) (vas : List Nat) (write : Bool) : State :=
  vas.foldl (fun t va => t.touch { t.who k with core := none } va write) s

/-- Issue the loads of some lanes: destinations empty in their quarters, a count on LD, miss slots taken. It waits
while an earlier access to a word must come first, or no miss slot is free. -/
def State.issueLoads (s : State) (k : Nat) (ls : List LaneLoad) (regs : List Nat) (vas : List Nat)
    (raised : List Raised) : Res :=
  let sls := ls.flatMap LaneLoad.slots
  let core := s.coreOf k
  if sls.any fun sl => s.loadBusy k sl.addr then .wait s
  else if !s.missRoom core sls || !(s.group k).countRoom 0 then .wait s
  else if ls.isEmpty then .done s raised
  else
    let qs := quartersOf (ls.map LaneLoad.lane)
    let s := (s.touchAll k vas false).takeMisses k sls
    let s := s.updGroup k fun g => regs.foldl (fun h d => h.setEmpty d qs true) g
    .done (s.addOp k 0 (.load ls regs qs)) raised

/-- Bytes of a size code (R216, R218). -/
def sizeBytes (sz : Nat) : Nat :=
  match sz with
  | 0 | 1 => 1
  | 2 | 3 => 2
  | 4 => 4
  | 5 => 8
  | _ => 16

/-- The private space is named. -/
def isPrivate (f : Fields) : Bool := bits f.sub.toNat 7 6 == 1

/-- The pocket address of a policy access (R78, R312): aligned and inside the routine's window, or the cause. -/
def State.pocketAt (s : State) (k : Nat) (r : Rd) (f : Fields) (denied : Cause) (l : Nat) : Except Raised Nat :=
  match r.ea f l, (mget {} s.engines (clusterOfEngine k)).run with
  | some a, some p =>
    if a % 4 ≠ 0 then .error ⟨l, .misaligned, some a⟩
    else if p.window ≤ a ∧ a + 4 ≤ p.window + p.wsize then .ok a
    else .error ⟨l, denied, some a⟩
  | _, _ => .error ⟨l, .illegalOpnd, none⟩

/-- LD (R216). -/
def execLd (f : Fields) (s : State) : Out :=
  .next (issue 0x70 f (fun _ _ => true) false true (fun s k ex run =>
    let r : Rd := ⟨s.group k, ex, run⟩
    let sz := bits f.sub.toNat 5 3
    let w := sizeBytes sz
    let d := f.d.toNat
    if isPolicy k then
      let xs := sortOut (run.map fun l => (s.pocketAt k r f .rdDenied l).bind fun a => match s.ctlGot a with
        | .word w => .ok (l, w)
        | .lost c => .error ⟨l, c, some a⟩)
      .done (xs.1.foldl (fun t p => t.updGroup k fun g => g.setReg d p.1 p.2) s) xs.2
    else
      let xs := s.accessAll k r f (isPrivate f) .load w run
      let ls := xs.1.map fun x =>
        { lane := x.lane, va := x.va, slots := s.loadSlots k w xs.1 x, land := .sized d sz (x.va % 4) : LaneLoad }
      s.issueLoads k ls ((List.range (sizeRegs sz)).map fun i => d + i) (xs.1.flatMap Access.words) xs.2) s)

/-- The slots of element `n` of a format page, with its place (R116, R217): the words of its bits, then the scale. -/
structure ElemAt where
  words : List Nat
  scale : Option Nat
  fmt   : ElemFmt
  deriving DecidableEq, Repr

/-- The element of a page at an index: FMT_MISMATCH beyond the page; the words of the element and its scale slot inside the
page hold their pinned lines (R46); the scale slot on a companion page is checked as an access of its own (R48). A slot
outside 0 to 2^57 − 1 raises NOT_PRESENT, with its address as a natural number (DESIGN CHOICE, log entry 74: R48 names no
cause). -/
def State.elemAt (s : State) (w : Who) (lf : Leaf) (va : Nat) (kind : AKind) (n : Int) : Except (Cause × Nat) ElemAt :=
  if lf.fmt = 0 ∨ n < 0 then .error (.fmtMismatch, va)
  else match elemPlace lf.fmt lf.blk lf.scl (2 ^ lf.size) n.toNat with
    | none => .error (.fmtMismatch, va)
    | some (blk, bit, slot) =>
      let b := elemBits lf.fmt
      let at_ := lf.va + bit / 32 * 4
      let words := if bit % 32 + b ≤ 32 then [at_] else [at_, at_ + 4]
      let e := fun scaled => ({ fmt := lf.fmt, scaled := scaled, bit := bit % 32, bits := b } : ElemFmt)
      let read := words ++ if lf.scl = 1 then [lf.va + slot] else []
      match s.pinFail lf read with
      | some a => .error (.homeMismatch, a)
      | none =>
      let s := read.foldl (fun t a => t.pin lf a) s
      if lf.scl = 0 then .ok ⟨words, none, e false⟩
      else if lf.scl = 1 then .ok ⟨words, some (lf.va + slot), e true⟩
      else
        let x := (lf.va : Int) + lf.soff * 2 ^ lf.size + 4 * blk
        if x < 0 ∨ 2 ^ 57 ≤ x then .error (.notPresent, x.toNat)
        else match s.checkAccess w kind x.toNat 1 anyHome (some 0) with
          | .error c => .error (c, x.toNat)
          | .ok _ => .ok ⟨words, some x.toNat, e true⟩

/-- The words that an element's access reads. -/
def ElemAt.addrs (e : ElemAt) : List Nat := e.words ++ e.scale.toList

/-- The slots that an element's access waits for. -/
def State.elemSlots (s : State) (k : Nat) (e : ElemAt) : List Slot :=
  e.addrs.map fun a => s.slotFor k a 15#4

/-- One lane of LD .fx: its address and its element, or the trap it meets (R217). -/
def State.fxLane (s : State) (k : Nat) (r : Rd) (f : Fields) (l : Nat) : Except Raised (Nat × Nat × ElemAt) :=
  match pairAddr (r.g.pair f.a.toNat l) with
  | none => .error ⟨l, .illegalOpnd, none⟩
  | some va => match s.checkPage (s.who k) .load va 1 anyHome none false with
    | .error c => .error ⟨l, c, some va⟩
    | .ok lf => match s.elemAt (s.who k) lf va .load ((r.b 0x70 f l).toNat + off14 f) with
      | .error (c, a) => .error ⟨l, c, some a⟩
      | .ok e => .ok (l, va, e)

/-- LD .fx (R217). -/
def execLdFx (f : Fields) (s : State) : Out :=
  .next (issue 0x70 f (fun _ _ => true) false true (fun s k ex run =>
    let r : Rd := ⟨s.group k, ex, run⟩
    let xs := s.sortLanes k (fun t l => t.fxLane k r f l) (fun x => x.2.2.addrs) run
    let ls := xs.1.map fun x =>
      { lane := x.1, va := x.2.1, slots := s.elemSlots k x.2.2, land := .elem f.d.toNat x.2.2.fmt : LaneLoad }
    s.issueLoads k ls [f.d.toNat] (xs.1.flatMap fun x => x.2.2.addrs) xs.2) s)

/-! ### Landing (R25, R215 to R217) -/

/-- The cause of the first lost word. -/
def lostCause (vs : List Got) : Option Cause := vs.findSome? fun v => match v with
  | .lost c => some c
  | .word _ => none

/-- The decoded value of an element from its words (R117). -/
def elemValue (e : ElemFmt) (ws : List Word) : Val :=
  let n := (ws.headD 0#32).toNat + 2 ^ 32 * ((ws.drop 1).headD 0#32).toNat
  let x := elemVal e.fmt (n / 2 ^ e.bit % 2 ^ e.bits)
  if e.scaled then x.mul (scaleVal ((ws.getLastD 0#32).toNat % 2 ^ 24)) else x

/-- The registers of a landing, from the words of its slots. -/
def Landing.regs (ld : Landing) (ws : List Word) : List (Nat × Word) :=
  match ld with
  | .sized d sz off =>
    let x := (ws.headD 0#32).toNat / 2 ^ (8 * off)
    match sz with
    | 0 => [(d, BitVec.ofNat 32 (x % 256))]
    | 1 => [(d, word (signExt x 8))]
    | 2 => [(d, BitVec.ofNat 32 (x % 65536))]
    | 3 => [(d, word (signExt x 16))]
    | _ => ((List.range ws.length).zip ws).map fun p => (d + p.1, p.2)
  | .elem d e => [(d, BitVec.ofNat 32 (convert fp32 false (elemValue e ws)))]
  | .known rs => rs

/-- The registers that a landing writes. -/
def Landing.dests (ld : Landing) (n : Nat) : List Nat :=
  match ld with
  | .sized d sz _ => if sz ≤ 3 then [d] else (List.range n).map fun i => d + i
  | .elem d _ => [d]
  | .known rs => rs.map Prod.fst

/-- Write a lane's registers, or mark them with the cause of a lost word and leave a free value (R215). -/
def Group.land (g : Group) (tick : Nat) (x : LaneLoad) (vs : List Got) : Group :=
  match lostCause vs with
  | some c =>
    (x.land.dests vs.length).foldl (fun h d =>
      (h.setReg d x.lane (Config.freeLostWord tick (32 * d + x.lane))).setMark d x.lane ⟨c, x.va⟩) g
  | none => (x.land.regs (vs.map Got.toWord)).foldl (fun h p => h.setReg p.1 x.lane p.2) g

/-- What a slot receives, given the answer from outside, if any: a value it has; a lost datum; the word at its
controller or scratchpad now; another device's answer. A word of an L1 line comes with the line. -/
def State.answer (s : State) (sl : Slot) (r : Option (Option Word)) : Option Got :=
  if sl.val.isNone ∧ sl.route = .remote ∧ s.cutOff (s.nodeOf sl.addr) then some (.lost .dataLost)
  else match sl.val, r with
  | some v, _ => some v
  | none, some none => some (.lost (if sl.route = .remote then s.remoteCause sl.addr else .dataLost))
  | none, some (some w) => if sl.route = .remote then some (.word w) else
      if sl.route = .cached then none else some (s.ctlGot sl.addr)
  | none, none => if sl.route = .controller ∨ sl.route = .scratch then some (s.ctlGot sl.addr) else none

/-- Answer a list of slots; an answer from outside goes to each slot that has no value, in order. -/
def State.answers (s : State) : List Slot → List (Option Word) → List (Option Got) × List (Option Word)
  | [], rs => ([], rs)
  | sl :: sls, rs =>
    if sl.val.isSome then
      let p := s.answers sls rs
      (sl.val :: p.1, p.2)
    else
      let p := s.answers sls (rs.drop 1)
      (s.answer sl rs.head? :: p.1, p.2)

/-- Answer the slots of some lanes. -/
def State.answerLanes (s : State) : List LaneLoad → List (Option Word) → List (LaneLoad × List (Option Got))
  | [], _ => []
  | x :: xs, rs =>
    let p := s.answers x.slots rs
    (x, p.1) :: s.answerLanes xs p.2

/-- A lane still awaited takes the value that a lane just written took of the same word: the lanes of one load that name
one word take one value of it (DEDUCED, log entry 31). -/
def LaneLoad.share (mine : List (LaneLoad × List (Option Got))) (x : LaneLoad) : LaneLoad :=
  let known := mine.flatMap fun p => p.1.slots.zip p.2
  { x with slots := x.slots.map fun sl =>
      if sl.val.isSome then sl
      else match known.find? fun q => q.1.addr == sl.addr && q.1.route == sl.route with
        | some q => { sl with val := q.2 }
        | none => sl }

/-- Land a quarter of a load: its lanes are written, its full bits set, and with the last quarter the load completes
(R25, R216). -/
def State.landQuarter (s : State) (k id q : Nat) (reply : List (Option Word)) : State :=
  match (s.group k).findOp id with
  | some o =>
    match o.kind with
    | .load ls regs qs =>
      let mine := s.answerLanes (ls.filter fun x => quarter x.lane == q) reply
      if !qs.contains q || mine.any fun p => p.2.any Option.isNone then s
      else
        let rest := qs.filter fun x => x != q
        let g := mine.foldl (fun h p => h.land s.tick p.1 (p.2.filterMap (fun x => x))) (s.group k)
        let g := regs.foldl (fun h d => h.setEmpty d [q] false) g
        let kind := OpKind.load ((ls.filter fun x => quarter x.lane != q).map (LaneLoad.share mine)) regs rest
        (s.setGroup k (g.updOp id fun x => { x with kind := kind, done := rest.isEmpty })).retire k
    | _ => s
  | none => s

/-! ### Stores (R218) -/

/-- The data of one lane's store: each word with the bytes written. -/
def storeWords (x : Access) (w : Nat) (data : Nat → Word) : List (Nat × BitVec 4 × Word) :=
  if w < 4 then
    (x.words.take 1).map fun a => (a, needMask x.va w, data 0 <<< (8 * (x.va % 4)))
  else ((List.range x.words.length).zip x.words).map fun p => (p.2, 15#4, data p.1)

/-- The window that a remote store sent now is stamped with. -/
def State.window (s : State) : Nat := s.dev.time / s.dev.wlen

/-- A remote store of a group that came before some number of its REL sys has still to be acknowledged on a stream that orders
by acknowledgement: the order of R149 holds there without the bound of R148 (R150, R331). -/
def State.unacked (s : State) (k gen : Nat) : Bool :=
  s.caches.flights.any fun p =>
    p.2.grp == k && p.2.op == none && p.2.route == .remote && !p.2.held && p.2.gen < gen &&
      s.ackOrder p.2.node

/-- A later remote store of a group is held: until the window Nlast + 2 (R149), and where a stream has lost its bound until
the stores before the REL sys have been acknowledged (R150). -/
def State.holds (s : State) (k : Nat) : Bool :=
  let g := s.group k
  s.unacked k g.relGen || match g.hold with
    | some n => s.window < n + 2
    | none => false

/-- The remote stores of a group that are held, by how many REL sys came before them (R149). -/
def State.heldOf (s : State) (k : Nat) : List (Nat × Flight) := s.caches.flights.filter fun p => p.2.grp == k && p.2.held

/-- The next sequence number of the sender stream to a node; this device keeps one stream for each target node (DESIGN
CHOICE, log entry 75: R148 does not say what makes up a stream). -/
def State.nextSeq (s : State) (node : Nat) : Nat × State :=
  let st := mget {} s.dev.streams node
  (st.seq, { s with dev := { s.dev with streams := mset node { st with seq := st.seq + 1 } s.dev.streams } })

/-- Put a store on its way under the next name. -/
def State.launchFlight (s : State) (fl : Flight) : State :=
  { s with nextId := s.nextId + 1, caches := { s.caches with flights := mset s.nextId fl s.caches.flights } }

/-- The header of a request to an address of another device, not yet stamped (R325, R326). -/
def State.flit (s : State) (a : Nat) : Flit :=
  { dst := BitVec.ofNat 16 (s.nodeOf a), src := s.dev.node, pa := s.fabricPA a }

/-- A request takes the next number of its stream, and the window, into its header (R148, R325). -/
def State.stamp (s : State) (fl : Flight) : Flight × State :=
  let q := s.nextSeq fl.node
  ({ fl with
      held := false, seq := q.1,
      hdr := { fl.hdr with seq := BitVec.ofNat 32 q.1, win := BitVec.ofNat 32 s.window } }, q.2)

/-- Stamp a request and put it on its way. -/
def State.sendFlight (s : State) (fl : Flight) : State :=
  let p := s.stamp fl
  p.2.launchFlight p.1

/-- Send a store to a controller, a scratchpad or another device (R133, R148, R149); `va`: the address it was made at. A
remote store behind a REL sys, or behind one that is held, is held. -/
def State.sendStore (s : State) (k : Nat) (rt : Route) (va : Nat) (ws : List (Nat × BitVec 4 × Word)) : State :=
  if rt = .remote then
    let a := (ws.headD (0, 0#4, 0#32)).1
    let fl : Flight := { grp := k, route := rt, words := ws, va := va, node := s.nodeOf a, hdr := s.flit a, gen := (s.group k).relGen }
    if s.holds k || !(s.heldOf k).isEmpty then s.launchFlight { fl with held := true }
    else (s.updGroup k fun g => { g with nlast := some s.window }).sendFlight fl
  else s.launchFlight { grp := k, route := rt, words := ws, va := va }

/-- Store one lane's words: into the L1 in state P, or on their way to another home. A store that names a die in reset
is not performed and is recorded (R334). Log entry 41. -/
def State.storeLane (s : State) (k : Nat) (ws : List (Nat × BitVec 4 × Word)) : State :=
  match ws with
  | [] => s
  | (va, _, _) :: _ =>
    let rt := (s.place k va).2
    if ws.any fun w => s.down (s.place k w.1).1 then s.recordFail k 6 ⟨.dataLost, va⟩
    else if rt = .cached then
      ws.foldl (fun t w => t.l1Store (t.coreOf k) (t.place k w.1).1 w.2.1 w.2.2) s
    else s.sendStore k rt va (ws.map fun w => ((s.place k w.1).1, w.2))

/-- A store to a word whose line is not in the L1 finds its set full of lines with P words (R293). -/
def State.noWay (s : State) (k va : Nat) : Bool :=
  match s.place k va with
  | (a, .cached) =>
    !s.holdsLine (s.coreOf k) (lineOf a) &&
      (s.tagLine (s.coreOf k) (lineOf a) { ctx := ctxOf k, va := lineOf va, attr := none }).setStuck (s.coreOf k) (lineOf a)
  | _ => false

/-- The L1 makes room for the lines that an access of one lane stores to: where a set is full, lines of it leave first, and
register their P words before that (R293; DEDUCED, log entry 93). -/
def State.makeRoom (s : State) (k : Nat) (vas : List Nat) : State :=
  let core := s.coreOf k
  let lines := ((vas.map (s.place k)).filterMap fun p => if p.2 = .cached then some (lineOf p.1) else none).eraseDups
  lines.foldl (fun t l => t.makeWay core l lines.length) s

/-- The lines that an access of one lane stores to enter the L1: their tags, and room for them (R54, R293). -/
def State.enter (s : State) (k : Nat) (vas : List Nat) : State :=
  ((s.touchAll k vas true).makeRoom k vas).touchAll k vas true

/-- ST (R218). A store waits where a set has no way for a line of it; the lines of one store that then share a set leave it
one for another (R293). -/
def execSt (f : Fields) (s : State) : Out :=
  .next (issue 0x71 f (fun _ _ => true) false true (fun s k ex run =>
    let r : Rd := ⟨s.group k, ex, run⟩
    let w := sizeBytes (bits f.sub.toNat 5 3)
    let data := fun l i => r.g.reg (f.b.toNat + i) (laneB f ex l)
    if isPolicy k then
      let xs := sortOut (run.map fun l => (s.pocketAt k r f .wrDenied l).map fun a => (l, a))
      .done (xs.1.foldl (fun t p => t.ctlWrite p.2 15#4 (data p.1 0)) s) xs.2
    else
      let xs := s.accessAll k r f (isPrivate f) .store w run
      if xs.1.any fun x => x.words.any fun a => s.storeBusy k (s.place k a).1 || s.noWay k a then .wait s
      else
        .done (xs.1.foldl (fun t x => (t.enter k x.words).storeLane k (storeWords x w (data x.lane))) s) xs.2) s)

/-- PRF (R53, R219; of a marked address pair or guard the mark's cause is raised under R215, DEDUCED, log entry 85): .l1
fills V words of the line; .l2 changes nothing that a program sees. Log entry 44. -/
def execPrf (f : Fields) (s : State) : Out :=
  .next (issue 0x72 f (fun _ _ => true) false true (fun s k ex run =>
    let r : Rd := ⟨s.group k, ex, run⟩
    .done (run.foldl (fun t l =>
      match r.ea f l with
      | none => t
      | some va => match t.checkAccess (t.who k) .load va 1 [0] none with
        | .ok lf => if f.sub = 1#8 then t.prefetchLine (t.coreOf k) (lineOf (lf.ha va))
            { ctx := ctxOf k, va := lineOf va, attr := some lf } else t
        | .error _ => t) s) []) s)

/-- A store of a group, or of one of its engine operations, was not performed: DATA_LOST (R297, R332, R334). -/
def State.storeLost (s : State) (fl : Flight) : State :=
  let m : Mark := ⟨.dataLost, fl.va⟩
  match fl.op with
  | some id => s.updGroup fl.grp fun g => g.updOp id fun o => { o with fail := o.fail.or (some m) }
  | none => s.recordFail fl.grp 6 m

/-- A store sent earlier is applied and acknowledged (R55, R133, R141, R148): a group's stores to one word are applied
in order, and a stream's in stream order. -/
def State.ackStore (s : State) (id : Nat) : State :=
  match mfind id s.caches.flights with
  | none => s
  | some fl =>
    let older := s.caches.flights.any fun p =>
      p.1 < id && (p.2.grp == fl.grp && p.2.op == fl.op && p.2.words.any (fun w => fl.words.any fun v => v.1 == w.1)
        || fl.route == .remote && p.2.route == .remote && !p.2.held && p.2.node == fl.node && p.2.seq < fl.seq)
    if older || fl.held || fl.atom || fl.route == .remote && s.cutOff fl.node then s
    else
      let s := if fl.route = .remote then s
        else if fl.words.any fun w => s.down w.1 || s.cutWord w.1 then s.storeLost fl
        else s.ctlStores fl.words (s.teamOf fl.grp).sys
      { s with caches := { s.caches with flights := mdel id s.caches.flights } }

def execStoreAcknowledged (id : Nat) (s : State) : Out := .next (s.ackStore id)

/-- The latest window of a group's remote stores, of one that has ended too. -/
def State.lastWindow (s : State) (k : Nat) : Option Nat :=
  match mfind k s.groups with
  | some g => g.nlast
  | none => mfind k s.late

/-- Send a held store in the window that has begun. -/
def State.sendOne (s : State) (id : Nat) (fl : Flight) : State :=
  let q := s.stamp fl
  { q.2 with caches := { q.2.caches with flights := mset id q.1 q.2.caches.flights } }

/-- The remote stores of a group that a REL sys held are sent once the window Nlast + 2 has begun, those behind the earliest
such REL sys first, once the stores before it on streams without their bound have been acknowledged (R150); Nlast is then
their window, which a later REL sys has stamped too (R149). -/
def State.sendHeld (s : State) (k : Nat) : State :=
  match s.heldOf k with
  | [] => s
  | h :: hs =>
    let gen := hs.foldl (fun m p => min m p.2.gen) h.2.gen
    let early : Bool := match s.lastWindow k with
      | some n => s.window < n + 2
      | none => false
    if early || s.unacked k gen then s
    else
      let t := ((h :: hs).filter fun p => p.2.gen == gen).foldl (fun t p => t.sendOne p.1 p.2) s
      if (mfind k s.groups).isSome then
        t.updGroup k fun g =>
          { g with nlast := some s.window, hold := if gen < g.relGen then some s.window else g.hold }
      else { t with late := if (t.heldOf k).isEmpty then mdel k t.late else mset k s.window t.late }

def execHeldRemoteStoreSend (g : Nat) (s : State) : Out := .next (s.sendHeld g)

/-! ### Atomics (R220, R221) -/

/-- Op of AMO on patterns of W bits. -/
def amoOp (code w : Nat) (old b : BitVec 64) : BitVec 64 :=
  let m := 2 ^ w
  let x := old.toNat % m; let y := b.toNat % m
  let sx := signExt x w; let sy := signExt y w
  BitVec.ofNat 64 (match code with
    | 0 => (x + y) % m
    | 1 => if sx ≤ sy then x else y
    | 2 => if sx ≤ sy then y else x
    | 3 => min x y
    | 4 => max x y
    | 5 => Nat.land x y
    | 6 => Nat.lor x y
    | 7 => Nat.xor x y
    | 8 => y
    | _ => faddBits fp32 x y)

/-- The lanes of one word applied in ascending order: the new value, and what each lane's destination receives. -/
def applyLanes (code w : Nat) (old : BitVec 64) (lanes : List (Nat × BitVec 64 × BitVec 64)) : BitVec 64 :=
  lanes.foldl (fun v x => if code = 10 then (if v = x.2.2 then x.2.1 else v) else amoOp code w v x.2.1) old

/-- What the lanes of a word receive: the value each found. -/
def returned (code w : Nat) : BitVec 64 → List (Nat × BitVec 64 × BitVec 64) → List (Nat × BitVec 64 × BitVec 64)
  | _, [] => []
  | v, x :: xs => (x.1, v, x.2.2) :: returned code w (applyLanes code w v [x]) xs

/-- Join the lanes that name one word into one request (R220). -/
def joinItems (its : List AtomItem) (x : AtomItem) : List AtomItem :=
  if its.any fun i => i.addr == x.addr then
    its.map fun i => if i.addr == x.addr then { i with lanes := i.lanes ++ x.lanes } else i
  else its ++ [x]

/-- The requests of some lanes' accesses; `v`: each lane's operand (of CAS the new value) and comparand. -/
def State.atomItems (s : State) (k : Nat) (wide : Bool) (v : Nat → BitVec 64 × BitVec 64) (xs : List Access) :
    List AtomItem :=
  xs.foldl (fun m x =>
    let p := s.place k (x.words.headD 0)
    joinItems m { addr := p.1, route := p.2, wide := wide, va := x.va, lanes := [(x.lane, v x.lane)], sys := (s.teamOf k).sys }) []

/-- The requests of an AMO or CAS to another device are sent, each stamped with the window and the next number of its stream
(R148); what each carries is the operands of its lanes, which the operation holds. -/
def State.sendAtoms (s : State) (k : Nat) : List AtomItem → List AtomItem × State
  | [] => ([], s)
  | i :: is =>
    if i.route = .remote then
      let t := (s.updGroup k fun g => { g with nlast := some s.window }).sendFlight
        { grp := k, route := .remote, words := [], va := i.va, node := s.nodeOf i.addr, hdr := s.flit i.addr,
          gen := (s.group k).relGen, atom := true }
      let q := t.sendAtoms k is
      ({ i with sent := some s.nextId } :: q.1, q.2)
    else let q := s.sendAtoms k is; (i :: q.1, q.2)

/-- Issue an AMO or CAS: one request for each word named, counted on LD. A remote one waits behind a REL sys (R149). -/
def atomIssue (op code : Nat) (f : Fields) (wide ret : Bool) (s : State) : State :=
  issue op f (fun _ _ => true) false true (fun s k ex run =>
    let r : Rd := ⟨s.group k, ex, run⟩
    let w := if wide then 8 else 4
    let val := fun rg l => if wide then r.g.pair rg l else (r.g.reg rg l).setWidth 64
    let b := fun l => val f.b.toNat (laneB f ex l)
    -- CAS has no offset field: its C names the new value (R139)
    let fa := if code = 10 then { f with c := 0#7, e := 0#7 } else f
    let xs := s.accessAll k r fa false .atomic w run
    let its := s.atomItems k wide (fun l => (if code = 10 then val f.c.toNat l else b l, b l)) xs.1
    if its.any fun i => s.atomBusy k i.addr || wide && s.atomBusy k (i.addr + 4) ||
        i.route == .remote && (s.holds k || !(s.heldOf k).isEmpty) then .wait s
    else if !(s.group k).countRoom 0 then .wait s
    else if its.isEmpty then .done s xs.2
    else
      let qs := quartersOf (xs.1.map Access.lane)
      let s := s.touchAll k (xs.1.flatMap Access.words) true
      let p := s.sendAtoms k its
      let its := p.1; let s := p.2
      let regs := if ret then (List.range (if wide then 2 else 1)).map fun i => f.d.toNat + i else []
      let s := s.updGroup k fun g => regs.foldl (fun h d => h.setEmpty d qs true) g
      .done (s.addOp k 0 (.atomic code f.d.toNat ret wide its (if ret then qs else []))) xs.2) s

def execAmo (f : Fields) (s : State) : Out :=
  .next (atomIssue 0x73 (bits f.sub.toNat 7 4) f (f.sub.getLsbD 0) (f.sub.getLsbD 2) s)
def execCas (f : Fields) (s : State) : Out := .next (atomIssue 0x74 10 f (f.sub == 1#8) true s)

/-- Read one word or doubleword at its home on this device: its value, or the cause of its loss (R132). -/
def State.atomRead (s : State) (i : AtomItem) : Got × Got :=
  let rd := fun a => if i.route = .cached then s.homeRead a else s.ctlGot a
  (rd i.addr, if i.wide then rd (i.addr + 4) else .word 0#32)

/-- Write it there; the issuing core's V copy is dropped (R141). -/
def State.atomWrite (s : State) (core : Nat) (i : AtomItem) (v : BitVec 64) : State :=
  if i.route = .cached then
    let wr := fun (t : State) a w =>
      (t.homeWrite a 15#4 w).dropV core fun x => x == a
    let s := wr s i.addr (lo32 v)
    if i.wide then wr s (i.addr + 4) (hi32 v) else s
  else s.ctlStores ((i.addr, 15#4, lo32 v) :: if i.wide then [(i.addr + 4, 15#4, hi32 v)] else []) i.sys

/-- An earlier store or request of a flight's stream is still under way: the target takes a stream in order (R148). -/
def State.streamOwed (s : State) (id : Option Nat) : Bool :=
  match id.bind fun n => mfind n s.caches.flights with
  | some fl => s.caches.flights.any fun p =>
      p.2.route == .remote && !p.2.held && p.2.node == fl.node && p.2.seq < fl.seq
  | none => false

/-- Perform one request at its home. `reply`: the answer of another device, the value found there or none where the target
refuses the request or has lost the word (R215, R327); for a word of this device an answer of none from outside says that
its data could not be corrected (R132, R215). -/
def State.perform (s : State) (core code : Nat) (i : AtomItem) (reply : Option (Option (BitVec 64))) :
    Option (State × AtomItem) :=
  let w := if i.wide then 64 else 32
  let fin := fun (v : BitVec 64) => { i with done := true, lanes := returned code w v i.lanes }
  let gone := fun c => { i with done := true, lost := some c }
  let landed : State := match i.sent with
    | some n => { s with caches := { s.caches with flights := mdel n s.caches.flights } }
    | none => s
  if i.route = .remote ∧ s.cutOff (s.nodeOf i.addr) then some (landed, gone .dataLost)
  else if i.route = .remote then
    if s.streamOwed i.sent then none
    else reply.map fun v => (landed, match v with
      | some v => fin v
      | none => gone (s.remoteCause i.addr))
  else if reply = some none then some (s, gone .dataLost)
  else match s.atomRead i with
    | (.word a, .word b) =>
      let v := pair64 a b
      some (s.atomWrite core i (applyLanes code w v i.lanes), fin v)
    | (.lost c, _) => some (s, gone c)
    | (_, .lost c) => some (s, gone c)

/-- The items that name a lane of a quarter. -/
def itemsOf (its : List AtomItem) (q : Nat) : List AtomItem := its.filter fun i => i.lanes.any fun x => quarter x.1 == q

/-- Land the quarters whose words have all been answered (R220). -/
def Group.landAtomics (g : Group) (tick d : Nat) (wide : Bool) (its : List AtomItem) (qs : List Nat) : Group × List Nat :=
  let ready := qs.filter fun q => (itemsOf its q).all AtomItem.done
  let regs := if wide then [d, d + 1] else [d]
  let one := fun (h : Group) (i : AtomItem) (x : Nat × BitVec 64 × BitVec 64) =>
    if ready.contains (quarter x.1) then
      match i.lost with
      | some c => regs.foldl (fun h r =>
          (h.setReg r x.1 (Config.freeLostWord tick (32 * r + x.1))).setMark r x.1 ⟨c, i.va⟩) h
      | none => if wide then h.setPairs d [x.1] fun _ => x.2.1 else h.setReg d x.1 (lo32 x.2.1)
    else h
  let g := its.foldl (fun h i => i.lanes.foldl (fun h x => one h i x) h) g
  (regs.foldl (fun h r => h.setEmpty r ready false) g, qs.filter fun q => !ready.contains q)

/-- The home performs request `i` of an atomic whose group has ended. -/
def State.ackOrphan (s : State) (id i : Nat) (reply : Option (Option (BitVec 64))) : State :=
  match mfind id s.orphans with
  | some (core, o) => match o.kind with
    | .atomic code d ret wide its qs => match its[i]? with
      | some it =>
        if it.done then s
        else match s.perform core code it reply with
          | none => s
          | some (s, it') =>
            let its := its.set i it'
            { s with
              orphans := if its.all AtomItem.done then mdel id s.orphans
                else mset id (core, { o with kind := .atomic code d ret wide its qs }) s.orphans }
      | none => s
    | _ => s
  | none => s

/-- The home acknowledges request `i` of an atomic. Log entry 51. -/
def State.ackAtomic (s : State) (k id i : Nat) (reply : Option (Option (BitVec 64))) : State :=
  match (s.group k).findOp id with
  | some o =>
    match o.kind with
    | .atomic code d ret wide its qs =>
      match its[i]? with
      | some it =>
        if it.done then s
        else match s.perform (s.coreOf k) code it reply with
          | none => s
          | some (s, it') =>
            let its := its.set i it'
            let p := (s.group k).landAtomics s.tick d wide its qs
            let whole := its.all AtomItem.done
            let fail := if ret then none else its.findSome? fun x => x.lost.map fun c => ⟨c, x.va⟩
            let kind := OpKind.atomic code d ret wide its p.2
            (s.setGroup k (p.1.updOp id fun x => { x with kind := kind, done := whole, fail := if whole then fail else none })).retire k
      | none => s
    | _ => s
  | none => s.ackOrphan id i reply

def execAtomicAck (g op i : Nat) (reply : Option (Option (BitVec 64))) (s : State) : Out := .next (s.ackAtomic g op i reply)

/-! ### Fences, acquires and releases (R222) -/

/-- REL sys and FENCE sys of a group whose stream missed its bound trap once (R150); one that is stalled when the overrun
comes takes the trap itself (DEDUCED, log entry 46). -/
def overrunRaise (s : State) (k scope : Nat) (run : List Nat) : Option (State × List Raised) :=
  if scope = 5 ∧ (s.group k).overrun then
    some (s.updGroup k fun g => { g with overrun := false }, run.map fun l => ⟨l, .windowOverrun, none⟩)
  else none

/-- REL and FENCE: recorded failures and the overrun trap first, then the release, then `after`. -/
def relIssue (op : Nat) (f : Fields) (after : State → Nat → State) (s : State) : State :=
  issue op f (fun _ _ => true) false true (fun s k _ run =>
    let sc := bits f.sub.toNat 2 0
    match s.failRaise k none run with
    | some (s, r) => .trap s [r]
    | none => match overrunRaise s k sc run with
      | some (s, rs) => .trap s rs
      | none => match s.release k sc with
        | some s => .done (after s k) []
        | none => .wait (s.relWait k sc)) s

def execRel (f : Fields) (s : State) : Out := .next (relIssue 0x77 f (fun s _ => s) s)
def execFence (f : Fields) (s : State) : Out :=
  .next (relIssue 0x75 f (fun s k => s.acquire k (bits f.sub.toNat 2 0)) s)

/-- The region that the lowest executing lane names (R223): none where it is illegal. -/
def regionOfLanes (r : Rd) (f : Fields) : Option (Nat × Nat) :=
  let l := lowest r.ex
  let len := (r.g.reg f.b.toNat l).toNat
  (pairAddr (r.g.pair f.a.toNat l)).bind fun base => if base + len ≤ 2 ^ 57 then some (base, len) else none

/-- ACQ .rgn: at clus or wider the core's V words inside the region are dropped (R138). -/
def State.acquireRegion (s : State) (k scope base len : Nat) : State :=
  if scope ≤ 1 then s
  else
    let core := s.coreOf k
    let has := s.regionL1 core (s.who k) base len
    s.dropV core fun a => has.contains a

/-- Log entry 45. -/
def execAcq (f : Fields) (s : State) : Out :=
  .next (issue 0x76 f (fun _ _ => true) false true (fun s k ex run =>
    let sc := bits f.sub.toNat 2 0
    let go := fun (t : State) => if (s.group k).loading then .wait s else .done t []
    if f.sub.getLsbD 3 then
      match regionOfLanes ⟨s.group k, ex, run⟩ f with
      | none => .trap s (allOpnd run)
      | some (base, len) => go (s.acquireRegion k sc base len)
    else go (s.acquire k sc)) s)

/-! ### Region instructions (R223 to R225) -/

/-- An instruction of a core over a region of its context. -/
def regionIssue (op : Nat) (f : Fields) (act : State → Nat → Who → Nat → Nat → State) (s : State) : State :=
  issue op f (fun _ _ => true) false true (fun s k ex run =>
    match regionOfLanes ⟨s.group k, ex, run⟩ f with
    | none => .trap s (allOpnd run)
    | some (base, len) => .done (act s (s.coreOf k) (s.who k) base len) []) s

/-- INVR (R138, R224). -/
def execInvr (f : Fields) (s : State) : Out :=
  .next (regionIssue 0x79 f (fun s core w base len =>
    let has := s.regionL1 core w base len
    s.dropV core fun a => has.contains a) s)

/-- WBR (R139, R224). -/
def execWbr (f : Fields) (s : State) : Out :=
  .next (regionIssue 0x7A f (fun s core w base len => s.surrenderRegion core w base len) s)

/-- A core that cannot answer: fenced off, or its die in reset (R225). -/
def State.unreachable (s : State) (core : Nat) : Bool :=
  mget false s.dev.fenced core || s.dieReset (dieOf core)

/-- The victim lies in the requester's instance of a scope (R74, R140). -/
def inScope (scope a b : Nat) : Bool :=
  if scope = 2 then clusterOf a == clusterOf b else if scope = 3 then dieOf a == dieOf b else true

/-- The victim's part of ACQR (R140): its P words complete, and its V words of the region are dropped. -/
def State.acqrVictim (s : State) (core victim : Nat) (w : Who) (base len : Nat) : State :=
  if victim ≠ core ∧ s.unreachable victim then s
  else
    let s := s.drainCore victim
    if victim = core then s
    else
      let has := s.regionL1 victim w base len
      s.dropV victim fun a => has.contains a

/-- ACQR (R140, R225). -/
def execAcqr (f : Fields) (s : State) : Out :=
  let sc := bits f.sub.toNat 2 0
  .next (issue 0x78 f (fun _ _ => 2 ≤ sc && sc ≤ 4) false true (fun s k ex run =>
    let c := (s.group k).reg f.c.toNat (lowest ex)
    let core := s.coreOf k
    match regionOfLanes ⟨s.group k, ex, run⟩ f with
    | none => .trap s (allOpnd run)
    | some (base, len) =>
      if 256 ≤ c.toNat ∨ !inScope sc core c.toNat then .trap s (allOpnd run)
      else if (s.group k).loading then .wait s
      else .done ((s.acqrVictim core c.toNat (s.who k) base len).acquireRegion k sc base len) []) s)

/-! ### Homes and caches (R53, R131, R292, R293) -/

/-- A home grants a core's registration of a word. -/
def execRegistrationGrant (core pa : Nat) (s : State) : Out := .next (s.grant core (pa / 4 * 4))

/-- A home serves an outstanding fill; the miss slot serves the next line that waits for one. -/
def execLineFill (core pa : Nat) (s : State) : Out :=
  .next (if mget false s.caches.miss (l1Key core (lineOf pa)) then
      let s := s.fillLine core (lineOf pa)
      s.sendMisses core (s.newMisses core (s.unsent core))
    else s)

/-- An L1 line is evicted. -/
def execL1Evict (core pa : Nat) (s : State) : Out := .next (s.evictLine core (lineOf pa))

/-- Stride prefetch (R53): V words of a line in the 64-KiB block of a demand access whose line the core's L1 holds, and with it
the translation of the page, which is readable and of HOME 0. -/
def execHardwareStridePrefetch (core pa : Nat) (s : State) : Out :=
  let block := fun (p : Nat × L1Line) => match p.2.attr with
    | some l => p.2.demand && l.home == 0 && l.bit 1 && l.ha p.2.va / 65536 == pa / 65536
    | none => false
  .next (match (s.linesOf core).find? block with
    | some (_, t) => s.prefetchLine core (lineOf pa) { t with va := t.va / 65536 * 65536 + lineOf pa % 65536 }
    | none => s)

end Sys2Proof.Machine
end

