-- ==== Sys2Proof/Machine/Exact.lean ====
section
/-!
DEFINITION. Accumulators: exact accumulation (R121 to R124), records and frames (R169, R241), ownership tags and their
claims (R34, R234, R279, R343), and loads and stores that complete within one instruction.
-/

namespace Sys2Proof.Machine

/-! ### Exact accumulation (R121, R122) -/

/-- An element with its accumulator's flags, while terms enter. -/
structure AccState where
  el  : AccEl
  inx : Bool
  ovf : Bool

/-- The INVALID element. -/
def AccEl.invalid : AccEl := { val := 0, cnt := 0, inv := true }

/-- The magnitude of a term in units of the anchor, truncated, and whether bits were lost. -/
def termUnits (m : Nat) (e anchor : Int) : Nat × Bool :=
  let d := e - anchor
  if 0 ≤ d then (m * 2 ^ d.toNat, false)
  else
    let q := 2 ^ (-d).toNat
    (m / q, m % q != 0)

/-- AccAdd (R121) of one term into an element under an anchor. -/
def accAdd (anchor : Int) (x : AccState) (t : Option (Int × Int)) : AccState :=
  if x.el.inv then x
  else match t with
    | none => { x with el := .invalid, ovf := true }
    | some (m, e) =>
      let u := termUnits m.natAbs e anchor
      let s := x.el.val.toInt + (if m < 0 then -(u.1 : Int) else u.1)
      let v : BitVec 128 := BitVec.ofInt 128 s
      let c := x.el.cnt.toInt + (s - v.toInt) / 2 ^ 128
      let inx := x.inx || u.2
      if c < -32767 ∨ 32767 < c then { el := .invalid, inx := inx, ovf := true }
      else { el := { val := v, cnt := BitVec.ofInt 16 c, inv := false }, inx := inx, ovf := x.ovf }

/-- An element of an accumulator. -/
def Acc.el (a : Acc) (i : Nat) : AccEl := mget {} a.els i

/-- Enter terms into an element, in order; the anchor is set. -/
def Acc.enter (a : Acc) (i : Nat) (ts : List (Option (Int × Int))) : Acc :=
  let x := ts.foldl (accAdd (a.anchor.getD 0)) { el := a.el i, inx := a.inx, ovf := a.ovf }
  { a with els := mput {} a.els i x.el, inx := x.inx, ovf := x.ovf }

/-- Set an unset anchor (R123). -/
def Acc.anchored (a : Acc) (n : Int) : Acc := { a with anchor := some (a.anchor.getD n) }

/-- A fresh accumulator with a tag and an anchor (R34, R237). -/
def Acc.fresh (tag : BitVec 22) (anchor : Option Int) : Acc := { tag := tag, anchor := anchor }

/-- The term of a source element (R122): its exact number, or NONFINITE. -/
def AccEl.term (x : AccEl) (anchor : Int) : Option (Int × Int) :=
  if x.inv then none else some (x.val.toInt + x.cnt.toInt * 2 ^ 128, anchor)

/-- AccRead (R124): the pattern, and whether the overflow flag is set. -/
def Acc.read (a : Acc) (i : Nat) (f : Fmt) (ovf : Bool) : Nat × Bool :=
  match a.anchor with
  | none => (0, false)
  | some n =>
    let x := a.el i
    if x.inv then (convert f ovf .nan, true)
    else if x.cnt ≠ 0 then (convert f ovf (.inf x.cnt.msb), true)
    else if x.val = 0 then (0, false)
    else convertFull f ovf (.fin x.val.msb x.val.toInt.natAbs n)

/-! ### Records and headers (R169, R241, R242) -/

/-- The record reserved for INVALID. -/
def badRecord : Nat := 2 ^ 127

/-- The record of an element, and whether it sets the overflow flag (R241). -/
def AccEl.record (x : AccEl) : Nat × Bool :=
  if x.inv ∨ x.cnt ≠ 0 ∨ x.val.toNat = badRecord then (badRecord, true) else (x.val.toNat, false)

/-- The term of a record (R241). -/
def recordTerm (n : Nat) (anchor : Int) : Option (Int × Int) :=
  if n = badRecord then none else some (signExt n 128, anchor)

/-- The header of an image: anchor, flags, tag, zeros. -/
def accHeader (anchor : Option Int) (inx ovf : Bool) (tag : Nat) : List Byte :=
  leBytes 2 (match anchor with
    | some n => (BitVec.ofInt 16 n).toNat
    | none => 0x8000) ++
  [BitVec.ofNat 8 (inx.toNat + 2 * ovf.toNat), 0#8] ++ leBytes 4 tag ++ List.replicate 56 0#8

/-- A header read back: anchor, inexact, overflow, tag; none where it is refused (R169, R242). -/
def readHeader (bs : List Byte) : Option (Option Int × Bool × Bool × Nat) :=
  let a := leNat (bs.take 2); let fl := (bs.getD 2 0#8).toNat
  let n := signExt a 16
  if (bs.getD 3 0#8) ≠ 0#8 ∨ ((bs.drop 8).take 56).any (fun b => b != 0#8) ∨ 4 ≤ fl ∨
      (a ≠ 0x8000 ∧ (n < -2048 ∨ 2047 < n)) then none
  else some (if a = 0x8000 then none else some n, fl.testBit 0, fl.testBit 1, leNat ((bs.drop 4).take 4))

/-- The element numbers of an accumulator. -/
def accIndexes : List Nat := List.range 512

/-- An accumulator's part of a spill frame (R169). -/
def Acc.frame (a : Acc) : List Byte :=
  accHeader a.anchor a.inx a.ovf a.tag.toNat ++
    (accIndexes.flatMap fun i => leBytes 16 (if (a.el i).inv then 0 else (a.el i).val.toNat)) ++
    (accIndexes.flatMap fun i => leBytes 2 (if (a.el i).inv then 0x8000 else (a.el i).cnt.toNat))

/-- A list of bytes in runs of `n`. -/
def chunks (n : Nat) : Nat → List Byte → List (List Byte)
  | 0, _ => []
  | k + 1, bs => bs.take n :: chunks n k (bs.drop n)

/-- An accumulator from its part of a frame, with a tag; none where the header is refused (R169). -/
def accOfFrame (bs : List Byte) (tag : BitVec 22) : Option Acc :=
  (readHeader bs).map fun h =>
    let vals := (chunks 16 512 (bs.drop 0x40)).map leNat
    let cnts := (chunks 2 512 (bs.drop 0x2040)).map leNat
    let els := (accIndexes.zip (vals.zip cnts)).foldl (fun m p =>
      mput {} m p.1 (if p.2.2 = 0x8000 then .invalid
        else { val := BitVec.ofNat 128 p.2.1, cnt := BitVec.ofNat 16 p.2.2, inv := false })) []
    { els := els, anchor := h.1, inx := h.2.1, ovf := h.2.2.1, tag := tag }

/-! ### Ownership (R34, R234, R279) -/

/-- The tag of a group (R34): context number and group slot. -/
def State.tagOf (s : State) (k : Nat) : BitVec 22 := BitVec.ofNat 22 (ctxOf k * 64 + (s.group k).slot % 64)

/-- The four units of a core. -/
def units : List Nat := List.range 4

/-- The image number of a group's accumulator (R316): group × ACCS + k. -/
def imageOf (t : Team) (k i : Nat) : Nat := gidOf k * t.accs + i

/-- Where a context frame's scratchpad part begins, after its header and its groups' parts (R316). -/
def Team.frameBody (t : Team) : Nat := t.frame + 8192 + t.ngroups * (2048 + 136 * t.regs + 160 * 8 + 5664 * t.tiles)

/-- The place of page `i` and of accumulator image `j` in a context frame (R316). -/
def Team.framePage (t : Team) (i : Nat) : Nat := t.frameBody + 65536 * i
def Team.frameImage (t : Team) (j : Nat) : Nat := t.frameBody + 65536 * (t.srows / 128) + 37120 * j

/-- The size of a context frame without its overflow area (R316). -/
def Team.frameBytes (t : Team) : Nat :=
  8192 + t.ngroups * (2048 + 136 * t.regs + 160 * 8 + 5664 * t.tiles) + 65536 * (t.srows / 128) + 37120 * (t.ngroups * t.accs)

/-- Ranges of bytes meet. -/
def bytesMeet (a n b m : Nat) : Bool := a < b + m && b < a + n

/-- No part of a context's frame lies on a fenced stack (R334; log entry 81). -/
def State.frameUp (s : State) (ctx : Nat) : Bool :=
  let t := mget {} s.teams ctx
  !(s.dev.dies.any fun p => p.2 == 2) ||
    ((t.frame, t.frameBytes) :: t.overPages.map fun a => (a, 65536)).all fun r => (rangeLines r.1 r.2).all fun a => !s.down a

/-- Grenlar writes a word of a context frame through its home; a fenced stack takes none (R316, R334; log entries 61, 81). -/
def State.frameWord (s : State) (a : Nat) (w : Word) : State := if s.down a then s else s.homeWrite a 15#4 w

/-- Grenlar writes bytes of a context frame. -/
def State.frameWrite (s : State) (a : Nat) (bs : List Byte) : State :=
  ((List.range (bs.length / 4)).zip (chunks 4 (bs.length / 4) bs)).foldl
    (fun t p => t.frameWord (a + 4 * p.1) (BitVec.ofNat 32 (leNat p.2))) s

/-- Grenlar writes `n` words of a context frame whose contents the manual does not lay out: free values (log entry 61). -/
def State.frameFree (s : State) (a n : Nat) : State :=
  (List.range n).foldl (fun t i => t.frameWord (a + 4 * i) (Config.freeFrameWord s.tick (a + 4 * i))) s

/-- The header of a context's frame is written: its state, spilt masks, IMGMASK and the rest (R315, R316). -/
def State.saveHeader (s : State) (ctx : Nat) : State := s.frameFree (mget {} s.teams ctx).frame 2048

/-- Grenlar reads bytes of a context frame: none where a word is lost. -/
def State.frameRead (s : State) (a n : Nat) : Option (List Byte) :=
  let gs := (List.range (n / 4)).map fun i => s.homeRead (a + 4 * i)
  if gs.any fun x => match x with
    | .lost _ => true
    | .word _ => false then none
  else some (gs.flatMap fun x => leBytes 4 x.toWord.toNat)

/-- The context whose frame takes a spill of a tagged accumulator `p`, and the image's number: none where the tag names
no context that exists, or no group that it has had. -/
def State.spillTo (s : State) (tag : BitVec 22) (p : Nat) : Option (Nat × Nat) :=
  let ctx := tag.toNat / 64
  let t := mget {} s.teams ctx
  ((((s.groupsOf ctx).map fun k => (gidOf k, (s.group k).slot, (s.group k).acc)) ++ t.past).find? fun x =>
    x.2.1 % 64 == tag.toNat % 64 && x.2.2 ≤ p && p < x.2.2 + t.accs).map fun x => (ctx, x.1 * t.accs + (p - x.2.2))

/-- Bytes of one unit's part of a spill frame (R169). -/
def frameUnit : Nat := 9280

/-- Accumulator `p` of a core goes to image `j` of a context's frame, which holds it then (R169, R279); contents that cannot be
corrected stay so there (R297). -/
def State.spillImage (s : State) (core p ctx j : Nat) : State :=
  let a := (mget {} s.teams ctx).frameImage j
  let s := units.foldl (fun t u =>
    let x := s.acc core u p
    (t.frameWrite (a + frameUnit * u) x.frame).setSliceErr (a + frameUnit * u) x.bad) s
  (s.updTeam ctx fun t => { t with images := mset j true t.images }).saveHeader ctx

/-- The null tag (R343). -/
def nullTag : BitVec 22 := 0x3FFFFF

/-- Spill accumulator `p` of a core to its owner's frame, unless the owner has ended (R279); the accumulators keep their
contents here. -/
def State.spill (s : State) (core p : Nat) : State :=
  match s.spillTo (s.acc core 0 p).tag p with
  | some (ctx, j) => s.spillImage core p ctx j
  | none => s

/-- The contents of an accumulator whose owner has ended go to the core's system scratch image, which the next such spill
replaces (R279; log entry 48). -/
def State.spillScratch (s : State) (core p : Nat) : State :=
  { s with sysImages := units.foldl (fun m u => mset (4 * core + u) (s.acc core u p) m) s.sysImages }

/-- The image that a claimant holds of an accumulator of its grant. -/
def State.imageHeld (s : State) (k p : Nat) : Bool :=
  (mfind (imageOf (s.teamOf k) k (p - (s.group k).acc)) (s.teamOf k).images).isSome

/-- The handler's spill of an accumulator that a group claims (R279): to the owner's frame; of one whose owner has ended, to
the scratch image, where the claimant holds no image. -/
def State.spillClaim (s : State) (core p k : Nat) : State :=
  let tag := (s.acc core 0 p).tag
  if (s.spillTo tag p).isSome then s.spill core p
  else if s.imageHeld k p || tag == nullTag then s else s.spillScratch core p

/-- An accumulator's contents cannot go to its owner's frame now (R334; log entry 81). -/
def State.accStuck (s : State) (core p : Nat) : Bool := (s.spillTo (s.acc core 0 p).tag p).any fun x => !s.frameUp x.1

/-- A unit's accumulator from an image, with a tag (R169): what cannot be read is an error that cannot be corrected. -/
def State.imageAcc (s : State) (a u : Nat) (tag : BitVec 22) : Acc :=
  match (s.frameRead (a + frameUnit * u) frameUnit).bind fun bs => accOfFrame bs tag with
  | some x => x
  | none => { Acc.fresh tag none with bad := true }

/-- Give accumulator `p` of a core to a group: filled from the image its team's frame holds, which is consumed, or
fresh, and tagged to the group (R279, R343). -/
def State.give (s : State) (core p k : Nat) : State :=
  let t := s.teamOf k
  let j := imageOf t k (p - (s.group k).acc)
  let tag := s.tagOf k
  let held := (mfind j t.images).isSome
  let s := units.foldl (fun v u => v.setAcc core u p
    (if held then s.imageAcc (t.frameImage j) u tag else .fresh tag none)) s
  if held then (s.updTeam (ctxOf k) fun t => { t with images := mdel j t.images }).saveHeader (ctxOf k) else s

/-- The accumulators among some of the group's that another context or slot holds, in some units (R234). Log entry 48. -/
def State.claims (s : State) (k : Nat) (is qs : List Nat) : List Nat :=
  let core := s.coreOf k
  let g := s.group k
  is.eraseDups.filter fun i => qs.any fun q => (s.acc core q (g.acc + i)).tag != s.tagOf k

/-- The system handler resolves an ACC_CLAIM (R279): the claimed accumulators are spilt and given to the claimant. -/
def State.resolveClaims (s : State) (k : Nat) (is : List Nat) : State :=
  is.foldl (fun t i =>
    let p := (t.group k).acc + i
    (t.spillClaim (t.coreOf k) p k).give (t.coreOf k) p k) s

/-- The handler cannot resolve a claim now: a frame that it writes or reads is on a fenced stack (R334; log entry 81). -/
def State.claimStuck (s : State) (k i : Nat) : Bool :=
  let p := (s.group k).acc + i
  s.accStuck (s.coreOf k) p || s.imageHeld k p && !s.frameUp (ctxOf k)

/-! ### Loads and stores within one instruction (R129, R169, R242) -/

/-- One word read by a core now: from its L1, else from its home, filling the line (R130, R292, R293). -/
def State.readNow (s : State) (core : Nat) (a : Nat) (rt : Route) : Got × State :=
  match rt with
  | .cached =>
    match s.l1Hit core a 15#4 with
    | some w => (.word w, s)
    | none =>
      let s := s.grant core a
      match s.l1 core a with
      | some x => (.word x.val, s)
      | none => (s.homeRead a, s.fillLine core (lineOf a))
  | _ => (s.routeGot a rt, s)

/-- The words of a range of a group's addresses, 4-aligned, checked before. -/
def State.rangeWords (s : State) (k va n : Nat) : List (Nat × Route) :=
  (List.range (n / 4)).map fun i => s.place k (va + 4 * i)

/-- A store of a range must wait: for the group's earlier accesses to its words, or for room in the L1 (R129, R293). -/
def State.rangeStuck (s : State) (k va n : Nat) : Bool :=
  ((s.rangeWords k va n).any fun w => s.storeBusy k w.1) || (rangeLines va n).any fun a => s.noWay k a

/-- A read of a range must wait: a line of it that the L1 does not hold finds its set full of lines with P words, or no free
miss slot (R293). -/
def State.readStuck (s : State) (k va n : Nat) : Bool :=
  let core := s.coreOf k
  let full := 256 ≤ s.missCount core
  (rangeLines va n).any (fun a => s.noWay k a) || full && (s.rangeWords k va n).any fun p =>
    p.2 == .cached && (s.l1Hit core p.1 15#4).isNone && !(mget false s.caches.miss (l1Key core (lineOf p.1)))

/-- Read words now: their values, or the first lost one's cause and its place in the list. -/
def State.readAll (s : State) (core : Nat) : List (Nat × Route) → List Word × Option (Cause × Nat) × State
  | [] => ([], none, s)
  | (a, rt) :: xs =>
    let p := s.readNow core a rt
    let q := p.2.readAll core xs
    match p.1 with
    | .word w => (w :: q.1, q.2.1.map (fun c => (c.1, c.2 + 1)), q.2.2)
    | .lost c => (0#32 :: q.1, some (c, 0), q.2.2)

/-- The bytes of words. -/
def wordsBytes (ws : List Word) : List Byte := ws.flatMap fun w => leBytes 4 w.toNat

/-- Store bytes of a 16-aligned range as the group's own stores of four words each (R218). -/
def State.storeRange (s : State) (k : Nat) : Nat → Nat → List Byte → State
  | 0, _, _ => s
  | n + 1, va, bs =>
    let ws := (List.range 4).map fun i => (va + 4 * i, 15#4, BitVec.ofNat 32 (leNat ((bs.drop (4 * i)).take 4)))
    ((s.enter k (ws.map Prod.fst)).storeLane k ws).storeRange k n (va + 16) (bs.drop 16)

/-- Every executing lane raises a cause at an address. -/
def allRaise (run : List Nat) (c : Cause) (a : Option Nat) : List Raised := run.map fun l => ⟨l, c, a⟩

end Sys2Proof.Machine
end

