-- ==== Sys2Proof/Machine/Matrix.lean ====
section
/-!
DEFINITION. Tile and matrix instructions (R226 to R246), and the events that complete an MMA and a CLASP.
-/

namespace Sys2Proof.Machine

/-! ### Tile shapes (R32, R228) -/

def Group.tc (g : Group) (t : Nat) : Nat := (mget 0 g.ctl.tc t : Word).toNat
def tcType (w : Nat) : Nat := bits w 3 0
def tcRows (w : Nat) : Nat := bits w 9 4 + 1
def tcRB (w : Nat) : Nat := 16 * (bits w 13 10 + 1)

/-- Rows and row bytes of a tile. -/
def Group.rows (g : Group) (t : Nat) : Nat := tcRows (g.tc t)
def Group.rb (g : Group) (t : Nat) : Nat := tcRB (g.tc t)

/-- Element bits of a resolved type; raw counts as 8 (R228). -/
def rtBits (rt : Nat) : Nat := if rt = 0 then 8 else elemBits rt

/-- Elements of a row. -/
def rowElems (rt rb : Nat) : Nat := rb * 8 / rtBits rt

/-- An INT3 row holds whole groups (R228). -/
def wholeRow (rt rb : Nat) : Bool := rt != 2 || rb % 48 == 0

/-- The place of a scale slot in the model's scale area. -/
def slotKey (r j : Nat) : Nat := 32 * r + j

/-- A scale slot of a tile: 1.0 where nothing else was set. -/
def Tile.scale (x : Tile) (r j : Nat) : BitVec 24 := mget (BitVec.ofNat 24 scaleOne) x.slots (slotKey r j)
def Tile.setScale (x : Tile) (r j : Nat) (v : BitVec 24) : Tile :=
  { x with slots := mput (BitVec.ofNat 24 scaleOne) x.slots (slotKey r j) v }

/-- The scale slots of a row become 1.0. -/
def Tile.plainRow (x : Tile) (r : Nat) : Tile := { x with slots := x.slots.filter fun p => p.1 / 32 != r }

/-- Write bytes of a tile. -/
def Tile.putBytes (x : Tile) : Nat → List Byte → Tile
  | _, [] => x
  | i, b :: bs => ({ x with bytes := mset i b x.bytes }).putBytes (i + 1) bs

/-- Bytes of a tile. -/
def Tile.getBytes (x : Tile) (i n : Nat) : List Byte := (List.range n).map fun j => x.byte (i + j)

/-- The pattern of element (r, c). -/
def Tile.elem (x : Tile) (rb r c : Nat) : Nat :=
  let b := rtBits x.rt
  leNat (x.getBytes (r * rb + c * b / 8) 5) / 2 ^ (c * b % 8) % 2 ^ b

/-- The address operand of the group: pair A of the lowest executing lane (R227). -/
def Rd.groupAddr (r : Rd) (f : Fields) : Option Nat := pairAddr (r.g.pair f.a.toNat (lowest r.ex))

/-- The mark of a tile that an instruction reads raises in every executing lane (R232). -/
def tileMark (g : Group) (ts : List Nat) (run : List Nat) : List Raised :=
  match ts.findSome? fun t => (g.tile t).mark with
  | some m => allRaise run m.cause (some m.addr)
  | none => []

/-! ### TLD (R229) -/

/-- A byte run as words to wait for. -/
def State.partAt (s : State) (k at_ va len : Nat) : TilePart :=
  let first := va / 4
  let last := (va + len - 1) / 4
  { at_ := at_, va := va, len := len,
    slots := (List.range (last + 1 - first)).map fun i => s.slotFor k (4 * (first + i)) 15#4 }

/-- A displaced address, where it stays in 0 to 2^57 − 1. -/
def addrPlus (base : Nat) (d : Int) : Option Nat :=
  let x := (base : Int) + d
  if 0 ≤ x ∧ x < 2 ^ 57 then some x.toNat else none

/-- Check ranges in order, each after the slice-pinned lines of those before it are held: the first failure. -/
def State.checkRanges (s : State) (w : Who) (kind : AKind) (align : Nat) : List (Nat × Nat) → Option (Cause × Option Nat)
  | [] => none
  | (a, n) :: rs =>
    if 2 ^ 57 < a + n then some (.illegalOpnd, none)
    else match s.checkRange w kind a n align anyHome with
      | .error (c, b) => some (c, some b)
      | .ok t => t.checkRanges w kind align rs

/-- The row addresses of a raw TLD or a TST: the first failure in row order (R227), or the runs (tile byte or column,
address, length). -/
def State.rawRows (s : State) (k : Nat) (kind : AKind) (base : Nat) (stride : Int) (n len align step : Nat) :
    Except (Cause × Option Nat) (List (Nat × Nat × Nat)) :=
  let rows := (List.range n).map fun (i : Nat) => (i * step, addrPlus base (stride * (i : Int)))
  let ok := rows.takeWhile fun p => p.2.isSome
  let runs := ok.map fun p => (p.1, p.2.getD 0, len)
  match s.checkRanges (s.who k) kind align (runs.map Prod.snd) with
  | some e => .error e
  | none => if ok.length < n then .error (.illegalOpnd, none) else .ok runs

/-- The checks of a TLD's shape (check 8). Log entry 47. -/
def tldLegal (f : Fields) (g : Group) : Bool :=
  let w := g.tc f.d.toNat
  let ty := tcType w
  if ty = 15 then f.sub == 0#8
  else f.c == 0#7 && !f.wb.getLsbD 2 && wholeRow ty (tcRB w) &&
    (f.sub == 0#8 || 8 ≤ rtBits ty && tcRows w * rtBits ty / 8 ≤ 256)

/-- The runs and scales of a format-aware TLD (R229): each row in runs of at most 32 elements. -/
def State.fxRows (s : State) (k : Nat) (lf : Leaf) (va : Nat) (rows rb n0 stride : Nat) :
    Except (Cause × Option Nat) (List (Nat × Nat × Nat) × List (Nat × Nat)) :=
  let e := rowElems lf.fmt rb
  let w := s.who k
  let run := min 32 e
  let bad := Except.error (Cause.fmtMismatch, some va)
  if lf.fmt = 0 ∨ !wholeRow lf.fmt rb ∨ (List.range rows).any fun r => (n0 + r * stride) % run != 0 then bad
  else
    let runs := (List.range rows).flatMap fun r => (List.range ((e + 31) / 32)).map fun j => (r, j)
    let z : Except (Cause × Option Nat) (State × List (Nat × Nat × Nat) × List (Nat × Nat)) := runs.foldl
      (fun acc p => match acc with
        | .error x => .error x
        | .ok (t, ps, ss) =>
          let n := n0 + p.1 * stride + 32 * p.2
          let len := min 32 (e - 32 * p.2)
          match elemPlace lf.fmt lf.blk lf.scl (2 ^ lf.size) n, elemPlace lf.fmt lf.blk lf.scl (2 ^ lf.size) (n + len - 1) with
          | some (_, bit, _), some _ =>
            let at_ := lf.va + bit / 8; let bytes := len * elemBits lf.fmt / 8
            match t.pinFail lf (rangeLines at_ bytes) with
            | some a => .error (.homeMismatch, some a)
            | none =>
              let t := t.pinAll k (rangeLines at_ bytes)
              match t.elemAt w lf va .load n with
              | .error (c, a) => .error (c, some a)
              | .ok x => .ok (t.pinAll k x.scale.toList,
                  ps ++ [(p.1 * rb + p.2 * 32 * elemBits lf.fmt / 8, at_, bytes)],
                  ss ++ x.scale.toList.map fun a => (slotKey p.1 p.2, a))
          | _, _ => .error (.fmtMismatch, some va)) (.ok (s, [], []))
    z.map Prod.snd

/-- Issue the loads of a TLD: the tile empty, its type resolved, a count on LD. -/
def State.issueTile (s : State) (k t rt eb rb : Nat) (runs : List (Nat × Nat × Nat)) (scales : List (Nat × Nat)) : Res :=
  let ps := runs.map fun p => s.partAt k p.1 p.2.1 p.2.2
  let ss := scales.map fun p => (p.1, s.slotFor k p.2 15#4)
  let sls := ps.flatMap TilePart.slots ++ ss.map Prod.snd
  let core := s.coreOf k
  if (sls.any fun sl => s.loadBusy k sl.addr) || !s.missRoom core sls || !(s.group k).countRoom 0 then .wait s
  else
    let s := (s.touchAll k ((runs.flatMap fun p => rangeLines p.2.1 p.2.2) ++ scales.map Prod.snd) false).takeMisses k sls
    let s := s.updGroup k fun g => g.setTile t { g.tile t with full := false, rt := rt }
    .done (s.addOp k 0 (.tile t ps eb rb ss)) []

def execTld (f : Fields) (s : State) : Out :=
  let d := f.d.toNat
  let fx := tcType ((s.group s.cur).tc d) == 15
  .next (issue 0x80 f (fun _ g => tldLegal f g) fx true (fun s k ex run =>
    let g := s.group k
    let r : Rd := ⟨g, ex, run⟩
    let l := lowest ex
    let b := g.reg f.b.toNat l
    match r.groupAddr f with
    | none => .trap s (allOpnd run)
    | some va =>
      if fx then
        match s.checkPage (s.who k) .load va 1 anyHome none false with
        | .error c => .trap s (allRaise run c (some va))
        | .ok lf => match s.fxRows k lf va (g.rows d) (g.rb d) (g.reg f.c.toNat l).toNat b.toNat with
          | .error (c, a) => .trap s (allRaise run c a)
          | .ok (ps, ss) => s.issueTile k d lf.fmt 0 (g.rb d) ps ss
      else
        let ty := tcType (g.tc d)
        let eb := rtBits ty / 8
        let rows := if f.sub = 1#8 then
            s.rawRows k .load va b.toInt (rowElems ty (g.rb d)) (g.rows d * eb) eb 1
          else s.rawRows k .load va b.toInt (g.rows d) (g.rb d) 16 (g.rb d)
        match rows with
        | .error (c, a) => .trap s (allRaise run c a)
        | .ok ps => s.issueTile k d ty (if f.sub = 1#8 then eb else 0) (g.rb d) ps []) s)

/-- The bytes of a run from its words. -/
def TilePart.data (p : TilePart) (ws : List Word) : List Byte := ((wordsBytes ws).drop (p.va % 4)).take p.len

/-- Place a run in a tile: at a byte, or under .tr as column `at_`, element bytes `eb`, row bytes `rb`. -/
def Tile.place (x : Tile) (eb rb : Nat) (p : TilePart) (ws : List Word) : Tile :=
  if eb = 0 then x.putBytes p.at_ (p.data ws)
  else ((List.range (p.len / eb)).zip (chunks eb (p.len / eb) (p.data ws))).foldl
    (fun y q => y.putBytes (q.1 * rb + p.at_ * eb) q.2) x

/-- Answer the slots of runs in order. -/
def State.answerParts (s : State) : List TilePart → List (Option Word) → List (TilePart × List (Option Got)) × List (Option Word)
  | [], rs => ([], rs)
  | p :: ps, rs =>
    let q := s.answers p.slots rs
    let z := s.answerParts ps q.2
    ((p, q.1) :: z.1, z.2)

/-- The mark of the first word that is lost, in order: its cause and its address (R232). -/
def firstLost (xs : List (Slot × Option Got)) : Option Mark := xs.findSome? fun p => match p.2 with
  | some (.lost c) => some ⟨c, p.1.va⟩
  | _ => none

/-- TLD completes (R229, R232). -/
def State.landTile (s : State) (k oid : Nat) (reply : List (Option Word)) : State :=
  match (s.group k).findOp oid with
  | some o =>
    match o.kind with
    | .tile t ps eb rb ss =>
      let a := s.answerParts ps reply
      let b := s.answers (ss.map Prod.snd) a.2
      let vals := a.1.flatMap Prod.snd ++ b.1
      if vals.any Option.isNone then s
      else
        let g := s.group k
        let x := g.tile t
        let y : Tile := match firstLost ((ps.flatMap TilePart.slots ++ ss.map Prod.snd).zip vals) with
          | some m => { x with bytes := [], free := some (s.tick, t), slots := [], mark := some m }
          | none =>
            let x := a.1.foldl (fun (y : Tile) (p : TilePart × List (Option Got)) =>
              y.place eb rb p.1 (p.2.filterMap fun v => v.map Got.toWord)) { x with slots := [], mark := none }
            ((ss.map Prod.fst).zip (b.1.filterMap fun v => v.map Got.toWord)).foldl
              (fun (y : Tile) (p : Nat × Word) => y.setScale (p.1 / 32) (p.1 % 32) (p.2.setWidth 24)) x
        let g := g.setTile t { y with full := true }
        (s.setGroup k (g.updOp o.id fun z => { z with done := true })).retire k
    | _ => s
  | none => s

/-- A long-latency result lands: a quarter of a load, or a tile (R25, R229). -/
def execLoadDataReturn (g op q : Nat) (reply : List (Option Word)) (s : State) : Out :=
  .next ((s.landQuarter g op q reply).landTile g op reply)

/-! ### TST, TMOV (R230, R231) -/

def execTst (f : Fields) (s : State) : Out :=
  .next (issue 0x81 f (fun _ _ => true) false true (fun s k ex run =>
    let g := s.group k
    let r : Rd := ⟨g, ex, run⟩
    let c := f.c.toNat
    match tileMark g [c] run with
    | m :: ms => .trap s (m :: ms)
    | [] => match r.groupAddr f with
      | none => .trap s (allOpnd run)
      | some va =>
        match s.rawRows k .store va (g.reg f.b.toNat (lowest ex)).toInt (g.rows c) (g.rb c) 16 (g.rb c) with
        | .error (e, a) => .trap s (allRaise run e a)
        | .ok ps =>
          if ps.any fun (p : Nat × Nat × Nat) => s.rangeStuck k p.2.1 p.2.2 then .wait s
          else
            let s := s.touchAll k (ps.flatMap fun p => rangeLines p.2.1 p.2.2) true
            .done (ps.foldl (fun t p =>
              t.storeRange k (p.2.2 / 16) p.2.1 ((g.tile c).getBytes p.1 p.2.2)) s) []) s)

/-- TMOV .tt and .rt's conditions on the tiles (check 8). -/
def tmovLegal (f : Fields) (g : Group) : Bool :=
  let d := f.d.toNat
  if f.sub = 0#8 then
    let a := f.a.toNat
    g.rows d == g.rows a && g.rb d == g.rb a && (tcType (g.tc d) == 15 || tcType (g.tc d) == (g.tile a).rt) &&
      wholeRow (g.tile a).rt (g.rb d)
  else if f.sub = 1#8 then wholeRow (tcType (g.tc d)) (g.rb d)
  else true

/-- TMOV .rt: the lanes write their registers into rows of D. -/
def tmovIn (g : Group) (d rb : Nat) (ls : List (Nat × Nat × Word)) : Tile :=
  let x := ls.foldl (fun x p =>
    if 4 * p.1 + 4 ≤ rb then (x.putBytes (p.2.1 * rb + 4 * p.1) (leBytes 4 p.2.2.toNat)).plainRow p.2.1 else x) (g.tile d)
  let ty := tcType (g.tc d)
  if ls.isEmpty then x else { x with rt := if ty = 15 then 0 else ty }

def execTmov (f : Fields) (s : State) : Out :=
  .next (issue 0x82 f (fun _ g => tmovLegal f g) false true (fun s k ex run =>
    let g := s.group k
    let d := f.d.toNat; let a := f.a.toNat
    let row := fun l => (g.reg f.b.toNat (laneB f ex l)).toNat
    match (if f.sub = 1#8 then [] else tileMark g [a] run) with
    | m :: ms => .trap s (m :: ms)
    | [] =>
      if f.sub = 0#8 then
        .done (s.setGroup k (if a = d then g else g.setTile d (g.tile a))) []
      else
        let rows := if f.sub = 1#8 then g.rows d else g.rows a
        let ok := run.filter fun l => row l < rows
        let bad := (run.filter fun l => !(row l < rows)).map fun l => ⟨l, .illegalOpnd, none⟩
        if f.sub = 1#8 then
          .done (s.setGroup k (g.setTile d (tmovIn g d (g.rb d) (ok.map fun l => (l, row l, g.reg a l))))) bad
        else
          .done (s.setGroup k (g.setRegs d ok fun l =>
            if 4 * l + 4 ≤ g.rb a then
              BitVec.ofNat 32 (leNat ((g.tile a).getBytes (row l * g.rb a + 4 * l) 4))
            else 0#32)) bad) s)

/-! ### MMA (R233 to R236) -/

/-- The pair of formats that an MMA code names (R73, R233). -/
def mmaPair (code : Nat) : Option (Nat × Nat) :=
  match code with
  | 0 => some (3, 3) | 1 => some (3, 4) | 2 => some (4, 3) | 3 => some (4, 4) | 4 => some (5, 5)
  | 5 => some (3, 1) | 6 => some (4, 1) | 7 => some (3, 2) | 8 => some (4, 2) | 9 => some (5, 1) | 10 => some (5, 2)
  | _ => none

/-- The default anchor of a pair (R123). -/
def pairAnchor (a : Nat) : Int := if a = 5 then -64 else -40

/-- The shape check of MMA (check 8). -/
def mmaLegal (f : Fields) (g : Group) : Bool :=
  let a := f.a.toNat; let b := f.b.toNat
  let ka := rowElems (g.tile a).rt (g.rb a)
  let kb := rowElems (g.tile b).rt (g.rb b)
  (g.rows a == 16 || g.rows a == 64) && g.rows b == 32 && ka == kb &&
    ka % (if (g.tile b).rt == 1 || (g.tile b).rt == 2 then 32 else 16) == 0

/-- The tiles' formats form the pair that the instruction names. -/
def mmaFormats (f : Fields) (g : Group) : Bool :=
  let rt := ((g.tile f.a.toNat).rt, (g.tile f.b.toNat).rt)
  let code := bits f.sub.toNat 3 0
  if code = 11 then (List.range 11).any fun c => mmaPair c == some rt else mmaPair code == some rt

/-- The decoded elements of a tile row, with the values of their scales. -/
def Tile.row (x : Tile) (rb r n : Nat) : List (Val × Val) :=
  (List.range n).map fun c => (elemVal x.rt (x.elem rb r c), scaleVal (x.scale r (c / 32)).toNat)

/-- The terms of one element of the product, in order of k (R122, R235). -/
def dotTerms (xs ws : List (Val × Val)) : List (Option (Int × Int)) :=
  (xs.zip ws).map fun p => exactProduct p.1.1 p.2.1 p.1.2 p.2.2

/-- The product of one quarter's rows of A with B, entered into its accumulator (R235). -/
def mmaQuarter (arows brows : List (List (Val × Val))) (a : Acc) : Acc :=
  ((List.range 16).zip arows).foldl (fun a p =>
    ((List.range 32).zip brows).foldl (fun a q => a.enter (32 * p.1 + q.1) (dotTerms p.2 q.2)) a) a

/-- An earlier MMA of the group into some accumulators has not completed (R236). -/
def Group.mmaOn (g : Group) (is : List Nat) : Bool :=
  g.ops.any fun o => match o.kind with
    | .mma i => !o.done && is.contains i
    | _ => false

/-- Touch accumulators (R234, R236): claims go to the system and the instruction executes again; an earlier MMA into
one of them is awaited unless `fills`; contents that cannot be corrected are lost to an instruction that `reads` them
(R297). -/
def withAccs (s : State) (k : Nat) (is run : List Nat) (fills reads : Bool) (body : List Nat → Res) : Res :=
  let qs := quartersOf run
  match s.claims k is qs with
  | c :: cs =>
    if (c :: cs).any (s.claimStuck k) then .wait s else .trap (s.resolveClaims k (c :: cs)) (allRaise run .accClaim none)
  | [] =>
    if !fills && (s.group k).mmaOn is then .wait s
    else if reads && qs.any fun q => is.any fun i => (s.acc (s.coreOf k) q ((s.group k).acc + i)).bad then
      .trap s (allRaise run .dataLost none)
    else body qs

def execMma (f : Fields) (s : State) : Out :=
  .next (issue 0x83 f (fun _ g => mmaLegal f g) false true (fun s k _ run =>
    let g := s.group k
    let a := f.a.toNat; let b := f.b.toNat; let d := f.d.toNat
    match tileMark g [a, b] run with
    | m :: ms => .trap s (m :: ms)
    | [] => withAccs s k [d] run true true fun qs =>
      if !mmaFormats f g then .trap s (allRaise run .fmtMismatch none)
      else if f.sub.getLsbD 4 && !g.countRoom 3 then .wait s
      else
        let ta := g.tile a; let tb := g.tile b
        let n := rowElems ta.rt (g.rb a)
        let brows := (List.range 32).map fun r => tb.row (g.rb b) r n
        let core := s.coreOf k
        let s' := qs.foldl (fun t q =>
          let ra := if g.rows a = 64 then 16 * q else 0
          let arows := (List.range 16).map fun r => ta.row (g.rb a) (ra + r) n
          t.setAcc core q (g.acc + d)
            (mmaQuarter arows brows ((t.acc core q (g.acc + d)).anchored (pairAnchor ta.rt)))) s
        .done (if f.sub.getLsbD 4 then s'.addOp k 3 (.mma d) else s') []) s)

/-- An asynchronous MMA has completed in every executing unit (R236). -/
def execMmaComplete (g op : Nat) (s : State) : Out :=
  .next (match (s.group g).findOp op with
    | some o => match o.kind with
      | .mma _ => (s.updGroup g fun x => x.updOp op fun y => { y with done := true }).retire g
      | _ => s
    | none => s)

/-! ### Accumulator instructions (R237 to R240) -/

def execAccz (f : Fields) (s : State) : Out :=
  .next (issue 0x84 f (fun _ _ => true) false true (fun s k _ run =>
    withAccs s k [f.d.toNat] run false false fun qs =>
      .done (qs.foldl (fun t q => t.setAcc (t.coreOf k) q ((t.group k).acc + f.d.toNat) (.fresh (t.tagOf k) none)) s) []) s)

def execAccwin (f : Fields) (s : State) : Out :=
  .next (issue 0x85 f (fun _ _ => true) false true (fun s k ex run =>
    withAccs s k [f.d.toNat] run false false fun qs =>
      let g := s.group k
      let n := fun q => (g.reg f.a.toNat (lowest (ex.filter fun l => quarter l == q))).toInt
      let ok := fun q => -2048 ≤ n q && n q ≤ 2047
      .done (qs.foldl (fun t q =>
          if ok q then t.setAcc (t.coreOf k) q (g.acc + f.d.toNat) (.fresh (t.tagOf k) (some (n q))) else t) s)
        ((run.filter fun l => !ok (quarter l)).map fun l => ⟨l, .illegalOpnd, none⟩)) s)

/-- The FMT code and element bits of a readout format (R238, R239). -/
def fcFmt (fc : Nat) : Nat :=
  match fc with
  | 0 => 7 | 1 => 5 | 2 => 6 | 3 => 3 | 4 => 4 | _ => 8
def fcBits (fc : Nat) : Nat := (fmtOf fc).width

/-- Read elements of a unit's accumulator; the overflow flag gathers (R124). -/
def Acc.readMany (a : Acc) (is : List Nat) (f : Fmt) (ovf : Bool) : List Nat × Acc :=
  let xs := is.map fun i => a.read i f ovf
  (xs.map Prod.fst, { a with ovf := a.ovf || xs.any Prod.snd })

/-- Patterns of `b` bits packed from the low end. -/
def packList (b : Nat) : List Nat → Nat
  | [] => 0
  | x :: xs => x + 2 ^ b * packList b xs

/-- The condition of ACCRD .tile on D (check 8). -/
def accrdLegal (f : Fields) (g : Group) : Bool :=
  let fc := bits f.sub.toNat 2 0
  !f.sub.getLsbD 4 || tcType (g.tc f.d.toNat) == fcFmt fc && g.rb f.d.toNat == 32 * fcBits fc / 8

/-- ACCRD .tile: the rows of the executing quarters (R239). The tile's mark goes where they are the whole tile (R232). -/
def accrdTile (s : State) (k : Nat) (f : Fields) (qs : List Nat) : State :=
  let g := s.group k
  let fc := bits f.sub.toNat 2 0; let b := fcBits fc; let rb := 32 * b / 8
  let core := s.coreOf k
  let p := g.acc + f.a.toNat
  let one := fun (z : Tile × State) q =>
    let a := z.2.acc core q p
    let rd := a.readMany accIndexes (fmtOf fc) (f.sub.getLsbD 3)
    let x := (List.range 16).foldl (fun (x : Tile) m =>
      (x.putBytes ((16 * q + m) * rb) (leBytes rb (packList b ((rd.1.drop (32 * m)).take 32)))).plainRow (16 * q + m)) z.1
    (x, z.2.setAcc core q p rd.2)
  let z := qs.foldl one (g.tile f.d.toNat, s)
  let whole := (List.range (g.rows f.d.toNat)).all fun r => qs.contains (r / 16)
  z.2.updGroup k fun g => g.setTile f.d.toNat { z.1 with rt := fcFmt fc, mark := if whole then none else z.1.mark }

/-- ACCRD to registers: each lane's four columns of its row (R238). -/
def accrdLane (s : State) (k : Nat) (f : Fields) (l m : Nat) : List (Nat × Word) × State :=
  let fc := bits f.sub.toNat 2 0; let b := fcBits fc
  let core := s.coreOf k; let q := quarter l
  let p := (s.group k).acc + f.a.toNat
  let rd := (s.acc core q p).readMany ((List.range 4).map fun i => 32 * m + 4 * (l - 8 * q) + i) (fmtOf fc) (f.sub.getLsbD 3)
  let n := packList b rd.1
  ((List.range (max 1 (b / 8))).map fun i => (f.d.toNat + i, BitVec.ofNat 32 (n / 2 ^ (32 * i))), s.setAcc core q p rd.2)

def execAccrd (f : Fields) (s : State) : Out :=
  .next (issue 0x86 f (fun _ g => accrdLegal f g) false true (fun s k ex run =>
    let g := s.group k
    let tile := f.sub.getLsbD 4
    if tile && !(quartersOf run).all fun q => 16 * q + 16 ≤ g.rows f.d.toNat then .trap s (allOpnd run)
    else withAccs s k [f.a.toNat] run false true fun qs =>
      if tile then .done (accrdTile s k f qs) []
      else
        let row := fun l => (g.reg f.b.toNat (if f.u then lowest ex else operandLane 0x86 f ex l)).toNat
        let ok := run.filter fun l => row l < 16
        let z := ok.foldl (fun (z : List LaneLoad × State) l =>
          let p := accrdLane z.2 k f l (row l)
          (z.1 ++ [⟨l, 0, [], .known p.1⟩], p.2)) ([], s)
        let regs := (List.range (max 1 (fcBits (bits f.sub.toNat 2 0) / 8))).map fun i => f.d.toNat + i
        let s := z.2.updGroup k fun g => regs.foldl (fun h d => h.setEmpty d (quartersOf ok) true) g
        .done (if ok.isEmpty then s else s.addOp k 6 (.load z.1 regs (quartersOf ok)))
          ((run.filter fun l => !(row l < 16)).map fun l => ⟨l, .illegalOpnd, none⟩)) s)

/-- ACCADD's sum of one unit (R240). -/
def accSum (d a : Acc) : Acc :=
  match a.anchor with
  | none => d
  | some n =>
    let x := accIndexes.foldl (fun (x : Acc) i => if (a.el i) = {} then x else x.enter i [(a.el i).term n]) (d.anchored n)
    { x with inx := x.inx || a.inx, ovf := x.ovf || a.ovf }

def execAccadd (f : Fields) (s : State) : Out :=
  .next (issue 0x87 f (fun _ _ => true) false true (fun s k _ run =>
    withAccs s k [f.d.toNat, f.a.toNat] run false true fun qs =>
      let core := s.coreOf k; let b := (s.group k).acc
      .done (qs.foldl (fun t q =>
        t.setAcc core q (b + f.d.toNat) (accSum (t.acc core q (b + f.d.toNat)) (t.acc core q (b + f.a.toNat)))) s) []) s)

/-! ### ACCLD, ACCST (R242) -/

/-- Bytes of one unit's image. -/
def imageBytes : Nat := 8256

/-- The base of an image or frame: the lowest executing lane's pair, 64-aligned. -/
def imageBase (r : Rd) (f : Fields) : Except (Cause × Option Nat) Nat :=
  match r.groupAddr f with
  | none => .error (.illegalOpnd, none)
  | some va => if va % 64 ≠ 0 then .error (.misaligned, some va) else .ok va

/-- The image that ACCST writes, and the accumulator with its flags after. -/
def Acc.image (a : Acc) : List Byte × Acc :=
  let rs := accIndexes.map fun i => (a.el i).record
  let a := { a with ovf := a.ovf || rs.any Prod.snd }
  (accHeader a.anchor a.inx a.ovf 0 ++ rs.flatMap fun r => leBytes 16 r.1, a)

def execAccst (f : Fields) (s : State) : Out :=
  .next (issue 0x89 f (fun _ _ => true) false true (fun s k ex run =>
    let g := s.group k
    withAccs s k [f.b.toNat] run false true fun qs =>
      match imageBase ⟨g, ex, run⟩ f with
      | .error (c, a) => .trap s (allRaise run c a)
      | .ok base =>
        let rs := qs.map fun q => (base + imageBytes * q, imageBytes)
        match s.checkRanges (s.who k) .store 1 rs with
        | some (c, a) => .trap s (allRaise run c a)
        | none =>
          if rs.any fun p => s.rangeStuck k p.1 p.2 then .wait s
          else
            let s := s.touchAll k (rs.flatMap fun p => rangeLines p.1 p.2) true
            let core := s.coreOf k; let p := g.acc + f.b.toNat
            .done (qs.foldl (fun t q =>
              let im := (t.acc core q p).image
              (t.setAcc core q p im.2).storeRange k (imageBytes / 16) (base + imageBytes * q) im.1) s) []) s)

/-- Enter an image into an accumulator: the header's anchor and flags, and each record as a term. -/
def Acc.enterImage (d : Acc) (h : Option Int × Bool × Bool × Nat) (recs : List Nat) : Acc :=
  let x := match h.1 with
    | none => d
    | some n => (accIndexes.zip recs).foldl
      (fun (x : Acc) (p : Nat × Nat) => if p.2 = 0 then x else x.enter p.1 [recordTerm p.2 n]) (d.anchored n)
  { x with inx := x.inx || h.2.1, ovf := x.ovf || h.2.2.1 }

/-- Read the bytes of a checked range now (R129): the bytes, or the first lost word's cause and address. -/
def State.readRange (s : State) (k va n : Nat) : List Byte × Option (Cause × Nat) × State :=
  let p := s.readAll (s.coreOf k) (s.rangeWords k va n)
  (wordsBytes p.1, p.2.1.map fun c => (c.1, va + 4 * c.2), p.2.2)

/-- Read several ranges. -/
def State.readRanges (s : State) (k : Nat) : List (Nat × Nat) → List (List Byte) × Option (Cause × Nat) × State
  | [] => ([], none, s)
  | p :: ps =>
    let x := s.readRange k p.1 p.2
    let y := x.2.2.readRanges k ps
    (x.1 :: y.1, x.2.1.or y.2.1, y.2.2)

def execAccld (f : Fields) (s : State) : Out :=
  .next (issue 0x88 f (fun _ _ => true) false true (fun s k ex run =>
    let g := s.group k
    withAccs s k [f.d.toNat] run false true fun qs =>
      match imageBase ⟨g, ex, run⟩ f with
      | .error (c, a) => .trap s (allRaise run c a)
      | .ok base =>
        let rs := qs.map fun q => (base + imageBytes * q, imageBytes)
        match s.checkRanges (s.who k) .load 1 rs with
        | some (c, a) => .trap s (allRaise run c a)
        | none =>
          if rs.any fun p => ((s.rangeWords k p.1 p.2).any fun w => s.loadBusy k w.1) || s.readStuck k p.1 p.2 then .wait s
          else
            let z := (s.touchAll k (rs.flatMap fun (p : Nat × Nat) => rangeLines p.1 p.2) false).readRanges k rs
            let hs := z.1.map readHeader
            match z.2.1 with
            | some (c, a) => .trap z.2.2 (allRaise run c (some a))
            | none =>
              if hs.any Option.isNone then .trap z.2.2 (allOpnd run)
              else
                let core := s.coreOf k; let p := g.acc + f.d.toNat
                .done ((qs.zip ((hs.filterMap id).zip z.1)).foldl (fun t x =>
                  t.setAcc core x.1 p ((t.acc core x.1 p).enterImage x.2.1
                    ((chunks 16 512 (x.2.2.drop 0x40)).map leNat))) z.2.2) []) s)

/-! ### CLASP (R243 to R245) -/

/-- CLASP's conditions on the tiles (check 8). -/
def claspLegal (f : Fields) (g : Group) : Bool :=
  g.rows f.d.toNat == g.rows f.a.toNat && g.rb f.d.toNat == g.rb f.a.toNat && g.rows f.a.toNat % 2 == 0 &&
    wholeRow (g.tile f.a.toNat).rt (g.rb f.d.toNat)

/-- The sides that wait in a cluster's bridge. -/
def State.sidesOf (s : State) (cluster : Nat) : List (Nat × ClaspSide) :=
  s.groups.filterMap fun p =>
    if !isPolicy p.1 && clusterOf (s.coreOf p.1) == cluster then p.2.wait.clasp.map fun c => (p.1, c) else none

/-- Two sides match (R243). -/
def State.sidesMatch (s : State) (k j : Nat) (x y : ClaspSide) : Bool :=
  x.partner == s.coreOf j && y.partner == s.coreOf k && x.tag == y.tag && x.hi != y.hi

/-- The oldest pending side that fits a side. -/
def State.fitting (s : State) (k : Nat) (x : ClaspSide) : Option (Nat × ClaspSide) :=
  let ys := (s.groups.filterMap fun p => if isPolicy p.1 || p.1 == k then none else p.2.wait.clasp.map fun c => (p.1, c)).filter
    fun p => s.sidesMatch k p.1 x p.2
  ys.foldl (fun m p => match m with
    | none => some p
    | some q => if p.2.order < q.2.order then some p else some q) none

/-- The tile after an exchange: one half of A and one half of the partner's tile, with their scale slots (R244). -/
def claspTile (g h : Group) (x y : ClaspSide) : Tile :=
  let own := g.tile x.a; let oth := h.tile y.a
  let rows := g.rows x.a; let rb := g.rb x.a
  let half := rows / 2 * rb
  let lo := if x.hi then oth.getBytes 0 half else own.getBytes 0 half
  let hi := if x.hi then own.getBytes half half else oth.getBytes half half
  let pick := fun (t : Tile) (up : Bool) => t.slots.filter fun p => (p.1 / 32 < rows / 2) != up
  let slots := pick (if x.hi then oth else own) false ++ pick (if x.hi then own else oth) true
  let d := ({ g.tile x.d with slots := slots, rt := own.rt, mark := none } : Tile)
  { d.putBytes 0 (lo ++ hi) with full := true }

/-- A side is withdrawn: D keeps its data and becomes full (R245). -/
def State.withdraw (s : State) (k : Nat) : State :=
  match (s.group k).wait.clasp with
  | some x => s.updGroup k fun g =>
      { g.setTile x.d { g.tile x.d with full := true } with wait := { g.wait with clasp := none } }
  | none => s

/-- A side traps: its lanes raise, and the lanes that its guards exclude pass over the instruction (R65). -/
def State.claspTrap (s : State) (k : Nat) (x : ClaspSide) (c : Cause) : State :=
  (s.pass k x.passed (formLen .x)).takeTrap k (allRaise x.lanes c none)

/-- The exchange of two sides that match: each D is written, or both raise ILLEGAL_OPND where the shapes differ. -/
def State.exchange (s : State) (k j : Nat) (x y : ClaspSide) : State :=
  let g := s.group k; let h := s.group j
  if g.rows x.a = h.rows y.a ∧ g.rb x.a = h.rb y.a ∧ (g.tile x.a).rt = (h.tile y.a).rt then
    let fin := fun (g : Group) (d : Nat) (t : Tile) =>
      { g.setTile d t with wait := { g.wait with clasp := none, claspDone := true } }
    (s.setGroup k (fin g x.d (claspTile g h x y))).setGroup j (fin h y.d (claspTile h g y x))
  else
    (((s.withdraw k).withdraw j).claspTrap k x .illegalOpnd).claspTrap j y .illegalOpnd

/-- The exchange of two groups, where each side is the oldest that fits the other. -/
def State.exchangeOf (s : State) (g h : Nat) : State :=
  match (s.group g).wait.clasp, (s.group h).wait.clasp with
  | some x, some y =>
    if (s.fitting g x).map Prod.fst = some h ∧ (s.fitting h y).map Prod.fst = some g then s.exchange g h x y else s
  | _, _ => s

/-- The partner side has arrived: the exchange of groups `g` and `h` completes. -/
def execClaspExchange (g h : Nat) (s : State) : Out := .next (s.exchangeOf g h)

/-- The exchange that a waiting side of a group can make completes (R245). -/
def State.exchangeDue (s : State) (k : Nat) : State :=
  match ((s.group k).wait.clasp.bind fun x => s.fitting k x).map Prod.fst with
  | some j => s.exchangeOf k j
  | none => s

/-- CLTMO core cycles have passed since the side's issue (R245). -/
def execClaspTimeout (g : Nat) (s : State) : Out :=
  .next (match (s.group g).wait.clasp with
    | some x =>
      if (s.group g).ctl.cltmo = 0#32 ∨ x.cycles < (s.group g).ctl.cltmo.toNat then s
      else (s.withdraw g).claspTrap g x .claspTimeout
    | none => s)

/-- Put the group's side into the bridge: D empty, the group waits. -/
def claspEnter (f : Fields) (s : State) (ex run : List Nat) (k : Nat) : Res :=
  let g := s.group k
  let l := lowest ex
  let b := g.reg f.b.toNat l; let c := g.reg f.c.toNat l
  let cl := clusterOf (s.coreOf k)
  match tileMark g [f.a.toNat] run with
  | m :: ms => .trap s (m :: ms)
  | [] =>
    if 256 ≤ b.toNat ∨ 65536 ≤ c.toNat ∨ clusterOf b.toNat = cl then .trap s (allOpnd run)
    else if 32 ≤ (s.sidesOf cl).length then .wait s
    else
      let side : ClaspSide :=
        { partner := b.toNat, tag := c.toNat, hi := f.sub == 1#8, d := f.d.toNat, a := f.a.toNat, lanes := run,
          passed := g.atIssue.filter (fun l => !ex.contains l), order := s.nextId }
      let g := { g.setTile f.d.toNat { g.tile f.d.toNat with full := false } with wait := { g.wait with clasp := some side } }
      .wait { s.setGroup k g with nextId := s.nextId + 1 }

/-- CLASP: a side enters the bridge; the group stays until the exchange has completed. -/
def execClasp (f : Fields) (s : State) : Out :=
  .next (
    if (s.group s.cur).wait.clasp.isSome then s.stall
    else issue 0x8A f (fun _ g => claspLegal f g) false true (fun s k ex run =>
      if (s.group k).wait.claspDone then
        .done (s.updGroup k fun g => { g with wait := { g.wait with claspDone := false } }) []
      else claspEnter f s ex run k) s)

end Sys2Proof.Machine
end

