-- ==== Sys2Proof/Machine/Engines.lean ====
section
/-!
DEFINITION. Asynchronous engine instructions (R247 to R263), barrier objects (R261, R262), and the events that move an
engine operation on.
-/

namespace Sys2Proof.Machine

/-! ### Pages of an operation (R248) -/

/-- Fields of a descriptor. -/
def dfld (d : List Byte) (off n : Nat) : Nat := leNat ((d.drop off).take n)
def dint (d : List Byte) (off n : Nat) : Int := signExt (dfld d off n) (8 * n)

/-- Checks that gather the pages they pass: the pages, with the state in which their slice-pinned lines are held, or the first
failing cause and address. -/
abbrev Pages := Except (Cause × Nat) (Map Leaf × State)

/-- Check a range of bytes of an engine and add its pages. -/
def addRange (w : Who) (kind : AKind) (homes : List Nat) (p : Pages) (va n : Nat) : Pages :=
  if n = 0 then p
  else (unitsOf va n).foldl (fun p u => match p with
    | .error e => .error e
    | .ok (m, t) => (t.checkUnit w kind homes u.1 u.2).map fun x => (mset (u.1 / 65536) x.1 m, x.2)) p

/-- The leaf that an operation uses for an address. -/
def EngineOp.leaf (e : EngineOp) (va : Nat) : Option Leaf := mfind (va / 65536) e.pages

/-- The word of an address that an engine reads at its home (R145). -/
def State.engineRead (s : State) (l : Leaf) (va : Nat) : Except Cause Word :=
  match s.routeGot (l.ha va / 4 * 4) l.route with
  | .word w => .ok w
  | .lost c => .error c

/-- A byte of a word, by its address. -/
def byteAt (w : Word) (va : Nat) : Byte := (w >>> (8 * (va % 4))).setWidth 8

/-- A byte that an engine reads at its home. -/
def State.engineByte (s : State) (l : Leaf) (va : Nat) : Except Cause Byte := (s.engineRead l va).map fun w => byteAt w (l.ha va)

/-- The byte of an operation's address; a page that the operation does not hold reads as lost. -/
def State.opByte (s : State) (e : EngineOp) (va : Nat) : Except (Cause × Nat) Byte :=
  match e.leaf va with
  | some l => match s.engineByte l va with
    | .ok b => .ok b
    | .error c => .error (c, va)
  | none => .error (.dataLost, va)

/-- Consecutive bytes. -/
def State.opBytes (s : State) (e : EngineOp) (va n : Nat) : Except (Cause × Nat) (List Byte) :=
  (List.range n).foldr (fun i acc => match acc with
    | .error x => .error x
    | .ok bs => match s.opByte e (va + i) with
      | .ok b => .ok (b :: bs)
      | .error x => .error x) (.ok [])

/-- A little-endian number. -/
def State.opNum (s : State) (e : EngineOp) (va n : Nat) : Except (Cause × Nat) Nat :=
  match s.opBytes e va n with
  | .ok bs => .ok (leNat bs)
  | .error x => .error x

/-- The words that an operation writes, by the key of their homes: virtual address, bytes and data. -/
abbrev WordMap := Map (Nat × BitVec 4 × Word)

/-- The key of a word's home: its address there, apart for a memory controller. -/
def EngineOp.homeKey (e : EngineOp) (va : Nat) : Option Nat :=
  (e.leaf va).map fun l => 2 * l.ha (va / 4 * 4) + (l.route == .controller).toNat

/-- Add a byte to the words to write. Of bytes named twice, by one address or by two that name one word (R54), the later
remains (R10, R253). -/
def EngineOp.putMap (e : EngineOp) (m : WordMap) (va : Nat) (b : Byte) : WordMap :=
  match e.homeKey va with
  | none => m
  | some k =>
    let mask := BitVec.twoPow 4 (va % 4)
    let m := if m.any fun p => p.1 != k && paOf (p.1 / 2) == paOf (k / 2) then
        m.map fun p => if p.1 != k && paOf (p.1 / 2) == paOf (k / 2) then
          (p.1, p.2.1, p.2.2.1 &&& ~~~mask, p.2.2.2) else p
      else m
    let x := mget (va / 4 * 4, 0#4, 0#32) m k
    mset k (x.1, x.2.1 ||| mask, mergeBytes mask ((b.setWidth 32) <<< (8 * (va % 4))) x.2.2) m

/-- Add consecutive bytes. -/
def EngineOp.putMaps (e : EngineOp) (m : WordMap) : Nat → List Byte → WordMap
  | _, [] => m
  | va, b :: bs => e.putMaps (e.putMap m va b) (va + 1) bs

/-- Apply one word of an engine's write at its home (R145, R55): cached words are left unregistered, a word of another
device is sent. The home addresses of cached words are remembered. A write that names a die in reset, or whose transfer fails
past the retry limit, fails (R297, R334). -/
def State.engineWord (s : State) (k id : Nat) (e : EngineOp) (va : Nat) (mask : BitVec 4) (w : Word) :
    Except Mark (State × EngineOp) :=
  match e.leaf va with
  | none => .ok (s, e)
  | some l =>
    let a := l.ha va
    match l.route with
    | .remote =>
      .ok (s.sendFlight
        { grp := k, op := some id, route := .remote, words := [(a, mask, w)], va := va, node := s.nodeOf a, hdr := s.flit a }, e)
    | .cached =>
      if s.down a || s.cutWord a then .error ⟨.dataLost, va⟩ else .ok (s.homeWrite a mask w, { e with words := e.words ++ [a] })
    | _ => if s.down a || s.cutWord a then .error ⟨.dataLost, va⟩ else .ok (s.ctlStores [(a, mask, w)] (s.teamOf k).sys, e)

/-- Engine bytes moved for a group's tenant are counted (R308). -/
def State.countBytes (s : State) (k n : Nat) : State := s.bump 0x53 0 (s.teamOf k).tenant n

/-- Apply words one after another; none after one that fails (R249). -/
def State.applyWords (s : State) (k id : Nat) (e : EngineOp) : WordMap → State × EngineOp × Option Mark
  | [] => (s, e, none)
  | (_, va, mask, w) :: ws =>
    if mask = 0#4 then s.applyWords k id e ws
    else match s.engineWord k id e va mask w with
      | .error m => (s, e, some m)
      | .ok (t, e) => t.applyWords k id e ws

/-- Apply the words of an operation, and count their bytes. -/
def State.engineWords (s : State) (k id : Nat) (e : EngineOp) (m : WordMap) : State × EngineOp × Option Mark :=
  (s.countBytes k (m.map fun p => ((List.range 4).filter fun i => p.2.2.1.getLsbD i).length).sum).applyWords k id e m

/-- Replace an operation's engine state. -/
def Group.setEngine (g : Group) (id : Nat) (e : EngineOp) : Group := g.updOp id fun o => { o with kind := .engine e }

/-- The operation of a name, where it is an engine operation under way. -/
def Group.engineOf (g : Group) (id : Nat) : Option (Op × EngineOp) :=
  match g.findOp id with
  | some o => match o.kind with
    | .engine e => if o.done then none else some (o, e)
    | _ => none
  | none => none

/-- Writes to another device that an operation still has on the link. -/
def State.opFlying (s : State) (id : Nat) : Bool := s.caches.flights.any fun p => p.2.op == some id

/-- An operation is over: the issuing core's V copies of the words it wrote are dropped (R145), and it counts down in
order (R39). -/
def State.endOp (s : State) (k id : Nat) (e : EngineOp) (fail : Option Mark) : State :=
  let s := s.dropV (s.coreOf k) fun a => e.words.contains a
  (s.updGroup k fun g => g.updOp id fun o => { o with done := true, fail := o.fail.or fail }).retire k

/-- An operation fails (R249): it sends nothing more, no write of it that is not yet applied is made, and it completes. A
collective that owes its port a notice pushes it first (R257). -/
def State.failOp (s : State) (k id : Nat) (e : EngineOp) (m : Mark) : State :=
  let s := { s with caches := { s.caches with flights := s.caches.flights.filter fun p => p.2.op != some id } }
  if e.code = 3 ∧ e.out ≠ [] then
    s.updGroup k fun g => g.updOp id fun o =>
      { o with kind := .engine { e with started := true, next := 1 }, fail := o.fail.or (some m) }
  else s.endOp k id e (some m)

/-! ### Descriptors and timed starts (R248, R251) -/

/-- Read the 64-byte descriptor of a group operation (R248): a trap, a wait, or its bytes and address. -/
def withDescriptor (s : State) (k : Nat) (f : Fields) (ex run : List Nat) (body : State → Nat → List Byte → Res) : Res :=
  match (Rd.mk (s.group k) ex run).groupAddr f with
  | none => .trap s (allOpnd run)
  | some va =>
    match s.checkAccess (s.who k) .load va 64 anyHome none with
    | .error c => .trap s (allRaise run c (some va))
    | .ok _ =>
      if ((s.rangeWords k va 64).any fun w => s.loadBusy k w.1) || s.readStuck k va 64 then .wait s
      else
        let z := (s.touchAll k [va] false).readRange k va 64
        match z.2.1 with
        | some (c, a) => .trap z.2.2 (allRaise run c (some a))
        | none => body z.2.2 va z.1

/-- The window a timed operation starts in (R251): none to start at once. -/
def State.startWindow (s : State) (timed : Bool) (atw : Nat) : Except Unit (Option Nat) :=
  if !timed then .ok none
  else
    let d := ((atw : Int) - s.window) % 2 ^ 32
    if d = 0 ∨ 2 ^ 31 ≤ d then .ok none
    else if d ≤ 65536 then .ok (some (s.window + d.toNat))
    else .error ()

/-- Start an engine operation: its pages are marked accessed, and its class counts it. -/
def State.startOp (s : State) (k cls : Nat) (e : EngineOp) (port : Option Nat) : State :=
  let s := s.addOp k cls (.engine { e with started := e.start.isNone })
  s.updGroup k fun g => g.updOp (s.nextId - 1) fun o => { o with port := port }

/-- A field of the descriptor is wrong: every executing lane raises ILLEGAL_OPND at its address (R248). -/
def badField (s : State) (run : List Nat) (va : Nat) : Res := .trap s (allRaise run .illegalOpnd (some va))

/-- The start window of a timed operation begins, and it sends its first request (R251). -/
def execAtwStart (g op : Nat) (s : State) : Out :=
  .next (match (s.group g).engineOf op with
    | some (_, e) =>
      if e.started || s.window < e.start.getD 0 then s
      else s.updGroup g fun x => x.setEngine op { e with started := true }
    | none => s)

/-! ### CPY (R252, R253) -/

/-- Row starts of a copy in loop order: source and destination. -/
def cpyRows (src dst y z : Nat) (sy sz dy dz : Int) : List (Int × Int) :=
  (List.range z).flatMap fun (i : Nat) => (List.range y).map fun (j : Nat) =>
    ((src : Int) + i * sz + j * sy, (dst : Int) + i * dz + j * dy)

/-- Every byte of a row lies in the address space. -/
def rowIn (a : Int) (x : Nat) : Bool := 0 ≤ a && a + x ≤ 2 ^ 57

/-- The descriptor's fields keep the table's values (R252). -/
def cpyOk (dims : Nat) (bo : Bool) (d : List Byte) : Bool :=
  let x := dfld d 0x10 4; let y := dfld d 0x14 4; let z := dfld d 0x18 4
  dfld d 0 8 < 2 ^ 57 && dfld d 8 8 < 2 ^ 57 && 1 ≤ x && x ≤ 65536 && 1 ≤ y && 1 ≤ z && dfld d 0x1C 4 == 0 &&
    (1 ≤ dims || y == 1 && dfld d 0x20 4 == 0 && dfld d 0x28 4 == 0) &&
    (2 ≤ dims || z == 1 && dfld d 0x24 4 == 0 && dfld d 0x2C 4 == 0) &&
    (if bo then dfld d 0x30 8 < 2 ^ 57 else dfld d 0x30 8 == 0) && dfld d 0x3C 4 ≤ 1 && x * y * z ≤ 65536 &&
    (cpyRows (dfld d 0 8) (dfld d 8 8) y z (dint d 0x20 4) (dint d 0x24 4) (dint d 0x28 4) (dint d 0x2C 4)).all
      fun r => rowIn r.1 x && rowIn r.2 x

/-- Check a barrier object (R252, R262): 16-aligned, HOME 3, R and W. -/
def State.checkObject (s : State) (w : Who) (rd wr : AKind) (va : Nat) : Except (Cause × Nat) Leaf :=
  match s.checkAccess w rd va 16 [3] none with
  | .error c => .error (c, va)
  | .ok _ => match s.checkAccess w wr va 16 [3] none with
    | .error c => .error (c, va)
    | .ok l => .ok l

/-- The rows of a copy's descriptor. -/
def cpyRowsOf (d : List Byte) : List (Int × Int) :=
  cpyRows (dfld d 0 8) (dfld d 8 8) (dfld d 0x14 4) (dfld d 0x18 4) (dint d 0x20 4) (dint d 0x24 4) (dint d 0x28 4)
    (dint d 0x2C 4)

/-- The pages of a copy: its source rows, its destination rows, and under .bo its barrier object (R252). -/
def State.cpyPages (s : State) (w : Who) (bo : Bool) (d : List Byte) : Pages :=
  let x := dfld d 0x10 4
  let rows := cpyRowsOf d
  let p := rows.foldl (fun p r => addRange w .engineRead anyHome p r.1.toNat x) (.ok ([], s))
  let p := rows.foldl (fun p r => addRange w .engineWrite anyHome p r.2.toNat x) p
  match p with
  | .error e => .error e
  | .ok (m, t) => if bo then
      (t.checkObject w .engineRead .engineWrite (dfld d 0x30 8)).map fun l => (mset (dfld d 0x30 8 / 65536) l m, t)
    else .ok (m, t)

/-- Arguments of a CPY: SRC, DST, X, Y, Z, SY, SZ, DY, DZ and the barrier object's address. -/
def cpyArgs (d : List Byte) : List Nat :=
  [dfld d 0 8, dfld d 8 8, dfld d 0x10 4, dfld d 0x14 4, dfld d 0x18 4, dfld d 0x20 4, dfld d 0x24 4, dfld d 0x28 4,
    dfld d 0x2C 4, dfld d 0x30 8]

/-- A copy touches its source and destination rows. -/
def State.cpyTouch (s : State) (k : Nat) (d : List Byte) : State :=
  let at_ := fun (a : Int) => rangeLines a.toNat (dfld d 0x10 4)
  (s.touchPages k ((cpyRowsOf d).flatMap fun r => at_ r.1) false).touchPages k ((cpyRowsOf d).flatMap fun r => at_ r.2) true

/-- The barrier object of a copy is read and written too. -/
def State.objectTouch (s : State) (k : Nat) (bo : Bool) (d : List Byte) : State :=
  if bo then s.touchPages k [dfld d 0x30 8] true else s

def execCpy (f : Fields) (s : State) : Out :=
  .next (issue 0x90 f (fun _ _ => true) false true (fun s k ex run =>
    if !(s.group k).countRoom 1 then .wait s
    else withDescriptor s k f ex run fun s va d =>
      if !cpyOk (bits f.sub.toNat 1 0) (f.sub.getLsbD 2) d then badField s run va
      else match s.startWindow ((dfld d 0x3C 4).testBit 0) (dfld d 0x38 4) with
        | .error _ => badField s run va
        | .ok start => match s.cpyPages (s.who k) (f.sub.getLsbD 2) d with
          | .error (c, a) => .trap s (allRaise run c (some a))
          | .ok (m, _) => .done (((s.cpyTouch k d).objectTouch k (f.sub.getLsbD 2) d).startOp k 1
              { code := 0, sub := f.sub.toNat, dva := va, start := start, pages := m, args := cpyArgs d } none) []) s)

/-- Argument `i` of an operation; a 32-bit one as a signed number. -/
def EngineOp.arg (e : EngineOp) (i : Nat) : Nat := e.args.getD i 0
def EngineOp.sarg (e : EngineOp) (i : Nat) : Int := signExt (e.arg i) 32

/-- The bytes a copy moves. -/
def EngineOp.cpyBytes (e : EngineOp) : Nat := e.arg 2 * e.arg 3 * e.arg 4

/-- Source and destination of byte `i` of a copy in loop order. -/
def EngineOp.cpyByte (e : EngineOp) (i : Nat) : Nat × Nat :=
  let x := i % e.arg 2; let y := i / e.arg 2 % e.arg 3; let z := i / (e.arg 2 * e.arg 3)
  (((e.arg 0 : Int) + z * e.sarg 6 + y * e.sarg 5 + x).toNat, ((e.arg 1 : Int) + z * e.sarg 8 + y * e.sarg 7 + x).toNat)

/-- The source lies within these bounds. -/
def EngineOp.inSource (e : EngineOp) (a : Nat) : Bool :=
  (List.range (e.arg 4)).any fun (z : Nat) => (List.range (e.arg 3)).any fun (y : Nat) =>
    let r := (e.arg 0 : Int) + z * e.sarg 6 + y * e.sarg 5
    r ≤ a && (a : Int) < r + e.arg 2

/-- Bytes of one request (R253: up to 2 KiB). -/
def requestBytes : Nat := 2048

/-- A source byte of a copy, and the copy after. The word is read whole; its other bytes come from the same read when the
copy takes them, each once, so that it is never torn (R145). -/
def State.cpyRead (s : State) (e : EngineOp) (va : Nat) : Except (Cause × Nat) (EngineOp × Byte) :=
  let a := va / 4 * 4
  let m := BitVec.twoPow 4 (va % 4)
  let take := fun (taken : BitVec 4) (w : Word) =>
    ({ e with part := if taken ||| m = 15#4 then mdel a e.part else mset a (taken ||| m, w) e.part }, byteAt w va)
  let fresh : Except (Cause × Nat) (EngineOp × Byte) := match e.leaf va with
    | none => .error (.dataLost, va)
    | some l => match s.engineRead l va with
      | .error c => .error (c, va)
      | .ok w => .ok (take 0#4 w)
  match mfind a e.part with
  | some (taken, w) => if taken &&& m = 0#4 then .ok (take taken w) else fresh
  | none => fresh

/-- Copy one byte of a request: a source byte that the copy has already overwritten supplies its old value or the new
one (R253). -/
def cpyStep (s : State) (z : Except (Cause × Nat) (EngineOp × WordMap)) (i : Nat) :
    Except (Cause × Nat) (EngineOp × WordMap) :=
  match z with
  | .error x => .error x
  | .ok (e, m) =>
    let p := e.cpyByte i
    let v : Except (Cause × Nat) (EngineOp × Byte) := match mfind p.1 e.wrote with
      | some (old, new) => .ok (e, if Config.overlapSeesNew s.tick i then new else old)
      | none => s.cpyRead e p.1
    match v with
    | .error x => .error x
    | .ok (e, b) =>
      let e := if e.inSource p.2 then
          match mfind p.2 e.wrote, s.opByte e p.2 with
          | some (old, _), _ => { e with wrote := mset p.2 (old, b) e.wrote }
          | none, .ok old => { e with wrote := mset p.2 (old, b) e.wrote }
          | none, .error _ => { e with wrote := mset p.2 (0#8, b) e.wrote }
        else e
      .ok (e, e.putMap m p.2 b)

/-- Arrive (R261) at an object in a scratchpad: the phase it returns, and the state after. -/
def State.arrive (s : State) (o n : Nat) : Nat × State :=
  let cur := (s.ctlWord (o + 4)).toNat
  let ph := s.ctlWord (o + 8)
  let s := if cur ≤ n then
      let ph := (ph ^^^ 1#32) ||| (if cur < n then 2#32 else 0#32)
      (s.putWord (o + 8) 15#4 ph).putWord (o + 4) 15#4 (s.ctlWord o)
    else s.putWord (o + 4) 15#4 (BitVec.ofNat 32 (cur - n))
  (ph.toNat % 2, s)

/-- Words of a barrier object that an instruction reads, by their offsets, cannot be given: its die is in reset, they cannot be
corrected, or their transfer fails past the retry limit (R297, R334). -/
def State.objectGone (s : State) (o : Nat) (rs : List Nat) : Bool :=
  s.down o || rs.any fun i => s.isBad (o + i) || s.cutWord (o + i)

/-- The words that an arrival of `n` reads: CUR and PHASE, and EXPECT at the end of a phase (R261). -/
def State.arriveReads (s : State) (o n : Nat) : List Nat := if (s.ctlWord (o + 4)).toNat ≤ n then [4, 8, 0] else [4, 8]

/-- The barrier object of a copy is counted down for the requests whose bytes have been applied (R253, R261); the operation
fails where its object cannot be reached. -/
def State.countObject (s : State) (k id : Nat) (e : EngineOp) : State × EngineOp × Option Mark :=
  let flying := fun (n : Nat) => s.caches.flights.any fun p => p.2.op == some id && p.1 < n
  let due := e.owed.takeWhile fun p => !flying p.1
  let e' := { e with owed := e.owed.drop due.length }
  match e.leaf (e.arg 9) with
  | some l =>
    let o := l.ha (e.arg 9)
    if due.isEmpty then (s, e, none)
    else
      let z := due.foldl (fun (z : State × Bool) p =>
        if z.2 || z.1.objectGone o (z.1.arriveReads o p.2) then (z.1, true) else ((z.1.arrive o p.2).2, false)) (s, false)
      if z.2 then (z.1, e, some ⟨.dataLost, e.arg 9⟩) else (z.1, e', none)
  | none => (s, e', none)

/-- The bytes of the next request: up to 2 KiB of the loop order (R253). -/
def EngineOp.requestLen (e : EngineOp) : Nat := min requestBytes (e.cpyBytes - e.next)

/-- The part of row `r` of a copy's destination that its loop order names from byte `i` on. -/
def EngineOp.rowFrom (e : EngineOp) (i r : Nat) : Nat × Nat :=
  let j := max i (r * e.arg 2)
  ((e.cpyByte j).2, (r + 1) * e.arg 2 - j)

/-- From byte `i` on the loop order names a byte of the word at a physical address. -/
def EngineOp.namesFrom (e : EngineOp) (i pa : Nat) : Bool :=
  let r := i / e.arg 2
  (List.range (e.arg 3 * e.arg 4 - r)).any fun j =>
    let d := e.rowFrom i (r + j)
    (unitsOf d.1 d.2).any fun u => (e.leaf u.1).any fun l =>
      let v := u.1 / 65536 * 65536
      let base := paOf (l.ha v)
      base ≤ pa && u.1 < v + (pa - base) + 4 && v + (pa - base) < u.1 + u.2

/-- The words of a copy's request that are not yet whole: the loop order names bytes of them later. Each word is applied
at its home as one write (R145), with the last byte that names it. -/
def EngineOp.kept (e : EngineOp) (i : Nat) (m : WordMap) : WordMap := m.filter fun p => e.namesFrom i (paOf (p.1 / 2))

/-- The words of a copy's request that are whole. -/
def EngineOp.whole (e : EngineOp) (i : Nat) (m : WordMap) : WordMap := m.filter fun p => !e.namesFrom i (paOf (p.1 / 2))

/-- A request's bytes are to be counted once they have been applied: with those of the requests before it whose words were
held, when none is held now (R253, R261). -/
def EngineOp.owes (e : EngineOp) (id n : Nat) : EngineOp :=
  if !e.sub.testBit 2 then e
  else if e.keep.isEmpty then { e with owed := e.owed ++ (e.uncount ++ [n]).map fun c => (id, c), uncount := [] }
  else { e with uncount := e.uncount ++ [n] }

/-- A copy counts its object down for what has been applied, and its next request is applied at its homes (R253). An
operation that has failed does neither (R249). -/
def State.cpyRequest (s : State) (k id : Nat) : State :=
  match (s.group k).engineOf id with
  | some (o, e) =>
    if e.code ≠ 0 ∨ !e.started then s
    else match o.fail with
    | some m => s.failOp k id e m
    | none => match s.countObject k id e with
      | (s, e, some m) => s.failOp k id e m
      | (s, e, none) =>
        if e.cpyBytes ≤ e.next then s.updGroup k fun g => g.setEngine id e
        else
          let n := e.requestLen
          match (List.range n).foldl (fun z i => cpyStep s z (e.next + i)) (.ok (e, e.keep)) with
          | .error (c, a) => s.failOp k id e ⟨c, a⟩
          | .ok (e, m) =>
            let i := e.next + n
            match s.engineWords k id { e with next := i, keep := e.kept i m } (e.whole i m) with
            | (s, e, some m) => s.failOp k id e m
            | (s, e, none) =>
              match s.countObject k id (e.owes s.nextId n) with
              | (s, e, some m) => s.failOp k id e m
              | (s, e, none) => s.updGroup k fun g => g.setEngine id e
  | none => s

/-- Log entry 49. -/
def execCpyRequestApplied (g op : Nat) (s : State) : Out := .next (s.cpyRequest g op)

/-! ### GATH, SCAT (R254, R255) -/

/-- The window of a GATH or SCAT (R251). -/
def laneWindow (s : State) (k : Nat) (f : Fields) (ex : List Nat) : Except Unit (Option Nat) :=
  s.startWindow (f.e != 0#7) ((s.group k).reg f.e.toNat (lowest ex)).toNat

/-- The address of a lane's word: Addr(vA) + 4 × index (R254); one outside 57 bits raises ILLEGAL_OPND in its lane (DESIGN
CHOICE, log entry 102). -/
def wordAddr (r : Rd) (f : Fields) (l : Nat) : Option Nat :=
  (pairAddr (r.g.pair f.a.toNat l)).bind fun a =>
    addrPlus a (4 * ((r.g.reg f.b.toNat (laneB f r.ex l)).toNat : Int))

/-- A slot of an engine: the word's home, read when the operation goes on. -/
def State.engineSlot (s : State) (k va : Nat) : Slot :=
  let p := s.place k (va / 4 * 4)
  { addr := p.1, route := p.2, need := 15#4, val := none }

/-- A lane of a GATH: what it waits for and the addresses it reads, or what it raises (R254). -/
def State.gathLane (s : State) (k : Nat) (f : Fields) (r : Rd) (l : Nat) : Except Raised (LaneLoad × List Nat) :=
  let w := s.who k
  let d := f.d.toNat
  if f.sub = 0#8 then
    match wordAddr r f l with
    | none => .error ⟨l, .illegalOpnd, none⟩
    | some va => match s.checkAccess w .engineRead va 4 anyHome none with
      | .error c => .error ⟨l, c, some va⟩
      | .ok _ => .ok ({ lane := l, va := va, slots := [s.engineSlot k va], land := .sized d 4 0 : LaneLoad }, [va])
  else match pairAddr (r.g.pair f.a.toNat l) with
    | none => .error ⟨l, .illegalOpnd, none⟩
    | some va => match s.checkPage w .engineRead va 1 anyHome none false with
      | .error c => .error ⟨l, c, some va⟩
      | .ok lf => match s.elemAt w lf va .engineRead (r.g.reg f.b.toNat (laneB f r.ex l)).toNat with
        | .error (c, a) => .error ⟨l, c, some a⟩
        | .ok e => .ok ({ lane := l, va := va, slots := e.addrs.map (s.engineSlot k),
                          land := .elem d e.fmt : LaneLoad }, e.addrs)

def execGath (f : Fields) (s : State) : Out :=
  .next (issue 0x91 f (fun _ _ => true) false true (fun s k ex run =>
    let d := f.d.toNat
    let xs := s.sortLanes k (fun t l => t.gathLane k f ⟨s.group k, ex, run⟩ l) Prod.snd run
    match laneWindow s k f ex with
    | .error _ => .trap s (allOpnd run)
    | .ok start =>
      if !(s.group k).countRoom 2 then .wait s
      else if xs.1.isEmpty then .done s xs.2
      else
        let s := s.touchPages k (xs.1.flatMap Prod.snd) false
        let s := s.updGroup k fun g => g.setEmpty d (quartersOf (xs.1.map fun x => x.1.lane)) true
        .done (s.startOp k 2
          { code := 1, sub := f.sub.toNat, dva := 0, start := start, args := [d],
            lanes := xs.1.map Prod.fst } none) xs.2) s)

/-- A lane of a SCAT: its address, page and value, or what it raises (R255). -/
def State.scatLane (s : State) (k : Nat) (f : Fields) (r : Rd) (l : Nat) : Except Raised (Nat × Leaf × Word) :=
  match wordAddr r f l with
  | none => .error ⟨l, .illegalOpnd, none⟩
  | some va => match s.checkAccess (s.who k) .engineWrite va 4 anyHome none with
    | .error c => .error ⟨l, c, some va⟩
    | .ok lf => .ok (va, lf, r.g.reg f.c.toNat l)

def execScat (f : Fields) (s : State) : Out :=
  .next (issue 0x92 f (fun _ _ => true) false true (fun s k ex run =>
    let xs := s.sortLanes k (fun t l => t.scatLane k f ⟨s.group k, ex, run⟩ l) (fun x => [x.1]) run
    match laneWindow s k f ex with
    | .error _ => .trap s (allOpnd run)
    | .ok start =>
      if !(s.group k).countRoom 2 then .wait s
      else if xs.1.isEmpty then .done s xs.2
      else
        let s := s.touchPages k (xs.1.map Prod.fst) true
        .done (s.startOp k 2
          { code := 2, sub := 0, dva := 0, start := start, args := xs.1.flatMap fun x => [x.1, x.2.2.toNat],
            pages := xs.1.foldl (fun m x => mset (x.1 / 65536) x.2.1 m) [] } none) xs.2) s)

/-- A gather lands in lane order: values, or marks for lost words (R254). -/
def State.gathLand (s : State) (k id : Nat) (e : EngineOp) : State :=
  let g := e.lanes.foldl (fun g x => g.land s.tick x (x.slots.map fun sl => s.routeGot sl.addr sl.route)) (s.group k)
  let g := g.setEmpty (e.arg 0) (quartersOf (e.lanes.map LaneLoad.lane)) false
  ((s.setGroup k g).countBytes k (4 * e.lanes.length)).endOp k id e none

/-- The words of a scatter: pairs of address and value in lane order, a later lane's value remaining (R10, R255). -/
def EngineOp.scatMap (e : EngineOp) (m : WordMap) : List Nat → WordMap
  | a :: v :: xs => e.scatMap (e.putMaps m a (leBytes 4 v)) xs
  | _ => m

/-! ### COL (R256, R257) -/

/-- SUB of COL: bits 3:2 kind (exact 0, q8 1, raw 2), bits 1:0 collective (all-reduce 0, reduce-scatter 1, all-gather 2,
broadcast 3). -/
def colKind (sub : Nat) : Nat := bits sub 3 2
def colOp (sub : Nat) : Nat := bits sub 1 0

/-- Bytes of an element at SRC and DST. -/
def colWidth (sub : Nat) : Nat := if colKind sub = 0 then 16 else if colKind sub = 1 then 4 else 1

/-- Elements of a rank's result. -/
def colResult (sub count n : Nat) : Nat := if colOp sub = 1 then count / n else if colOp sub = 2 then n * count else count

/-- The ranks of a set that this device holds. -/
def State.localRanks (s : State) (c : CollectiveSet) : List Nat :=
  (List.range c.nodes.length).filter fun r => c.nodes.getD r 0 == s.dev.node.toNat

/-- The descriptor's fields keep the table's values (R256). -/
def State.colOk (s : State) (g : Group) (sub : Nat) (d : List Byte) : Bool :=
  let kind := colKind sub
  let count := dfld d 0x18 4; let rank := dfld d 0x1E 2; let root := dfld d 0x20 2
  let fl := dfld d 0x2C 2
  let anchor := dint d 0x22 2
  match mfind (dfld d 0x1C 2) s.dev.colsets with
  | none => false
  | some c =>
    let n := c.nodes.length
    dfld d 0 8 < 2 ^ 57 && dfld d 8 8 < 2 ^ 57 && (if kind = 1 then dfld d 0x10 8 < 2 ^ 57 else dfld d 0x10 8 == 0) &&
      1 ≤ count && count ≤ 2 ^ 24 && dfld d 0x1C 2 ≤ 4095 && rank < n && (s.localRanks c).contains rank &&
      (if colOp sub = 3 then root < n else root == 0) &&
      (if kind = 2 then dfld d 0x22 2 == 0 else -2048 ≤ anchor && anchor ≤ 2047) && fl < 32 &&
      (d.drop 0x2E).all (fun b => b == 0#8) && (!fl.testBit 1 || g.portKind (bits fl 4 2) == 3) &&
      (kind != 1 || count % 32 == 0) && (colOp sub != 1 || count % n == 0)

/-- The bytes that a collective reads at SRC, writes at DST, and reads and writes at RESID (R256). -/
def State.colBytes (s : State) (sub : Nat) (d : List Byte) : Nat × Nat × Nat :=
  let count := dfld d 0x18 4; let wd := colWidth sub
  let n := match mfind (dfld d 0x1C 2) s.dev.colsets with
    | some c => c.nodes.length
    | none => 1
  (if colOp sub = 3 ∧ dfld d 0x20 2 ≠ dfld d 0x1E 2 then 0 else count * wd, colResult sub count n * wd,
    if colKind sub = 1 then count * 4 else 0)

/-- The pages of a collective. -/
def State.colPages (s : State) (w : Who) (sub : Nat) (d : List Byte) : Pages :=
  let n := s.colBytes sub d
  let p := addRange w .engineRead anyHome (.ok ([], s)) (dfld d 0 8) n.1
  let p := addRange w .engineRead anyHome p (dfld d 0x10 8) n.2.2
  let p := addRange w .engineWrite anyHome p (dfld d 8 8) n.2.1
  addRange w .engineWrite anyHome p (dfld d 0x10 8) n.2.2

/-- A collective touches what it reads and what it writes. -/
def State.colTouch (s : State) (k sub : Nat) (d : List Byte) : State :=
  let at_ := fun (v len : Nat) => if len = 0 then [] else rangeLines v len
  let n := s.colBytes sub d
  (s.touchPages k (at_ (dfld d 0 8) n.1) false).touchPages k (at_ (dfld d 8 8) n.2.1 ++ at_ (dfld d 0x10 8) n.2.2) true

/-- COLs that a rank has issued on a set, and whether the set's operations of an ordinal have timed out (R256). -/
def State.colIssued (s : State) (set rank : Nat) : Nat := mget 0 s.dev.colCount (256 * set + rank)
def State.colIsLate (s : State) (set ord : Nat) : Bool := (mget [] s.dev.colLate set).contains ord

/-- Arguments of a COL: SRC, DST, RESID, COUNT, set, rank, root, anchor and the word to push; its ordinal among the COLs of its
rank on the set; and its device time. -/
def State.colArgs (s : State) (d : List Byte) : List Nat :=
  [dfld d 0 8, dfld d 8 8, dfld d 0x10 8, dfld d 0x18 4, dfld d 0x1C 2, dfld d 0x1E 2, dfld d 0x20 2, dfld d 0x22 2,
    dfld d 0x24 4, s.colIssued (dfld d 0x1C 2) (dfld d 0x1E 2), s.dev.time]

/-- A rank has issued a COL on a set (R256). -/
def State.countCol (s : State) (set rank : Nat) : State :=
  { s with dev := { s.dev with colCount := mset (256 * set + rank) (s.colIssued set rank + 1) s.dev.colCount } }

def execCol (f : Fields) (s : State) : Out :=
  let sub := f.sub.toNat
  .next (issue 0x93 f (fun _ _ => true) false true (fun s k ex run =>
    if !(s.group k).countRoom 4 then .wait s
    else withDescriptor s k f ex run fun s va d =>
      if !s.colOk (s.group k) sub d then badField s run va
      else match s.startWindow ((dfld d 0x2C 2).testBit 0) (dfld d 0x28 4) with
        | .error _ => badField s run va
        | .ok start => match s.colPages (s.who k) sub d with
          | .error (c, a) => .trap s (allRaise run c (some a))
          | .ok (m, _) =>
            let fl := dfld d 0x2C 2
            let set := dfld d 0x1C 2; let rank := dfld d 0x1E 2
            let e : EngineOp :=
              { code := 3, sub := sub, dva := va, start := start, pages := m, args := s.colArgs d,
                out := if fl.testBit 1 then [BitVec.ofNat 32 (dfld d 0x24 4)] else [] }
            let t := ((s.colTouch k sub d).startOp k 4 e (if fl.testBit 1 then some (bits fl 4 2) else none)).countCol set rank
            -- the address of a failure is the model's choice (log entry 77)
            .done (if s.colIsLate set (e.arg 9) then t.failOp k (t.nextId - 1) e ⟨.dataLost, e.arg 0⟩ else t) []) s)

/-- A joined COL that waits for the other ranks' (R256): group, name and operation. -/
structure ColOp where
  grp : Nat
  id  : Nat
  e   : EngineOp

/-- The COLs of this device's ranks on a set that wait. -/
def State.colOps (s : State) (set : Nat) : List ColOp :=
  s.groups.flatMap fun p => p.2.ops.filterMap fun o => match o.kind with
    | .engine e => if e.code == 3 && e.arg 4 == set && e.next == 0 && !o.done then some ⟨p.1, o.id, e⟩ else none
    | _ => none

/-- The least ordinal of some waiting COLs. -/
def leastOrd (xs : List ColOp) : Nat := xs.foldl (fun m x => min m (x.e.arg 9)) ((xs.head?.map fun x => x.e.arg 9).getD 0)

/-- The larger of two FP32 magnitudes; a NaN stays (log entry 16). -/
def maxMag (a b : Nat) : Nat :=
  let x := a % 2 ^ 31; let y := b % 2 ^ 31
  if (decodeVal fp32 x).isNan then x else if (decodeVal fp32 y).isNan then y else max x y

/-- The .q8 quantisation of one block (R257): E4M3 codes, the SC24 scale and the new residuals, from FP32 patterns. -/
def q8Block (cs : List Nat) : List Nat × Nat × List Nat :=
  let s := bsclBits 0 (cs.foldl maxMag 0)
  let q := fun c => match decodeVal fp32 c, scaleVal s with
    | .fin neg m e, .fin _ n k => convertFin e4m3 e4m3.mode false neg m n (e - k) |>.1
    | .zero neg, .fin _ _ _ => e4m3.sign neg
    | .inf neg, .fin _ _ _ => e4m3.overBits neg false
    | _, _ => e4m3.nanBits
  let res := fun c => match decodeVal fp32 c with
    | .nan | .inf _ => 0
    | x => convert fp32 false (x.add ((decodeVal e4m3 (q c)).mul (scaleVal s)).neg)
  (cs.map q, s, cs.map res)

/-- Runs of `n` numbers. -/
def numRuns (n : Nat) : Nat → List Nat → List (List Nat)
  | 0, _ => []
  | k + 1, xs => xs.take n :: numRuns n k (xs.drop n)

/-- A local rank's contribution: what it sends, and the residuals it writes (R257). -/
def State.colRead (s : State) (e : EngineOp) : Except (Cause × Nat) (List Byte × List Byte) :=
  let count := e.arg 3
  if colKind e.sub = 1 then
    match s.opBytes e (e.arg 0) (4 * count), s.opBytes e (e.arg 2) (4 * count) with
    | .ok x, .ok r =>
      let cs := (((chunks 4 count x).map leNat).zip ((chunks 4 count r).map leNat)).map fun p => faddBits fp32 p.1 p.2
      let bs := (numRuns 32 (count / 32) cs).map q8Block
      .ok ((bs.flatMap fun b => b.1).map (BitVec.ofNat 8) ++ (bs.flatMap fun b => leBytes 4 b.2.1),
        bs.flatMap fun b => b.2.2.flatMap (leBytes 4))
    | .error x, _ => .error x
    | _, .error x => .error x
  else if colOp e.sub = 3 ∧ e.arg 6 ≠ e.arg 5 then .ok ([], [])
  else match s.opBytes e (e.arg 0) (colWidth e.sub * count) with
    | .ok x => .ok (x, [])
    | .error x => .error x

/-- The term that element `j` of a rank's contribution enters (R257). -/
def colTerm (sub count : Nat) (anchor : Int) (data : List Byte) (j : Nat) : Option (Int × Int) :=
  if colKind sub = 0 then recordTerm (leNat ((data.drop (16 * j)).take 16)) anchor
  else
    let q := (data.getD j 0#8).toNat
    let s := leNat ((data.drop (count + j / 32 * 4)).take 4)
    exactProduct (decodeVal e4m3 q) (.fin false 1 0) (scaleVal (s % 2 ^ 24)) (.fin false 1 0)

/-- The bytes that a rank's DST receives (R257), from every rank's data in rank order. -/
def colValue (sub count n rank root : Nat) (anchor : Int) (all : List RankData) : List Byte :=
  if colKind sub = 2 then
    (if colOp sub = 2 then all.flatMap RankData.data else ((all[root]?.map RankData.data).getD []))
  else
    let el := fun j =>
      (Acc.fresh 0 (some anchor)).enter 0 (all.map fun r => colTerm sub count anchor r.data j)
    let out := fun j => if colKind sub = 0 then leBytes 16 ((el j).el 0).record.1 else leBytes 4 ((el j).read 0 fp32 false).1
    let first := if colOp sub = 1 then rank * (count / n) else 0
    (List.range (if colOp sub = 1 then count / n else count)).flatMap fun j => out (first + j)

/-- Free bytes for a failed collective's DST (R256). -/
def State.colSpoil (s : State) (k id : Nat) (e : EngineOp) (n : Nat) : State × EngineOp :=
  let z := s.engineWords k id e (e.putMaps [] (e.arg 1)
    ((List.range (colResult e.sub (e.arg 3) n * colWidth e.sub)).map fun i => Config.freeCollectiveByte s.tick (id + i)))
  (z.1, z.2.1)

/-- The joined operations agree (R256). -/
def colAgree (all : List RankData) : Bool :=
  match all with
  | [] => true
  | x :: xs => xs.all fun y => y.sub == x.sub && y.count == x.count && y.anchor == x.anchor && y.root == x.root

/-- What a joined member brings. -/
def ColOp.data (x : ColOp) (bytes : List Byte) : RankData :=
  { rank := x.e.arg 5, sub := x.e.sub, count := x.e.arg 3, anchor := BitVec.ofNat 16 (x.e.arg 7), root := x.e.arg 6,
    data := bytes, time := x.e.arg 10 }

/-- A member writes its results, and its residuals under .q8 (R257). -/
def State.colWrite (s : State) (x : ColOp) (n : Nat) (all : List RankData) (res : List Byte) : State :=
  let e := x.e
  let m := e.putMaps (e.putMaps [] (e.arg 1) (colValue e.sub (e.arg 3) n (e.arg 5) (e.arg 6) (signExt (e.arg 7) 16) all))
    (e.arg 2) res
  match s.engineWords x.grp x.id e m with
  | (s, e, some m) => s.failOp x.grp x.id e m
  | (s, e, none) => s.updGroup x.grp fun g => g.setEngine x.id { e with next := 1 }

/-- Some members of a collective have joined too late: the last more than COLTMO after the first (R256). -/
def pastTmo (tmo : Nat) (times : List Nat) : Bool :=
  match times with
  | [] => false
  | x :: xs => xs.foldl min x + tmo < xs.foldl max x

/-- Every joined member of an ordinal of a set fails with DATA_LOST, and a rank that comes later finds that the time has
passed (R256). The address recorded is its SRC (DESIGN CHOICE, log entry 77). -/
def State.colFail (s : State) (set ord : Nat) (ops : List ColOp) : State :=
  let s := { s with dev := { s.dev with colLate := mset set (ord :: mget [] s.dev.colLate set) s.dev.colLate } }
  ops.foldl (fun t x => t.failOp x.grp x.id x.e ⟨.dataLost, x.e.arg 0⟩) s

/-- The operations of one ordinal of every rank of a set have joined, and have started: where they did so within COLTMO the
collective is computed, else every member fails (R256, R257). Where a member cannot read its contribution, it fails with that
cause and the others, who have not got it, with DATA_LOST (DEDUCED, log entry 77). A mismatch records the descriptor's
address, a lost member the others' SRC (DESIGN CHOICE, log entry 77). `remote`: what the ranks on other devices bring. -/
def State.colJoin (s : State) (set : Nat) (remote : List RankData) : State :=
  match mfind set s.dev.colsets with
  | none => s
  | some c =>
    let n := c.nodes.length
    let locals := s.localRanks c
    let ops := (s.colOps set).filter fun x => x.e.arg 9 == leastOrd (s.colOps set)
    let others := (List.range n).filter fun r => !locals.contains r
    if ops.isEmpty || !(locals.all fun r => ops.any fun x => x.e.arg 5 == r && x.e.started) ||
        !others.all (fun r => remote.any fun x => x.rank == r) then s
    else if pastTmo c.tmo ((ops.map fun x => x.e.arg 10) ++ (remote.filter fun x => others.contains x.rank).map RankData.time) then
      s.colFail set (leastOrd (s.colOps set)) ops
    else
      let read := ops.map fun x => (x, s.colRead x.e)
      let mine := read.map fun p => p.1.data (match p.2 with
        | .ok d => d.1
        | .error _ => [])
      let all := (List.range n).filterMap fun r => (mine ++ remote).find? fun x => x.rank == r
      let lost := read.any fun p => match p.2 with
        | .error _ => true
        | .ok _ => false
      read.foldl (fun t p =>
        let x := p.1
        if !colAgree all then
          let z := t.colSpoil x.grp x.id x.e n
          z.1.failOp x.grp x.id z.2 ⟨.illegalOpnd, x.e.dva⟩
        else match p.2 with
          | .error (c, a) => t.failOp x.grp x.id x.e ⟨c, a⟩
          | .ok d => if lost then t.failOp x.grp x.id x.e ⟨.dataLost, x.e.arg 0⟩ else t.colWrite x n all d.2) s

def execCollectiveJoin (set : Nat) (remote : List RankData) (s : State) : Out := .next (s.colJoin set remote)

/-- COLTMO has passed since the first arrival of an ordinal that not every rank has joined (R256). -/
def execCollectiveTimeout (x : ColTimeout) (s : State) : Out :=
  .next (match mfind x.set s.dev.colsets with
    | none => s
    | some c =>
      let ord := leastOrd (s.colOps x.set)
      let ops := (s.colOps x.set).filter fun o => o.e.arg 9 == ord
      let here := s.localRanks c
      let first := (ops.map (fun o => o.e.arg 10) ++ x.arrivals).foldl min s.dev.time
      let joined := (here.filter fun r => ops.any fun o => o.e.arg 5 == r).length + x.arrivals.length
      if ops.isEmpty || c.nodes.length ≤ joined || s.dev.time ≤ first + c.tmo then s
      else s.colFail x.set ord ops)

/-! ### BNK (R258 to R260) -/

/-- Elements that a page of a format holds (R116). -/
def Leaf.elemCount (l : Leaf) : Nat :=
  let p := 2 ^ l.size; let b := elemBits l.fmt
  if l.scl = 0 then p * 8 / b
  else
    let per := 32 * 2 ^ l.blk
    let stride := per * b / 8 + (if l.scl = 1 then 4 else 0)
    p / stride * per

/-- A region of elements (R258): its first page and the elements of a page. -/
structure Region where
  page  : Leaf
  count : Nat
  deriving DecidableEq, Repr

/-- The page of element `n` of a region. -/
def Region.pageVa (r : Region) (n : Nat) : Nat := r.page.va + n / r.count * 2 ^ r.page.size

/-- A bank page: HOME 1 with ILV 1. -/
def State.bankPage (s : State) (w : Who) (kind : AKind) (va : Nat) : Except (Cause × Nat) Leaf :=
  match s.checkAccess w kind va 1 [1] none with
  | .error c => .error (c, va)
  | .ok l => if l.ilv = 1 then .ok l else .error (.homeMismatch, va)

/-- Two pages agree in size, FMT and GEOM (R258). -/
def Leaf.agrees (a b : Leaf) : Bool := a.size == b.size && a.fmt == b.fmt && a.fld 83 80 == b.fld 83 80

/-- Check a region of weights and add its pages, and those of its companion scales: the elements of `rows` (first
element and length). A companion page is one that bank engines read: HOME 1 with ILV 1 (R49, R50, R147; DEDUCED, log entry
76). -/
def State.addRegion (s : State) (w : Who) (va : Nat) (rows : List (Nat × Nat)) (p : Pages) : Except (Cause × Nat) (Map Leaf × Region) :=
  match p with
  | .error e => .error e
  | .ok (m, _) => match s.bankPage w .engineRead va with
    | .error e => .error e
    | .ok l =>
      if l.fmt = 0 ∨ 5 < l.fmt then .error (.fmtMismatch, va)
      else
        let r : Region := ⟨l, l.elemCount⟩
        let pages := (rows.flatMap fun x => (List.range ((x.1 + x.2 - 1) / r.count + 1 - x.1 / r.count)).map
          fun i => x.1 / r.count + i).eraseDups
        let add := fun (acc : Except (Cause × Nat) (Map Leaf)) (j : Nat) => match acc with
          | .error e => .error e
          | .ok m =>
            let a := l.va + j * 2 ^ l.size
            match s.bankPage w .engineRead a with
            | .error e => .error e
            | .ok q =>
              if !q.agrees l then .error (.fmtMismatch, a)
              else
                let m := (List.range (2 ^ (l.size - 16))).foldl (fun m i => mset (a / 65536 + i) q m) m
                if q.scl ≠ 2 then .ok m
                else
                  let b := (a : Int) + q.soff * 2 ^ q.size
                  let used := rows.filter fun x => x.1 < (j + 1) * r.count && j * r.count < x.1 + x.2
                  let per := 32 * 2 ^ q.blk
                  used.foldl (fun (acc : Except (Cause × Nat) (Map Leaf)) x =>
                    let lo := (max x.1 (j * r.count) - j * r.count) / per
                    let hi := (min (x.1 + x.2) ((j + 1) * r.count) - 1 - j * r.count) / per
                    (List.range (hi + 1 - lo)).foldl (fun (acc : Except (Cause × Nat) (Map Leaf)) i => match acc with
                      | .error e => .error e
                      | .ok m =>
                        let c := b + 4 * ((lo + i : Nat) : Int)
                        if c < 0 ∨ 2 ^ 57 ≤ c then .error (.notPresent, c.toNat)
                        else match s.checkAccess w .engineRead c.toNat 1 [1] (some 0) with
                          | .error e => .error (e, c.toNat)
                          | .ok sl =>
                            if sl.ilv = 1 then .ok (mset (c.toNat / 65536) sl m) else .error (.homeMismatch, c.toNat)) acc)
                    (.ok m)
        match (0 :: pages).foldl add (.ok m) with
        | .error e => .error e
        | .ok m => .ok (m, r)

/-- Check raw words at bank pages and add their pages: of the bias, pages of the formats `fmts`; of a source or a target
region, pages of any format that agree with its first (R258). -/
def State.addRaw (s : State) (w : Who) (kind : AKind) (va n : Nat) (fmts : Option (List Nat)) (p : Pages) : Pages :=
  (unitsOf va n).foldl (fun p u => match p with
    | .error e => .error e
    | .ok (m, t) => match s.bankPage w kind u.1 with
      | .error e => .error e
      | .ok l => match fmts with
        | some fs => if fs.contains l.fmt then .ok (mset (u.1 / 65536) l m, t) else .error (.fmtMismatch, u.1)
        | none =>
          if u.1 = va ∨ (mfind (va / 65536) m).any l.agrees then .ok (mset (u.1 / 65536) l m, t)
          else .error (.fmtMismatch, u.1)) p

/-- Arguments of a BNK: WADDR, XADDR, YADDR, AUX, XSCL, N0, K, M, LDW, XFMT, OUT, ANCHOR. -/
def bnkArgs (d : List Byte) : List Nat :=
  [dfld d 0 8, dfld d 8 8, dfld d 0x10 8, dfld d 0x18 8, dfld d 0x20 8, dfld d 0x28 4, dfld d 0x2C 2, dfld d 0x2E 2,
    dfld d 0x30 4, dfld d 0x34 1, dfld d 0x35 1, dfld d 0x36 2]

/-- The formats of an element of x. -/
def xFmt (fc : Nat) : Nat := fcFmt fc

/-- The descriptor's fields keep the table's values (R258). Log entry 50. -/
def bnkOk (g : Group) (cmd : Nat) (d : List Byte) : Bool :=
  let a := fun i => (bnkArgs d).getD i 0
  let out := a 10; let fc := bits out 2 0
  [0, 1, 2, 4].all (fun i => a i < 2 ^ 57) && 1 ≤ a 6 && a 6 ≤ 4096 && 1 ≤ a 7 && a 7 ≤ 4096 && (cmd != 2 || a 7 == 1) &&
    (cmd ≤ 2 || a 1 == 0) && (cmd != 5 || a 0 == 0) &&
    (if cmd = 1 then a 3 < 2 ^ 57 else if cmd = 4 ∨ cmd = 5 then a 3 < 2 ^ 32 else a 3 == 0) &&
    [1, 3, 4].contains (a 9) &&
    fc ≤ 5 && (fc != 5 || Config.capMask.getLsbD 5) && (!out.testBit 3 || fc == 3 || fc == 4) &&
    (!out.testBit 4 || g.portKind (bits out 7 5) == 2) &&
    (a 11 == 0x8000 || -2048 ≤ signExt (a 11) 16 && signExt (a 11) 16 ≤ 2047) &&
    dfld d 0x3C 2 ≤ 1 && dfld d 0x3E 2 == 0

/-- The rows of weights that a command reads. -/
def bnkRows (a : Nat → Nat) : List (Nat × Nat) := (List.range (a 7)).map fun i => (a 5 + i * a 8, a 6)

/-- Check the pages of a command (R258), reads and then writes; the pages with the regions of weights and of u. A pair of
formats that is no MMA pair raises FMT_MISMATCH with WADDR (DESIGN CHOICE, log entry 86: R258 names no address). -/
def State.bnkPages (s : State) (w : Who) (cmd : Nat) (a : Nat → Nat) : Pages :=
  let words := 4 * (a 6 * a 7)
  let weights : Except (Cause × Nat) (Map Leaf × Option Region) :=
    if cmd ≤ 4 then match s.addRegion w (a 0) (bnkRows a) (.ok ([], s)) with
      | .error e => .error e
      | .ok (m, r) => .ok (m, some r)
    else .ok ([], none)
  match weights with
  | .error e => .error e
  | .ok (m, wr) =>
    let wf := match wr with
      | some r => r.page.fmt
      | none => 0
    let p : Pages :=
      if cmd ≤ 1 then
        let x := addRange w .engineRead [3] (.ok (m, s)) (a 1) (a 6 * (fcBits (a 9) / 8))
        let x := if a 4 = 0 then x else addRange w .engineRead [3] x (a 4) (4 * ((a 6 + 31) / 32))
        match x with
        | .error e => .error e
        | .ok m => if (List.range 11).any fun c => mmaPair c == some (xFmt (a 9), wf) then .ok m else .error (.fmtMismatch, a 0)
      else if cmd = 2 then
        match s.addRegion w (a 1) [(a 8, a 6)] (.ok (m, s)) with
        | .error e => .error e
        | .ok (m, u) =>
          if (List.range 11).any fun c => mmaPair c == some (u.page.fmt, wf) then .ok (m, s) else .error (.fmtMismatch, a 0)
      else .ok (m, s)
    let p := if cmd = 1 then s.addRaw w .engineRead (a 3) (4 * a 7) (some [0, 7]) p else p
    if cmd ≤ 3 then
      if (a 10).testBit 4 then p
      else addRange w .engineWrite [3] p (a 2) ((a 7 * fcBits (bits (a 10) 2 0) + 7) / 8)
    else
      let p := if cmd = 4 then s.addRaw w .engineRead (a 2) words none p else p
      let p := if cmd = 6 then s.addRaw w .engineRead (a 0) words none p else p
      s.addRaw w .engineWrite (a 2) words none p

/-- The bytes that a command writes at YADDR: none where its results go to a port. -/
def bnkTarget (cmd : Nat) (a : Nat → Nat) : Nat :=
  if 4 ≤ cmd then 4 * (a 6 * a 7)
  else if (a 10).testBit 4 then 0 else (a 7 * fcBits (bits (a 10) 2 0) + 7) / 8

/-- A command touches its pages, what it writes, and its descriptor, whose STATUS it writes (R45). -/
def State.bnkTouch (s : State) (k cmd : Nat) (a : Nat → Nat) (m : Map Leaf) (va : Nat) : State :=
  let s := s.touchPages k (m.map fun p => p.1 * 65536) false
  s.touchPages k ((if bnkTarget cmd a = 0 then [] else rangeLines (a 2) (bnkTarget cmd a)) ++ [va]) true

def execBnk (f : Fields) (s : State) : Out :=
  let cmd := f.sub.toNat
  .next (issue 0x94 f (fun _ _ => true) false true (fun s k ex run =>
    if !(s.group k).countRoom 5 then .wait s
    else withDescriptor s k f ex run fun s va d =>
      let a := fun i => (bnkArgs d).getD i 0
      if !bnkOk (s.group k) cmd d then badField s run va
      else match s.startWindow ((dfld d 0x3C 2).testBit 0) (dfld d 0x38 4) with
        | .error _ => badField s run va
        | .ok start =>
          let w := s.who k
          match s.bnkPages w cmd a with
          | .error (c, x) => .trap s (allRaise run c (some x))
          | .ok (m, _) => match s.checkAccess w .engineWrite va 1 anyHome none with
            | .error c => .trap s (allRaise run c (some va))
            | .ok l =>
              if s.flying k false then .wait s
              else
                let s := s.bnkTouch k cmd a m va
                let port := if cmd ≤ 3 ∧ (a 10).testBit 4 then some (bits (a 10) 7 5) else none
                .done (s.startOp k 5
                  { code := 4, sub := cmd, dva := va, start := start, args := bnkArgs d,
                    pages := mset (va / 65536) l m } port) []) s)

/-- The aligned words of a run of bytes. -/
def wordsIn (va n : Nat) : List Nat := (List.range ((va + n + 3) / 4 - va / 4)).map fun i => (va / 4 + i) * 4

/-- Where an element of a region lies: its first byte, the bit there, its format, and its scale slot if it has one. -/
structure BankAt where
  va    : Nat
  bit   : Nat
  fmt   : Nat
  scale : Option Nat
  deriving DecidableEq, Repr

/-- Element `n` of a region (R117, R258). -/
def EngineOp.elemAt (e : EngineOp) (va n : Nat) : Option BankAt :=
  (e.leaf va).bind fun first =>
    let r : Region := ⟨first, first.elemCount⟩
    let base := r.pageVa n
    (e.leaf base).bind fun l =>
      (elemPlace l.fmt l.blk l.scl (2 ^ l.size) (n % r.count)).map fun p =>
        { va := base + p.2.1 / 8, bit := p.2.1 % 8, fmt := l.fmt,
          scale := if l.scl = 0 then none
            else some (if l.scl = 1 then base + p.2.2 else ((base : Int) + l.soff * 2 ^ l.size + 4 * p.1).toNat) }

/-- The words that an element and its scale are read from. -/
def BankAt.words (x : BankAt) : List Nat :=
  wordsIn x.va ((x.bit + elemBits x.fmt + 7) / 8) ++ match x.scale with
    | some a => wordsIn a 4
    | none => []

/-- A byte of the operand words that a command has read. -/
def EngineOp.seenByte (e : EngineOp) (va : Nat) : Byte :=
  match e.homeKey va with
  | some k => ((mget 0#32 e.seen k) >>> (8 * (va % 4))).setWidth 8
  | none => 0#8

/-- A little-endian number in them. -/
def EngineOp.seenNum (e : EngineOp) (va n : Nat) : Nat := leNat ((List.range n).map fun i => e.seenByte (va + i))

/-- Element `n` of a region and its scale, in the words read (R117, R147). -/
def EngineOp.bankElem (e : EngineOp) (va n : Nat) : Val × Val :=
  match e.elemAt va n with
  | none => (.nan, .nan)
  | some x =>
    let b := elemBits x.fmt
    (elemVal x.fmt (e.seenNum x.va ((x.bit + b + 7) / 8) / 2 ^ x.bit % 2 ^ b),
      match x.scale with
      | none => .fin false 1 0
      | some a => scaleVal (e.seenNum a 4 % 2 ^ 24))

/-- The words of element `n` of a region. -/
def EngineOp.elemWords (e : EngineOp) (va n : Nat) : List Nat := ((e.elemAt va n).map BankAt.words).getD []

/-- x[k] with its scale (R259), and the words it is read from. -/
def EngineOp.bnkX (e : EngineOp) (k : Nat) : Val × Val :=
  let f := fmtOf (e.arg 9)
  let n := f.width / 8
  (decodeVal f (e.seenNum (e.arg 1 + n * k) n),
    if e.arg 4 = 0 then .fin false 1 0 else scaleVal (e.seenNum (e.arg 4 + 4 * (k / 32)) 4 % 2 ^ 24))
def EngineOp.xWords (e : EngineOp) (k : Nat) : List Nat :=
  let n := (fmtOf (e.arg 9)).width / 8
  wordsIn (e.arg 1 + n * k) n ++ if e.arg 4 = 0 then [] else wordsIn (e.arg 4 + 4 * (k / 32)) 4

/-- The sum window of a command. -/
def EngineOp.bnkAnchor (e : EngineOp) (aFmt : Nat) : Int := if e.arg 11 = 0x8000 then pairAnchor aFmt else signExt (e.arg 11) 16

/-- The format that decides a command's default anchor: of x, of u, or of the weights. -/
def EngineOp.bnkFmt (e : EngineOp) : Nat :=
  let at_ := fun va => match e.leaf va with
    | some l => l.fmt
    | none => 0
  if e.sub ≤ 1 then xFmt (e.arg 9) else if e.sub = 2 then at_ (e.arg 1) else at_ (e.arg 0)

/-- The terms of row `i` (R259). -/
def EngineOp.bnkTerms (e : EngineOp) (i : Nat) : List (Option (Int × Int)) :=
  let one : Val := .fin false 1 0
  ((List.range (e.arg 6)).map fun k =>
    let w := e.bankElem (e.arg 0) (e.arg 5 + i * e.arg 8 + k)
    let x := if e.sub = 3 then (one, one) else if e.sub = 2 then e.bankElem (e.arg 1) (e.arg 8 + k) else e.bnkX k
    exactProduct x.1 w.1 x.2 w.2) ++
    if e.sub = 1 then [exactProduct (decodeVal fp32 (e.seenNum (e.arg 3 + 4 * i) 4)) one one one] else []

/-- What a command counts: rows, or words. -/
def EngineOp.bnkTotal (e : EngineOp) : Nat := if e.sub ≤ 3 then e.arg 7 else e.arg 6 * e.arg 7

/-- What a command computes and writes at one moment: two rows, so that packed results end at a byte; or words that lie,
with what .axpy reads of them, in at most 64 bursts of 256 bytes (R289). -/
def EngineOp.bnkStep (e : EngineOp) : Nat :=
  min (e.bnkTotal - e.next) (if e.sub ≤ 3 then 2 else if e.sub = 4 then 1984 else 4032)

/-- The numbers of the rows or words of a step. -/
def EngineOp.bnkItems (e : EngineOp) : List Nat := (List.range e.bnkStep).map fun i => e.next + i

/-- The operand words that a step computes from: weights, x, XSCL, u, the bias, and the .bcpy source (R260). -/
def EngineOp.bnkNeeds (e : EngineOp) : List Nat :=
  if e.sub ≤ 3 then e.bnkItems.flatMap fun i =>
    ((List.range (e.arg 6)).flatMap fun k =>
      e.elemWords (e.arg 0) (e.arg 5 + i * e.arg 8 + k) ++
        if e.sub = 3 then [] else if e.sub = 2 then e.elemWords (e.arg 1) (e.arg 8 + k) else e.xWords k) ++
      if e.sub = 1 then wordsIn (e.arg 3 + 4 * i) 4 else []
  else if e.sub = 4 then e.bnkItems.flatMap fun j => e.elemWords (e.arg 0) (e.arg 5 + j / e.arg 6 * e.arg 8 + j % e.arg 6)
  else if e.sub = 5 then []
  else wordsIn (e.arg 0 + 4 * e.next) (4 * e.bnkStep)

/-- A command has read a word: none is read again (R260). -/
def EngineOp.hasSeen (e : EngineOp) (va : Nat) : Bool := (e.homeKey va).all fun k => (mfind k e.seen).isSome

/-- The burst that a word at a controller lies in: its bank group, and 256 bytes of it (R289). -/
def State.burstOf (s : State) (l : Leaf) (va : Nat) : Option (Nat × Nat) :=
  let a := l.ha va
  if l.route = .controller ∧ isHbm a then
    let b := s.bankOf a
    some (64 * b.stack + b.group, b.seg * 65536 + b.pos / 256)
  else none

/-- The bursts of one moment, with another added: none where its bank group would stream more than 64, after which its
controller serves others (R289). -/
def addBurst (used : List (Nat × Nat)) (b : Option (Nat × Nat)) : Option (List (Nat × Nat)) :=
  match b with
  | none => some used
  | some x =>
    if used.contains x then some used
    else if 64 ≤ (used.filter fun y => y.1 == x.1).length then none else some (x :: used)

/-- Read operand words that the command has not read, as far as each bank group's bursts go. -/
def State.bnkRead (s : State) (e : EngineOp) (used : List (Nat × Nat)) : List Nat → Except (Cause × Nat) EngineOp
  | [] => .ok e
  | va :: vas =>
    match e.homeKey va, e.leaf va with
    | some k, some l =>
      if (mfind k e.seen).isSome then s.bnkRead e used vas
      else match addBurst used (s.burstOf l va) with
        | none => .ok e
        | some used => match s.routeGot (l.ha va / 4 * 4) l.route with
          | .lost c => .error (c, va)
          | .word w => s.bnkRead { e with seen := mset k w e.seen } used vas
    | _, _ => s.bnkRead e used vas

/-- The results of the next rows of a summing command: patterns, and the status bits. -/
def EngineOp.bnkSums (e : EngineOp) : List Nat × Nat :=
  let ys := e.bnkItems.map fun i =>
    let a := (Acc.fresh 0 (some (e.bnkAnchor e.bnkFmt))).enter 0 (e.bnkTerms i)
    let r := a.read 0 (fmtOf (bits (e.arg 10) 2 0)) ((e.arg 10).testBit 3)
    (r.1, a.inx, a.ovf || r.2)
  (ys.map fun y => y.1, (ys.any fun y => y.2.1).toNat + 2 * (ys.any fun y => y.2.2).toNat)

/-- Copy one word of a .bcpy: a source word that the command has already overwritten supplies its old value or the new one
(R259). -/
def bcpyStep (s : State) (z : EngineOp × WordMap) (j : Nat) : EngineOp × WordMap :=
  let e := z.1
  let src := e.arg 0 + 4 * j; let dst := e.arg 2 + 4 * j
  let new := Config.overlapSeesNew s.tick j
  let bs := (List.range 4).map fun i => match mfind (src + i) e.wrote with
    | some (o, n) => if new then n else o
    | none => e.seenByte (src + i)
  let was := match s.opBytes e dst 4 with
    | .ok ws => ws
    | .error _ => [0#8, 0#8, 0#8, 0#8]
  let wrote := if e.arg 0 ≤ dst + 3 && dst < e.arg 0 + 4 * e.bnkTotal then
      ((List.range 4).zip (was.zip bs)).foldl (fun w p =>
        mset (dst + p.1) (((mfind (dst + p.1) e.wrote).map Prod.fst).getD p.2.1, p.2.2) w) e.wrote
    else e.wrote
  ({ e with wrote := wrote }, e.putMaps z.2 dst bs)

/-- Collect in order, stopping at the first failure. -/
def gather {α : Type} : List (Except (Cause × Nat) α) → Except (Cause × Nat) (List α)
  | [] => .ok []
  | .error x :: _ => .error x
  | .ok a :: xs => match gather xs with
    | .ok as => .ok (a :: as)
    | .error x => .error x

/-- What the next step of a command writes at YADDR, its results to push, and its status (R259). -/
def State.bnkWrites (s : State) (e : EngineOp) (port : Bool) : Except (Cause × Nat) (EngineOp × WordMap) :=
  let js := e.bnkItems
  if e.sub ≤ 3 then
    let p := e.bnkSums
    let b := fcBits (bits (e.arg 10) 2 0)
    let e' := { e with stat := Nat.lor e.stat p.2 }
    if port then .ok ({ e' with out := e.out ++ p.1.map (BitVec.ofNat 32) }, [])
    else .ok (e', e.putMaps [] (e.arg 2 + e.next * b / 8) (leBytes ((p.1.length * b + 7) / 8) (packList b p.1)))
  else if e.sub = 4 then
    let a := decodeVal fp32 (e.arg 3)
    match gather (js.map fun j => match s.opNum e (e.arg 2 + 4 * j) 4 with
      | .ok old =>
        let w := e.bankElem (e.arg 0) (e.arg 5 + j / e.arg 6 * e.arg 8 + j % e.arg 6)
        .ok (leBytes 4 (convert fp32 false (((a.mul w.1).mul w.2).add (decodeVal fp32 old))))
      | .error x => .error x) with
    | .error x => .error x
    | .ok bs => .ok (e, e.putMaps [] (e.arg 2 + 4 * e.next) bs.flatten)
  else if e.sub = 5 then .ok (e, e.putMaps [] (e.arg 2 + 4 * e.next) (js.flatMap fun _ => leBytes 4 (e.arg 3)))
  else .ok (js.foldl (bcpyStep s) (e, []))

/-- A bank command writes: the results of its next rows or words are applied or wait to be pushed, and with the last of them
STATUS is written (R259). -/
def State.bnkWrite (s : State) (k id : Nat) (e : EngineOp) (port : Option Nat) : State :=
  match s.bnkWrites e port.isSome with
  | .error (c, a) => s.failOp k id e ⟨c, a⟩
  | .ok (e, m) =>
    let n := e.next + e.bnkStep
    let last := if n = e.bnkTotal then e.putMaps [] (e.dva + 0x3E) (leBytes 2 e.stat) else []
    match s.engineWords k id { e with next := n } m with
    | (s, e, some x) => s.failOp k id e x
    | (s, e, none) => match s.engineWords k id e last with
      | (s, e, some x) => s.failOp k id e x
      | (s, e, none) => s.updGroup k fun g => g.setEngine id e

/-- A bank command goes on (R260, R289): it reads operand words of its next rows or words, each once, or, when it has them,
writes. -/
def State.bnkRun (s : State) (k id : Nat) (e : EngineOp) (port : Option Nat) : State :=
  if e.bnkNeeds.all e.hasSeen then s.bnkWrite k id e port
  else match s.bnkRead e [] e.bnkNeeds with
    | .error (c, a) => s.failOp k id e ⟨c, a⟩
    | .ok e => s.updGroup k fun g => g.setEngine id e

/-- A bank engine meets an error that cannot be corrected: a command under way on a page of its bank group fails (R249). The
address recorded is the page's (log entry 24). -/
def State.failBank (s : State) (bank : Nat) : State :=
  { s with
    groups := s.groups.map fun p => (p.1, { p.2 with
      ops := p.2.ops.map fun o => match o.kind with
        | .engine e =>
          if e.code == 4 && e.started && !o.done then
            match e.pages.find? fun x => x.2.ilv == 1 && (s.burstOf x.2 (x.1 * 65536)).any fun b => b.1 == bank with
            | some x => { o with fail := o.fail.or (some ⟨.dataLost, x.1 * 65536⟩) }
            | none => o
          else o
        | _ => o }) }

/-! ### Completion (R250) -/

/-- Push what fits of an operation's results into its port. -/
def State.pushOut (s : State) (k id : Nat) (e : EngineOp) (port : Option Nat) : State × EngineOp :=
  match port with
  | none => (s, { e with out := [] })
  | some q =>
    let p := (s.group k).port q
    let n := 256 - p.elems.length
    let e' := { e with out := e.out.drop n }
    (s.updGroup k fun g => (g.setPort q { p with elems := p.elems ++ e.out.take n }).setEngine id e', e')

/-- A scatter writes its lanes' words, and an operation whose writes have all been applied is over. -/
def State.scatRun (s : State) (k id : Nat) (e : EngineOp) : State :=
  if e.next = 0 then
    match s.engineWords k id { e with next := 1 } (e.scatMap [] e.args) with
    | (s, e, some m) => s.failOp k id e m
    | (s, e, none) =>
      let s := s.updGroup k fun g => g.setEngine id e
      if s.opFlying id then s else s.endOp k id e none
  else if s.opFlying id then s else s.endOp k id e none

/-- The results of a bank command, or the notice of a collective once its writes have been applied (R257, R263), are pushed,
and the operation is over when nothing is left. A collective that has failed pushes its notice too. -/
def State.pushAndEnd (s : State) (k id : Nat) (e : EngineOp) (port : Option Nat) (last : Bool) : State :=
  if e.code = 3 && s.opFlying id then s
  else
    let z := s.pushOut k id e port
    if last && z.2.out.isEmpty && !s.opFlying id then z.1.endOp k id z.2 none else z.1

/-- An engine operation goes on to its end: a gather lands, a scatter is performed, a bank command takes its next step, results
are pushed, and when every write, count and push is made it counts down (R39, R250). One that has failed is over (R249), a
collective when its notice is pushed. -/
def State.completeOp (s : State) (k id : Nat) : State :=
  match (s.group k).engineOf id with
  | none => s
  | some (o, e) =>
    if !e.started then s
    else match (if e.code = 3 then none else o.fail) with
    | some m => s.failOp k id e m
    | none => match e.code with
      | 0 => if e.next < e.cpyBytes || s.opFlying id || !e.owed.isEmpty then s else s.endOp k id e none
      | 1 => s.gathLand k id e
      | 2 => s.scatRun k id e
      | 3 => if e.next = 0 then s else s.pushAndEnd k id e o.port true
      | _ =>
        let s := if e.next < e.bnkTotal then s.bnkRun k id e o.port else s
        match (s.group k).engineOf id with
        | none => s
        | some (_, e) => s.pushAndEnd k id e o.port (e.next == e.bnkTotal)

def execEngineOpComplete (g op : Nat) (s : State) : Out := .next (s.completeOp g op)

/-! ### Barrier objects (R261, R262) -/

/-- A barrier-object instruction: the object of the lowest executing lane, checked; its words must be free of the group's
own stores. -/
def withObject (s : State) (k : Nat) (f : Fields) (ex run : List Nat) (body : Nat → Nat → Word → Res) : Res :=
  let g := s.group k
  match (Rd.mk g ex run).groupAddr f with
  | none => .trap s (allOpnd run)
  | some va => match s.checkObject (s.who k) .load .store va with
    | .error (c, a) => .trap s (allRaise run c (some a))
    | .ok l =>
      let o := l.ha va
      if (List.range 4).any fun i => s.loadBusy k (o + 4 * i) then .wait s
      else body va o (g.reg f.b.toNat (lowest ex))

/-- The object cannot be given: DATA_LOST at the consumer (R297, R334). -/
def objectLost (s : State) (run : List Nat) (va : Nat) (gone : Bool) (r : Res) : Res :=
  if gone then .trap s (allRaise run .dataLost (some va)) else r

def execBoini (f : Fields) (s : State) : Out :=
  .next (issue 0x95 f (fun _ _ => true) false true (fun s k ex run =>
    withObject s k f ex run fun va o b =>
      if b = 0#32 then .trap s (allOpnd run)
      else objectLost s run va (s.down o || [0, 4, 8, 12].any fun i => s.cutWord (o + i)) (.done
        (((((s.touchPages k [va] true).putWord o 15#4 b).putWord (o + 4) 15#4 b).putWord (o + 8) 15#4 0#32).putWord (o + 12) 15#4 0#32) [])) s)

def execBoarr (f : Fields) (s : State) : Out :=
  .next (issue 0x96 f (fun _ _ => true) false true (fun s k ex run =>
    withObject s k f ex run fun va o b =>
      if b = 0#32 then .trap s (allOpnd run)
      else objectLost s run va (s.objectGone o (s.arriveReads o b.toNat)) (match s.release k 4 with
        | none => .wait (s.relWait k 4)
        | some s =>
          let p := (s.touchPages k [va] true).arrive o b.toNat
          .done (p.2.updGroup k fun g => g.setRegs f.d.toNat run fun _ => BitVec.ofNat 32 p.1) [])) s)

def execBowait (f : Fields) (s : State) : Out :=
  .next (issue 0x97 f (fun _ _ => true) false true (fun s k ex run =>
    match s.failRaise k none run with
    | some (s, r) => .trap s [r]
    | none => withObject s k f ex run fun va o b =>
      objectLost s run va (s.objectGone o [8]) (
        if (s.ctlWord (o + 8)).getLsbD 0 = b.getLsbD 0 ∨ (s.group k).loading then .wait s
        else .done ((s.touchPages k [va] false).acquire k 4) [])) s)

end Sys2Proof.Machine
end

