-- ==== Sys2Proof/Machine/KeyedQueue.lean ====
section
/-!
DEFINITION. Keyed combining queues (R264 to R275): the queue home's operations, and the instructions that drive it.
-/

namespace Sys2Proof.Machine

/-! ### The queue home (R267, R268, R270) -/

def State.setKq (s : State) (q : Nat) (x : KQueue) : State := { s with kqs := mset q x s.kqs }

/-- Fold a record into a WAIT record of its key (R268). -/
def kqFold (op : Nat) (w r : KqRec) : KqRec :=
  let low := { w with bucket := min w.bucket r.bucket }
  let pick := fun (wins : Bool) =>
    if wins || r.pay == w.pay && r.bucket < w.bucket then { w with pay := r.pay, bucket := r.bucket } else w
  match op with
  | 0 => pick (r.pay.toInt < w.pay.toInt)
  | 1 => pick (w.pay.toInt < r.pay.toInt)
  | 2 => pick (r.pay.toNat < w.pay.toNat)
  | 3 =>
    let sum := w.pay.toInt + r.pay.toInt
    let p := sat sum (-2 ^ 63) (2 ^ 63 - 1)
    let out := decide (p ≠ sum)
    { low with pay := BitVec.ofInt 64 p, ovf := w.ovf || out, sealed := w.sealed || out }
  | 4 => { low with pay := w.pay ||| r.pay }
  | 5 => { low with pay := w.pay &&& r.pay }
  | 6 => w
  | _ => { w with pay := r.pay, bucket := r.bucket }

/-- A record has become takeable: its age as a takeable record begins, and a tile-task queue calls ENQ (R306). -/
def State.kqBecame (s : State) (q order : Nat) (before : Bool) : State :=
  let x := s.kq q
  match x.recs.find? fun r => r.order == order with
  | some r =>
    if x.takeable r && !before then
      let s := s.setKq q
        { x with recs := x.recs.map fun y => if y.order == order then { y with since := s.dev.time } else y }
      if x.bound && x.sys then s.call ⟨1, 1, q, r.key⟩ else s
    else s
  | none => s

/-- KqPush (R268): none where the queue is FULL. -/
def State.kqPush (s : State) (q : Nat) (r : KqRec) : Option State :=
  let x := s.kq q
  match x.recs.find? fun y => !y.sealed && y.key == r.key with
  | some w =>
    let x' := { x with recs := x.recs.map fun y => if y.order == w.order then kqFold x.op w r else y }
    some ((s.setKq q x').kqBecame q w.order (x.takeable w))
  | none =>
    if x.cap < x.recs.length then none
    else
      let n := { key := r.key, pay := r.pay, bucket := r.bucket, order := s.nextId : KqRec }
      some (({ s.setKq q { x with recs := x.recs ++ [n] } with nextId := s.nextId + 1 }).kqBecame q n.order false)

/-- Remove a record. -/
def State.kqRemove (s : State) (q : Nat) (r : KqRec) : State :=
  let x := s.kq q
  s.setKq q { x with recs := x.recs.filter fun y => y.order != r.order }

/-- Take a record (R270). -/
def State.kqTake (s : State) (q : Nat) : Option (KqRec × State) := (s.kq q).select.map fun r => (r, s.kqRemove q r)

/-- Perform one request at its home: none where it must wait; else what a take received. -/
def State.kqTry (s : State) (r : KqReq) : Option (Option KqRec × State) :=
  match r.rec? with
  | some x => (s.kqPush r.q x).map fun t => (none, t)
  | none => (s.kqTake r.q).map fun p => (some p.1, p.2)

/-! ### Waiting at a home (R269, R270, R273) -/

/-- Go through requests in lane order: after one that must wait, the later ones of its queue wait behind it. Only the
queues that `sel` names are tried. -/
def kqRun (sel : Nat → Bool) : List KqReq → State × KqWait → List Nat → State × KqWait
  | [], z, _ => z
  | r :: rs, z, blocked =>
    let keep := (z.1, { z.2 with todo := z.2.todo ++ [r] })
    if !sel r.q || blocked.contains r.q then kqRun sel rs keep blocked
    else match z.1.kqTry r with
      | some (x, s) => kqRun sel rs (s, { z.2 with got := z.2.got ++ [(r.lane, x)] }) blocked
      | none => kqRun sel rs keep (r.q :: blocked)

/-- Serve a waiting group's requests at a queue. -/
def State.kqServe (s : State) (q k : Nat) : State :=
  match (s.group k).wait.kq with
  | none => s
  | some w =>
    let z := kqRun (fun x => x == q) w.todo (s, { w with todo := [] }) []
    z.1.updGroup k fun g => { g with wait := { g.wait with kq := some z.2 } }

/-- Requests that wait at a queue. -/
def State.kqPending (s : State) (q : Nat) : Nat :=
  ((s.kq q).waiters.map fun k => match (s.group k).wait.kq with
    | some w => (w.todo.filter fun r => r.q == q).length
    | none => 0).sum

/-- Serve the groups that wait at a queue, in arrival order, until none goes on. -/
def State.kqSettle (s : State) (q : Nat) : Nat → State
  | 0 => s
  | n + 1 => if s.kqPending q = 0 then s else ((s.kq q).waiters.foldl (fun t k => t.kqServe q k) s).kqSettle q n

/-- Serve a queue's waiters as far as they go (R269, R270). -/
def State.kqWake (s : State) (q : Nat) : State :=
  let s := s.kqSettle q (s.kqPending q)
  let x := s.kq q
  s.setKq q
    { x with
      waiters := x.waiters.filter fun k => match (s.group k).wait.kq with
        | some w => w.todo.any fun r => r.q == q
        | none => false }

/-- A push or take that waits is performed when room or a record appears (R269, R270). Log entry 52. -/
def execKqWaiterServed (g : Nat) (s : State) : Out :=
  .next (match (s.group g).wait.kq with
    | some w => (w.todo.map KqReq.q).eraseDups.foldl (fun t q => t.kqWake q) s
    | none => s)

/-! ### Checks (R265, R266) -/

/-- The queue that a QREF names (R265): `own` and `other`: the issuing cluster and other clusters are accepted. -/
def qref (cluster : Nat) (own other : Bool) (w : Word) : Option Nat :=
  let n := w.toNat
  let c := if bits n 15 15 = 1 then cluster else bits n 12 8
  if bits n 31 16 = 0 ∧ bits n 14 13 = 0 ∧ bits n 7 6 = 0 ∧ (bits n 15 15 = 0 ∨ bits n 12 8 = 0) ∧
      (if c = cluster then own else other) then some (c * 64 + bits n 5 0) else none

/-- The PARTID that a tile-task queue counts as enabled by (R304). -/
def State.boundPart (s : State) (x : KQueue) : Option Nat :=
  if x.bound && x.sys then (mfind (efld x.binding 49 36) s.queues).map fun q => q.req.partid else none

/-- A context may push to or read a queue, or take from it (R266, R304). A home on a die in reset answers with an
error (R334; log entry 17). -/
def State.kqAccess (s : State) (t : Team) (q : Nat) (take : Bool) : Option Cause :=
  let x := s.kq q
  if s.dieReset (q / 512) then some .dataLost
  else if !x.en || take && x.bound then some .kqBadcfg
  else if t.sys || !x.sys && x.partid == t.partid || s.boundPart x == some t.partid then none
  else some .kqBadcfg

/-- The queue of a lane's QREF, or the cause it raises. -/
def kqLane (s : State) (k : Nat) (own other take : Bool) (w : Word) : Except Cause Nat :=
  match qref (clusterOf (s.coreOf k)) own other w with
  | none => .error .illegalOpnd
  | some q => match s.kqAccess (s.teamOf k) q take with
    | some c => .error c
    | none => .ok q

/-- A bad field of a by-group instruction: every executing lane raises. -/
def allCause (run : List Nat) (c : Cause) : List Raised := run.map fun l => ⟨l, c, none⟩

/-! ### KQCFG (R266) -/

/-- Capacity of the home's enabled queues, with queue `q` as given. -/
def State.homeCap (s : State) (q : Nat) (x : KQueue) : Nat :=
  ((List.range 64).map fun i =>
    let y := if q / 64 * 64 + i = q then x else s.kq (q / 64 * 64 + i)
    if y.en then y.cap + 1 else 0).sum

/-- Disable a queue: its records go, and the lanes that wait on it raise KQ_BADCFG (R266). -/
def State.kqDisable (s : State) (q : Nat) (x : KQueue) : State :=
  let s := x.waiters.foldl (fun t k => t.updGroup k fun g =>
    match g.wait.kq with
    | some w =>
      let hit := w.todo.filter fun r => r.q == q
      { g with
        wait := { g.wait with
          kq := some { w with todo := w.todo.filter (fun r => r.q != q),
                              bad := w.bad ++ hit.map fun r => (r.lane, .kqBadcfg) } } }
    | none => g) s
  s.setKq q { x with recs := [], waiters := [] }

def execKqcfg (f : Fields) (s : State) : Out :=
  .next (issue 0xA0 f (fun _ _ => true) false true (fun s k ex run =>
    let r : Rd := ⟨s.group k, ex, run⟩
    let t := s.teamOf k
    let c := (r.g.reg f.a.toNat (lowest ex)).toNat
    match qref (clusterOf t.core) true false (r.b 0xA0 f (lowest ex)) with
    | none => .trap s (allOpnd run)
    | some q =>
      if bits c 19 8 ≠ 0 ∨ bits c 5 3 ≠ 0 then .trap s (allOpnd run)
      else
        let s := s.kqWake q
        let old := s.kq q
        let en := c.testBit 7
        let new := { old with
          en := en, cap := bits c 31 20, rdy := bits c 6 6, op := bits c 2 0, partid := t.partid, sys := t.sys }
        let denied := !old.recs.isEmpty || old.en && old.partid != t.partid || old.en && old.sys && !t.sys
        if (denied && !(t.sys && !en)) || en && 4096 < s.homeCap q new then .trap s (allCause run .kqBadcfg)
        else .done (if en then s.setKq q new else s.kqDisable q new) []) s)

/-! ### KQPUSH (R269) -/

/-- The record that a lane pushes. -/
def pushRec (g : Group) (a l : Nat) : KqRec :=
  { key := g.reg a l, pay := pair64 (g.reg (a + 1) l) (g.reg (a + 2) l), bucket := (g.reg (a + 3) l).toNat % 2 ^ 16 }

/-- The requests of an instruction and the lanes that raise. -/
def kqSplit (s : State) (k : Nat) (own other : Bool) (run : List Nat) (qw : Nat → Word) (rec? : Nat → Option KqRec) :
    KqWait :=
  run.foldl (fun w l =>
    match kqLane s k own other (rec? l).isNone (qw l) with
    | .ok q => { w with todo := w.todo ++ [⟨l, q, rec? l⟩] }
    | .error c => { w with bad := w.bad ++ [(l, c)] }) { todo := [] }

/-- Queue numbers of requests. -/
def KqWait.queues (w : KqWait) : List Nat := (w.todo.map KqReq.q).eraseDups

/-- Serve the groups that already wait at the queues of some requests. -/
def State.kqWakes (s : State) (qs : List Nat) : State := qs.foldl (fun t q => t.kqWake q) s

/-- An instruction that waits: it is over when every request is performed (R273), and its lanes that raise do so then
(DESIGN CHOICE, log entry 103). -/
def kqFinish (s : State) (k : Nat) (w : KqWait) : Res :=
  if w.todo.isEmpty then
    .done ((s.updGroup k fun g => { g.kqWrite w.d w.got with wait := { g.wait with kq := none } }).leaveQueues k)
      (w.bad.map fun p => ⟨p.1, p.2, none⟩)
  else
    .wait (w.queues.foldl (fun t q =>
      let x := t.kq q
      t.setKq q { x with waiters := if x.waiters.contains k then x.waiters else x.waiters ++ [k] })
      (s.updGroup k fun g => { g with wait := { g.wait with kq := some w } }))

/-- The waiting form: on its first issue its requests go to their homes; afterwards it takes what they have answered. -/
def kqWaitBody (s : State) (k d : Nat) (start : KqWait) : Res :=
  match (s.group k).wait.kq with
  | none =>
    let s := s.kqWakes start.queues
    let z := kqRun (fun _ => true) start.todo (s, { start with todo := [], d := d }) []
    kqFinish z.1 k z.2
  | some w =>
    let s := s.kqWakes w.queues
    kqFinish s k ((s.group k).wait.kq.getD w)

/-- The forms that do not wait: each request is tried once; the lanes of `left` were refused. -/
def kqOnce (s : State) (w : KqWait) : State × List (Nat × Option KqRec) × List Nat :=
  w.todo.foldl (fun z r => match z.1.kqTry r with
    | some (x, s) => (s, z.2.1 ++ [(r.lane, x)], z.2.2)
    | none => (z.1, z.2.1, z.2.2 ++ [r.lane])) (s.kqWakes w.queues, [], [])

def execKqpush (f : Fields) (s : State) : Out :=
  .next (issue 0xA1 f (fun _ _ => f.sub != 1#8 || bitE f) false true (fun s k ex run =>
    let r : Rd := ⟨s.group k, ex, run⟩
    let w := kqSplit s k true true run (r.b 0xA1 f) fun l => some (pushRec r.g f.a.toNat l)
    let bad := w.bad.map fun p => Raised.mk p.1 p.2 none
    if f.sub = 0#8 then kqWaitBody s k 0 w
    else
      let z := kqOnce s w
      if f.sub = 1#8 then
        let ok := w.todo.map KqReq.lane
        .done (writeStatus z.1 k f ok fun l => !z.2.2.contains l) bad
      else .done z.1 (bad ++ allCause z.2.2 .kqFull)) s)

/-! ### KQTAKE, KQSTEAL (R270, R271) -/

/-- Take one record per lane. -/
def takeIssue (op : Nat) (own : Bool) (f : Fields) (s : State) : State :=
  issue op f (fun _ _ => true) false true (fun s k ex run =>
    let r : Rd := ⟨s.group k, ex, run⟩
    let w := kqSplit s k own (!own) run (r.b op f) fun _ => none
    if f.sub = 0#8 then kqWaitBody s k f.d.toNat w
    else
      let z := kqOnce s w
      .done (z.1.updGroup k fun g =>
        let g := g.kqWrite f.d.toNat z.2.1
        (List.range 4).foldl (fun g i => g.setRegs (f.d.toNat + i) z.2.2 fun _ => 0#32) g)
        (w.bad.map fun p => ⟨p.1, p.2, none⟩)) s

/-- Take up to `n` records of a queue. -/
def State.kqTakes (s : State) (q : Nat) : Nat → List KqRec × State
  | 0 => ([], s)
  | n + 1 => match s.kqTake q with
    | some (r, t) =>
      let z := t.kqTakes q n
      (r :: z.1, z.2)
    | none => ([], s)

/-- Take records into a port (R271). -/
def takePortIssue (op : Nat) (own : Bool) (f : Fields) (s : State) : State :=
  issue op f (fun _ g => isPort f.d.toNat && g.portKind (f.d.toNat - 120) == 1) false true (fun s k ex run =>
    let r : Rd := ⟨s.group k, ex, run⟩
    let n := (r.g.reg f.a.toNat (lowest ex)).toNat
    let p := f.d.toNat - 120
    if n = 0 ∨ 64 < n then .trap s (allOpnd run)
    else match kqLane s k own (!own) true (r.b op f (lowest ex)) with
    | .error c => .trap s (allCause run c)
    | .ok q =>
      if 256 < (r.g.port p).elems.length + 4 * n then .wait s
      else
        let z := (s.kqWake q).kqTakes q n
        .done (z.2.updGroup k fun g =>
          let x := g.port p
          (g.setPort p { x with elems := x.elems ++ z.1.flatMap KqRec.words }).setRegs f.c.toNat run
            fun _ => BitVec.ofNat 32 z.1.length) []) s

def execKqtake (f : Fields) (s : State) : Out := .next (takeIssue 0xA2 true f s)
def execKqtakePort (f : Fields) (s : State) : Out := .next (takePortIssue 0xA2 true f s)
def execKqsteal (f : Fields) (s : State) : Out :=
  .next (if f.sub = 2#8 then takePortIssue 0xA3 false f s else takeIssue 0xA3 false f s)

/-! ### KQSTAT (R272) -/

def execKqstat (f : Fields) (s : State) : Out :=
  .next (issue 0xA4 f (fun _ _ => true) false true (fun s k ex run =>
    let r : Rd := ⟨s.group k, ex, run⟩
    match kqLane s k true false false (r.b 0xA4 f (lowest ex)) with
    | .error c => .trap s (allCause run c)
    | .ok q =>
      let s := s.kqWake q
      let x := (s.kq q).stat
      .done (s.updGroup k fun g => (g.setRegs f.d.toNat run fun _ => BitVec.ofNat 32 (x.1 + 2 ^ 16 * x.2.1)).setRegs
        (f.d.toNat + 1) run fun _ => x.2.2) []) s)

end Sys2Proof.Machine
end

