-- ==== Sys2Proof/Machine/Privileged.lean ====
section
/-!
DEFINITION. Privileged instructions (R168, R169): TLBINV, ACCSPL and ACCFIL.
-/

namespace Sys2Proof.Machine

/-! ### TLBINV (R168) -/

/-- The PARTID of a context. -/
def State.partOf (s : State) (ctx : Nat) : Option Nat := (mfind ctx s.teams).map Team.partid

/-- The contexts whose accesses a TLBINV waits for (R168): SUB 0 .all, 1 .rng of context `ctx`, 2 .part of PARTID `part`,
which is every context while entries of pages that any context may use go with it. -/
def State.tlbCtx (s : State) (sub : BitVec 8) (ctx part c : Nat) : Bool :=
  if sub = 0#8 then true else if sub = 1#8 then c == ctx else part == 0 || s.partOf c == some part

/-- The entries that a TLBINV matches (R168): `a` and `n`, the start and the count of 64-KiB units of .rng. -/
def State.tlbHits (s : State) (sub : BitVec 8) (a n ctx part : Nat) (e : TlbEntry) : Bool :=
  if sub = 0#8 then true
  else if sub = 1#8 then e.ctx == ctx && e.va < a + 65536 * n && a < e.va + 2 ^ e.size && n != 0
  else s.partOf e.ctx == some part || bits e.leaf.toNat 95 88 == part

/-- Accesses issued before `n` by the contexts that match are not yet performed: operations, stores in flight, registrations
that their cores wait for, and whatever groups that have ended have left, whose context is no longer asked for. -/
def State.accessesOwed (s : State) (ctx : Nat → Bool) (n : Nat) : Bool :=
  (s.groups.any fun p => !isPolicy p.1 && ctx (ctxOf p.1) && p.2.ops.any fun o => o.id < n && !o.done) ||
    (s.caches.l1.any fun p => p.2.st == .p && p.2.seq < n) ||
    (s.orphans.any fun p => p.1 < n) ||
    s.caches.flights.any fun p => p.1 < n && (ctx (ctxOf p.2.grp) || (mfind (ctxOf p.2.grp) s.teams).isNone)

/-- TLBINV (R168). A start address of .rng past 57 bits traps every executing lane (DESIGN CHOICE, log entry 78). Log entry
53. -/
def execTlbinv (f : Fields) (s : State) : Out :=
  .next (issue 0xB3 f (fun _ _ => true) false true (fun s k ex run =>
    let g := s.group k
    let l := lowest ex
    match (if f.sub = 1#8 then (Rd.mk g ex run).groupAddr f else some 0) with
    | none => .trap s (allOpnd run)
    | some a =>
      let ctx := (g.reg f.c.toNat l).toNat % 2 ^ 16
      let part := (g.reg f.a.toNat l).toNat % 2 ^ 8
      let hit := s.tlbCtx f.sub ctx part
      match g.wait.tlbAt with
      | some n =>
        if s.accessesOwed hit n then .wait s
        else .done (s.updGroup k fun g => { g with wait := { g.wait with tlbAt := none } }) []
      | none => match s.release k 4 with
        | none => .wait (s.relWait k 4)
        | some s =>
          let s := s.tlbRemove (s.tlbHits f.sub a (g.reg f.b.toNat l).toNat ctx part)
          if s.accessesOwed hit s.nextId then
            .wait (s.updGroup k fun g => { g with wait := { g.wait with tlbAt := some s.nextId } })
          else .done s []) s)

/-! ### ACCSPL and ACCFIL (R169) -/

/-- An MMA into accumulator `p` of a core is outstanding. -/
def State.mmaInto (s : State) (core p : Nat) : Bool :=
  s.groups.any fun x => !isPolicy x.1 && s.coreOf x.1 == core && x.2.ops.any fun o =>
    !o.done && (match o.kind with
      | .mma a => x.2.acc + a == p
      | _ => false)

/-- The common part of ACCSPL and ACCFIL: frame address, accumulator and tag of the lowest executing lane, the checks of
the frame's pages, and the wait for matrix operations. A check that fails raises in every executing lane (DESIGN CHOICE, log
entry 78: R169 does not say which lanes trap). -/
def frameIssue (op : Nat) (kind : AKind) (f : Fields) (body : State → Nat → List Nat → Nat → Nat → BitVec 22 → Res)
    (s : State) : State :=
  issue op f (fun _ _ => true) false true (fun s k ex run =>
    let g := s.group k
    let l := lowest ex
    match (Rd.mk g ex run).groupAddr f with
    | none => .trap s (allOpnd run)
    | some a => match s.checkRange (s.who k) kind a (4 * frameUnit) 64 anyHome with
      | .error (c, x) => .trap s (allRaise run c (some x))
      | .ok _ =>
        let p := (g.reg f.b.toNat l).toNat % 8
        if s.mmaInto (s.coreOf k) p then .wait s
        else body s k run a p ((g.reg f.c.toNat l).setWidth 22)) s

def execAccspl (f : Fields) (s : State) : Out :=
  .next (frameIssue 0xB4 .store f (fun s k run a p tag =>
    let core := s.coreOf k
    if units.any fun u => (s.acc core u p).bad then .trap s (allRaise run .dataLost none)
    else if s.rangeStuck k a (4 * frameUnit) then .wait s
    else
      let s := s.touchAll k (rangeLines a (4 * frameUnit)) true
      .done (units.foldl (fun t u =>
        (t.storeRange k (frameUnit / 16) (a + frameUnit * u) (t.acc core u p).frame).setAcc core u p (.fresh tag none)) s)
        []) s)

def execAccfil (f : Fields) (s : State) : Out :=
  .next (frameIssue 0xB5 .load f (fun s k run a p tag =>
    if ((s.rangeWords k a (4 * frameUnit)).any fun w => s.loadBusy k w.1) || s.readStuck k a (4 * frameUnit) then .wait s
    else
      let core := s.coreOf k
      let z := (s.touchAll k (rangeLines a (4 * frameUnit)) false).readRange k a (4 * frameUnit)
      match z.2.1 with
      | some (c, x) => .trap z.2.2 (allRaise run c (some x))
      | none =>
        let accs := units.map fun u => (u, accOfFrame ((z.1.drop (frameUnit * u)).take frameUnit) tag)
        if accs.any fun q => q.2.isNone then .trap z.2.2 (allOpnd run)
        else .done (accs.foldl (fun t q => match q.2 with
          | some x => t.setAcc core q.1 p x
          | none => t) z.2.2) []) s)

end Sys2Proof.Machine
end

