-- ==== Sys2Proof/Machine/Teams.lean ====
section
/-!
DEFINITION. Placing, halting, saving and restoring teams: grants (R305), pages (R51), the initial state of a group
(R41), halts (R314), saves (R315, R316), restores (R316, R343) and the watchdog (R22).
-/

namespace Sys2Proof.Machine

/-! ### Core-pinned pages (R51, R281) -/

/-- Bytes of a core-pinned page. -/
def pageBytes : Nat := 65536

/-- The words of a page copied from one place to another, each in its turn; a word that is lost stays so (R297). -/
def copyWords (n : Nat) (read : State → Nat → Got) (write : State → Nat → Word → Bool → State) (s : State) : State :=
  (List.range n).foldl (fun t i => match read t i with
    | .word w => write t i w false
    | .lost _ => write t i 0#32 true) s

/-- Spill page `i` of a team to its frame: its contents go there, and its leaves are held absent (R51, R315, R316). -/
def State.spillPage (s : State) (ctx i : Nat) : State :=
  let t := mget {} s.teams ctx
  match t.pages[i]?, mfind i t.spilt with
  | some x, none =>
    let a := scratchPA x.core (x.pos * pageBytes); let b := t.framePage i
    let s := copyWords (pageBytes / 4) (fun u j => u.ctlGot (a + 4 * j))
      (fun u j w bad => (u.homeWrite (b + 4 * j) 15#4 w).setSliceErr (b + 4 * j) bad) s
    (s.updTeam ctx fun t => { t with spilt := mset i true t.spilt }).setPin x false
  | _, _ => s

/-- Put page `i` of a team at a position of a core: filled from the frame where it was spilt (R51, R316). -/
def State.fillPage (s : State) (ctx i core pos : Nat) : State :=
  let t := mget {} s.teams ctx
  match t.pages[i]? with
  | none => s
  | some x =>
    let a := scratchPA core (pos * pageBytes); let b := t.framePage i
    let s := if (mfind i t.spilt).isNone then s
      else copyWords (pageBytes / 4) (fun u j => u.homeRead (b + 4 * j))
        (fun u j w bad => (u.putWord (a + 4 * j) 15#4 w).setBad (a + 4 * j) bad) s
    let x := { x with core := core, pos := pos }
    (s.updTeam ctx fun t => { t with pages := t.pages.set i x, spilt := mdel i t.spilt }).setPin x true

/-- The pages of a team that lie on a core, by number and position. -/
def Team.livePages (t : Team) (core : Nat) : List (Nat × Nat) :=
  ((List.range t.pages.length).zip t.pages).filterMap fun p =>
    if (mfind p.1 t.spilt).isSome || p.2.core != core then none else some (p.1, p.2.pos)

/-- Words of an operation that are still to be read or written, by home address. -/
def Op.wants (o : Op) : List Nat :=
  if o.done then []
  else match o.kind with
    | .load ls _ _ => ls.flatMap fun x => (x.slots.filter fun sl => sl.val.isNone).map Slot.addr
    | .tile _ ps _ _ ss => ((ps.flatMap TilePart.slots ++ ss.map Prod.snd).filter fun sl => sl.val.isNone).map Slot.addr
    | .atomic _ _ _ _ its _ => (its.filter fun i => !i.done).map AtomItem.addr
    | .engine e => (e.pages.map fun p => p.2.ha p.2.va) ++ e.lanes.flatMap fun x => x.slots.map Slot.addr
    | .mma _ => []

/-- An access that has been issued to a page of a core's scratchpad is not yet performed (R51, R168, R250), or the team that has
the page cannot spill it now, since its frame's stack is fenced (R334; log entry 81). -/
def State.pageBusy (s : State) (core pos : Nat) : Bool :=
  let lo := scratchPA core (pos * pageBytes)
  let here := fun a => lo ≤ a && a < lo + pageBytes
  (s.caches.flights.any fun p => p.2.words.any fun w => here w.1) ||
    (s.groups.any fun p => p.2.ops.any fun o => o.wants.any here) || (s.orphans.any fun p => p.2.2.wants.any here) ||
    s.teams.any fun t => !s.frameUp t.1 && (t.2.livePages core).any fun p => p.2 == pos

/-- An incoming team claims page positions of a core: the teams that are not running spill the pages they have there
(R315). -/
def State.claimPages (s : State) (ctx core : Nat) (ps : List Nat) : State :=
  (s.teams.filter fun t => t.1 != ctx && t.2.st != .running && t.2.st != .placing).foldl
    (fun u t => ((t.2.livePages core).filter fun p => ps.contains p.2).foldl (fun v p => v.spillPage t.1 p.1) u) s

/-! ### Grants (R305) -/

/-- A team runs, or is about to. -/
def Team.busy (t : Team) : Bool := t.st == .running || t.st == .placing

/-- The groups of a core whose teams satisfy a condition, other than one context's. -/
def State.coreGroups (s : State) (ctx core : Nat) (p : Team → Bool) : List (Nat × Group) :=
  s.groups.filter fun g => !isPolicy g.1 && ctxOf g.1 != ctx && (s.teamOf g.1).core == core && p (s.teamOf g.1)

/-- No two members of a list are equal. -/
def distinct (xs : List Nat) : Bool := xs.eraseDups.length == xs.length

/-- Every member lies in a range of `n` from `lo`. -/
def inRange (lo n : Nat) (xs : List Nat) : Bool := xs.all fun x => lo ≤ x && x < lo + n

/-- A core that takes teams: not spared out, its die up, and no thermal shutdown pending (R333, R337, R339). -/
def State.coreUp (s : State) (core : Nat) : Bool :=
  core < 256 && !s.sparedUnit 1 core && mget 0 s.dev.dies (dieOf core) == 0 && s.dev.thermal != 2

/-- Every counter of a team's groups is zero, no SFU entry is theirs, and their stores to controllers and scratchpads have
been acknowledged, as for a FENCE dev (R42, R135, R144, R201); and the frame can be written (R334; log entry 81). -/
def State.drained (s : State) (ctx : Nat) : Bool :=
  s.frameUp ctx && (s.groupsOf ctx).all fun k =>
    (s.group k).ops.isEmpty && !(s.sfu.any fun q => q.2.any fun e => e.grp == k) && !s.flying k false

/-! ### Rows and tiles that a frame holds (R315, R316) -/

/-- The rows of a group, by the registers that each holds (R23). -/
def Group.rowUnits (g : Group) (regs : Nat) : List (List Nat) :=
  (g.packed.map fun p => [p.1, p.2]) ++
    ((List.range regs).filter fun r => !(g.packed.any fun p => p.1 == r || p.2 == r)).map fun r => [r]

/-- The rows and tiles of a group that its core still holds. -/
def State.rowsHere (s : State) (k : Nat) : List (List Nat) :=
  ((s.group k).rowUnits (s.teamOf k).regs).filter fun u => !(u.any fun r => (s.group k).spiltRows.contains r)
def State.tilesHere (s : State) (k : Nat) : List Nat :=
  (List.range (s.teamOf k).tiles).filter fun i => !(s.group k).spiltTiles.contains i

/-- Where group `gid`'s parts begin in a context frame, and in it its registers, their state words, its ports and its tiles
(R316). Log entry 61. -/
def Team.frameGroup (t : Team) (gid : Nat) : Nat := t.frame + 8192 + gid * (2048 + 136 * t.regs + 160 * 8 + 5664 * t.tiles)
def Team.frameRow (t : Team) (gid r : Nat) : Nat := t.frameGroup gid + 2048 + 128 * r
def Team.frameRowState (t : Team) (gid r : Nat) : Nat := t.frameGroup gid + 2048 + 128 * t.regs + 8 * r
def Team.framePort (t : Team) (gid q : Nat) : Nat := t.frameGroup gid + 2048 + 136 * t.regs + 160 * q
def Team.frameTile (t : Team) (gid i : Nat) : Nat := t.frameGroup gid + 2048 + 136 * t.regs + 160 * 8 + 5664 * i

/-- The width table's bit of a register: every lane's value is the sign extension of its low 16 bits (R23). -/
def Group.narrow (g : Group) (r : Nat) : Bool := allLanes.all fun l => g.reg r l == ((g.reg r l).setWidth 16).signExtend 32

/-- The state word of a register: full bits by quarter, the width table's bit, the lanes that carry a mark (R316). -/
def Group.rowState (g : Group) (r : Nat) : List Byte :=
  leBytes 4 (((List.range 4).map fun q => if g.emptyIn r q then 0 else 2 ^ q).sum + if g.narrow r then 16 else 0) ++
    leBytes 4 (maskOf (allLanes.filter fun l => (g.markOf r l).isSome)).toNat

/-- A register goes to the frame, and is marked there as spilt. -/
def State.spillRow (s : State) (k r : Nat) : State :=
  let g := s.group k; let t := s.teamOf k
  ((s.frameWrite (t.frameRow (gidOf k) r) (allLanes.flatMap fun l => leBytes 4 (g.reg r l).toNat)).frameWrite
    (t.frameRowState (gidOf k) r) (g.rowState r)).updGroup k fun g => { g with spiltRows := g.spiltRows ++ [r] }

/-- A register's state word takes effect: its full bits, and the lanes that carry marks. -/
def Group.takeRowState (g : Group) (r n : Nat) : Group :=
  let g := (List.range 4).foldl (fun (h : Group) q => h.setEmpty r [q] (!n.testBit q)) g
  allLanes.foldl (fun (h : Group) l => if n.testBit (32 + l) then h else { h with marks := mdel (32 * r + l) h.marks }) g

/-- A register comes back from the frame with its state (R316); a lane whose word is lost carries a mark (log entry 24). -/
def State.fillRow (s : State) (k r : Nat) : State :=
  let t := s.teamOf k
  s.updGroup k fun g =>
    let g := match s.frameRead (t.frameRowState (gidOf k) r) 8 with
      | some bs => g.takeRowState r (leNat bs)
      | none => g
    let g := allLanes.foldl (fun (h : Group) l => match s.homeRead (t.frameRow (gidOf k) r + 4 * l) with
      | .word w => { h with regs := mput 0#32 h.regs (32 * r + l) w }
      | .lost c => h.setMark r l ⟨c, 0⟩) g
    { g with spiltRows := g.spiltRows.filter fun x => x != r }

/-- Scale slots of a row of a tile (R228). -/
def Tile.rowSlots (x : Tile) (rb : Nat) : Nat := (rowElems x.rt rb + 31) / 32

/-- The bytes of a tile in a frame: data, scale slots by rows, RT, full bit and mark (R316). -/
def Tile.frame (x : Tile) (rb : Nat) : List Byte :=
  x.getBytes 0 4096 ++
    ((List.range 384).flatMap fun i => leBytes 4 (x.scale (i / x.rowSlots rb) (i % x.rowSlots rb)).toNat) ++
    leBytes 1 (x.rt + (if x.full then 16 else 0) + if x.mark.isSome then 32 else 0) ++
    leBytes 1 ((x.mark.map fun m => m.cause.code).getD 0) ++ List.replicate 6 0#8 ++
    leBytes 8 ((x.mark.map Mark.addr).getD 0) ++ List.replicate 16 0#8

/-- A tile goes to the frame, and is marked there as spilt. A CLASP side that uses it makes its exchange first if its partner is
in the bridge, and is withdrawn otherwise (R245; for a group halted in place DESIGN CHOICE, log entry 100). -/
def State.spillTile (s : State) (k i : Nat) : State :=
  let s := if (s.group k).wait.clasp.any fun x => x.a == i || x.d == i then (s.exchangeDue k).withdraw k else s
  let g := s.group k
  (s.frameWrite ((s.teamOf k).frameTile (gidOf k) i) ((g.tile i).frame (g.rb i))).updGroup k fun g =>
    { g with spiltTiles := g.spiltTiles ++ [i] }

/-- A tile comes back from the frame; where a word of it is lost it carries a mark (log entry 24). -/
def State.fillTile (s : State) (k i : Nat) : State :=
  let g := s.group k
  let x := g.tile i
  let y := match s.frameRead ((s.teamOf k).frameTile (gidOf k) i) 5664 with
    | none => { x with mark := some ⟨.dataLost, 0⟩ }
    | some bs =>
      let n := fun i m => leNat ((bs.drop (5632 + i)).take m)
      let x := ({ x with
        free := none, rt := n 0 1 % 16, full := (n 0 1).testBit 4,
        mark := if (n 0 1).testBit 5 then (causeOf (n 1 1)).map fun c => ⟨c, n 8 8⟩ else none } : Tile).putBytes 0 (bs.take 4096)
      (List.range 384).foldl (fun (x : Tile) j =>
        x.setScale (j / x.rowSlots (g.rb i)) (j % x.rowSlots (g.rb i))
          (BitVec.ofNat 24 (leNat ((bs.drop (4096 + 4 * j)).take 4)))) { x with slots := [] }
  s.setGroup k { g.setTile i y with spiltTiles := g.spiltTiles.filter fun j => j != i }

/-- A group's control part goes to the frame, and of each port its binding and its first 32 elements, which come back
(R316). -/
def State.saveParts (s : State) (k : Nat) : State :=
  (List.range 8).foldl (fun u q =>
    let a := (u.teamOf k).framePort (gidOf k) q
    (u.frameFree a 8).frameWrite (a + 32) ((((u.group k).port q).elems.take 32).flatMap fun w => leBytes 4 w.toNat))
    (s.frameFree ((s.teamOf k).frameGroup (gidOf k)) 512)
def State.loadPorts (s : State) (k : Nat) : State :=
  (List.range 8).foldl (fun u q =>
    let p := (u.group k).port q
    let a := (u.teamOf k).framePort (gidOf k) q + 32
    u.updGroup k fun g => g.setPort q
      { p with elems := ((List.range (min 32 p.elems.length)).map fun i => (u.homeRead (a + 4 * i)).toWord) ++ p.elems.drop 32 }) s

/-- The ports of a team's groups with elements beyond the first 32, in group and port order: group, port, how many. -/
def State.overPorts (s : State) (ctx : Nat) : List (Nat × Nat × Nat) :=
  (s.groupsOf ctx).flatMap fun k => (List.range 8).filterMap fun q =>
    let n := ((s.group k).port q).elems.length
    if 32 < n then some (k, q, n - 32) else none

/-- The register lanes of a team's groups that carry marks, in group, register and lane order. -/
def State.overMarks (s : State) (ctx : Nat) : List (Nat × Nat × Nat × Mark) :=
  (s.groupsOf ctx).flatMap fun k => (List.range (s.teamOf k).regs).flatMap fun r => allLanes.filterMap fun l =>
    ((s.group k).markOf r l).map fun m => (k, r, l, m)

/-- A mark record (R316): register, lane, cause, and the address in bytes 8 to 15 as a tile's mark has it (log entry 61). -/
def markRecord (r l : Nat) (m : Mark) : List Byte :=
  leBytes 1 r ++ leBytes 1 l ++ leBytes 1 m.cause.code ++ List.replicate 5 0#8 ++ leBytes 8 (m.addr % 2 ^ 57)

/-- The contents of a frame's overflow area (R316). -/
def State.overBytes (s : State) (ctx : Nat) : List Byte :=
  ((s.overPorts ctx).flatMap fun x => ((((s.group x.1).port x.2.1).elems).drop 32).flatMap fun w => leBytes 4 w.toNat) ++
    (s.overMarks ctx).flatMap fun x => markRecord x.2.1 x.2.2.1 x.2.2.2

/-- The pages that the system has allocated hold a team's overflow area. -/
def State.overRoom (s : State) (ctx : Nat) : Bool := (s.overBytes ctx).length ≤ 65536 * (mget {} s.teams ctx).overPages.length

/-- The place of a byte of the overflow area. -/
def Team.overPlace (t : Team) (i : Nat) : Nat := t.overPages.getD (i / 65536) 0 + i % 65536

/-- The overflow area is written. -/
def State.saveOver (s : State) (ctx : Nat) : State :=
  let t := mget {} s.teams ctx
  let bs := s.overBytes ctx
  ((List.range (bs.length / 4)).zip (chunks 4 (bs.length / 4) bs)).foldl
    (fun u p => u.frameWrite (t.overPlace (4 * p.1)) p.2) s

/-- What the overflow area holds from a byte on, as a number of `n` words. -/
def State.overNum (s : State) (t : Team) (i n : Nat) : Nat :=
  packList 32 ((List.range n).map fun j => (s.homeRead (t.overPlace (i + 4 * j))).toWord.toNat)

/-- The overflow area comes back: the ports' further elements, and the marks of spilt registers (R316). The marks of registers
whose rows the core has kept are there. -/
def State.loadOver (s : State) (ctx : Nat) : State :=
  let t := mget {} s.teams ctx
  let ms := s.overMarks ctx
  let z := (s.overPorts ctx).foldl (fun (z : State × Nat) x =>
    let es := (List.range x.2.2).map fun i => BitVec.ofNat 32 (s.overNum t (z.2 + 4 * i) 1)
    (z.1.updGroup x.1 fun g =>
      let p := g.port x.2.1
      g.setPort x.2.1 { p with elems := p.elems.take 32 ++ es }, z.2 + 4 * x.2.2)) (s, 0)
  ((List.range ms.length).zip ms).foldl (fun u x =>
    if !(u.group x.2.1).spiltRows.contains x.2.2.1 then u
    else
      let n := s.overNum t (z.2 + 16 * x.1) 4
      match causeOf (bits n 23 16) with
      | some c => u.updGroup x.2.1 fun g => g.setMark (bits n 7 0) (bits n 15 8) ⟨c, bits n 120 64⟩
      | none => u) z.1

/-- Everything of a group that its frame holds comes back to its core. -/
def State.fillGroup (s : State) (k : Nat) : State :=
  let s := (s.group k).spiltRows.foldl (fun u r => u.fillRow k r) s
  (s.group k).spiltTiles.foldl (fun u i => u.fillTile k i) s

/-- A team's rows and tile units cannot be claimed: it runs, it is one of those that `keep` names, or its operations are still
under way (R42, R315). -/
def State.keeps (s : State) (keep : Team → Bool) (ctx : Nat) : Bool :=
  let t := mget {} s.teams ctx
  t.busy || keep t || !s.drained ctx

/-- Rows of a lane set of a core that cannot be claimed, those of one context apart. -/
def State.rowsUsed (s : State) (ctx core ls : Nat) (keep : Team → Bool := fun _ => false) : Nat :=
  ((s.coreGroups ctx core fun _ => true).filter fun g => g.2.slot / 4 == ls).map (fun g =>
    if (s.teamOf g.1).busy then s.groupRows g.1 else if s.keeps keep (ctxOf g.1) then (s.rowsHere g.1).length else 0) |>.sum

/-- Tile units of a partition that cannot be claimed. -/
def State.tilesUsed (s : State) (ctx core part : Nat) (keep : Team → Bool := fun _ => false) : Nat :=
  ((s.coreGroups ctx core fun t => t.part == part).map fun g =>
    if (s.teamOf g.1).busy then (s.teamOf g.1).tiles
    else if s.keeps keep (ctxOf g.1) then (s.tilesHere g.1).length else 0).sum

/-- Spill up to `n` units of the groups of a list, one group after another: what each still has on its core. -/
def spillUpTo (here : State → Nat → List (List Nat)) (out : State → Nat → Nat → State) (n : Nat) (ks : List Nat) (s : State) :
    State :=
  (ks.foldl (fun (z : State × Nat) k =>
    let us := (here z.1 k).take z.2
    (us.flatten.foldl (fun u r => out u k r) z.1, z.2 - us.length)) (s, n)).1

/-- An incoming team claims `n` rows of a lane set: what is not free is spilt from the teams that are not running (R315), those
that `keep` names apart. -/
def State.claimRows (s : State) (ctx core ls n : Nat) (keep : Team → Bool := fun _ => false) : State :=
  let idle := ((s.coreGroups ctx core fun t => !t.busy).filter fun g => g.2.slot / 4 == ls).map Prod.fst
  let ks := idle.filter fun k => !s.keeps keep (ctxOf k)
  let excess := n + s.rowsUsed ctx core ls keep + (ks.map fun k => (s.rowsHere k).length).sum - s.laneRows core ls
  spillUpTo State.rowsHere State.spillRow excess ks s

/-- The same for `n` tile units of a partition. -/
def State.claimTiles (s : State) (ctx core part n : Nat) (keep : Team → Bool := fun _ => false) : State :=
  let ks := ((s.coreGroups ctx core fun t => !t.busy && t.part == part).map Prod.fst).filter fun k => !s.keeps keep (ctxOf k)
  let excess := n + s.tilesUsed ctx core part keep + (ks.map fun k => (s.tilesHere k).length).sum -
    efld (s.part (core * 8 + part)) 71 64
  spillUpTo (fun u k => (u.tilesHere k).map fun i => [i]) State.spillTile excess ks s

/-- Something of a team is in its frame in place of its core. -/
def State.hasSpilt (s : State) (ctx : Nat) : Bool :=
  !(mget {} s.teams ctx).spilt.isEmpty ||
    (s.groupsOf ctx).any fun k => !(s.group k).spiltRows.isEmpty || !(s.group k).spiltTiles.isEmpty

/-- An incoming team claims rows, by the lane sets of its slots, tile units and pages; the frames of the teams that spill show
it in their headers (R315). -/
def State.claim (s : State) (ctx core part : Nat) (rows : List (Nat × Nat)) (tiles : Nat) (pages : List Nat)
    (keep : Team → Bool := fun _ => false) : State :=
  let s := (List.range 16).foldl (fun u ls =>
    let n := ((rows.filter fun x => x.1 / 4 == ls).map Prod.snd).sum
    if n = 0 then u else u.claimRows ctx core ls n keep) s
  let s := (s.claimTiles ctx core part tiles keep).claimPages ctx core pages
  ((s.teams.filter fun t => t.1 != ctx && !t.2.busy && t.2.core == core && s.hasSpilt t.1).map Prod.fst).foldl State.saveHeader s

/-- A grant keeps the rules of its partition (R34, R51, R305, R315): free slots of the partition's lane sets, rows and tile
units that no running team has, consecutive accumulators, and free pages, to which no access is under way. `rows`: the rows
that each group takes. -/
def State.grantOk (s : State) (ctx : Nat) (gr : Grant) (rows : List Nat) (tiles accs pages : Nat) : Bool :=
  let ng := rows.length
  let w := s.part (gr.core * 8 + gr.partition)
  let held := s.coreGroups ctx gr.core Team.held
  let busy := s.coreGroups ctx gr.core Team.busy
  s.coreUp gr.core && gr.partition < 8 && partEn w &&
    gr.slots.length == ng && distinct gr.slots && inRange (4 * efld w 55 52) (4 * efld w 51 47) gr.slots &&
    !(held.any fun g => gr.slots.contains g.2.slot) &&
    ((List.range 16).all fun ls =>
      let mine := (((gr.slots.zip rows).filter fun x => x.1 / 4 == ls).map Prod.snd).sum
      mine == 0 || mine + s.rowsUsed ctx gr.core ls ≤ s.laneRows gr.core ls) &&
    ng * tiles + s.tilesUsed ctx gr.core gr.partition ≤ efld w 71 64 &&
    gr.accs.length == ng &&
    (let mine := gr.accs.flatMap fun b => (List.range accs).map fun i => b + i
     let theirs := busy.flatMap fun g => (List.range (s.teamOf g.1).accs).map fun i => g.2.acc + i
     distinct mine && inRange (efld w 63 60) (efld w 59 56) mine && !(mine.any fun x => theirs.contains x || s.accStuck gr.core x)) &&
    gr.pages.length == pages && distinct gr.pages && inRange (efld w 95 88) (efld w 87 80) gr.pages &&
    !((s.gangPages gr.core).any fun p => gr.pages.contains p) &&
    !(s.teams.any fun t => (t.1 == ctx || t.2.busy) && (t.2.livePages gr.core).any fun p => gr.pages.contains p.2) &&
    !(gr.pages.any fun p => s.pageBusy gr.core p)

/-! ### Accumulators at placement and restore (R343) -/

/-- The tag names no context that still exists. -/
def State.tagFree (s : State) (tag : BitVec 22) : Bool := (mfind (tag.toNat / 64) s.teams).isNone

/-- Tags that name an earlier context of a number that is given out again name a context that has ended: they become
the null tag, which placement treats alike (log entry 33). -/
def State.forgetTags (s : State) (ctx : Nat) : State :=
  { s with accs := (s.accs.map Prod.fst).foldl (fun m p =>
      let a := mget {} m p
      if a.tag.toNat / 64 == ctx then mput {} m p { a with tag := nullTag } else m) s.accs }

/-- Placement of a new group treats each accumulator of its grant in every unit. -/
def State.placeAccs (s : State) (k : Nat) : State :=
  let t := s.teamOf k
  (List.range t.accs).foldl (fun s i => units.foldl (fun s u =>
    let p := (s.group k).acc + i
    if s.tagFree (s.acc t.core u p).tag then s.setAcc t.core u p (.fresh (s.tagOf k) none) else s) s) s

/-! ### The state a group starts with (R15, R41) -/

/-- A group at launch. -/
def Group.launched (t : Team) (gid entry prio pb slot acc age tick : Nat) : Group :=
  { pc := (allLanes.filter fun l => 32 * gid + l < t.e0).map fun l => (l, BitVec.ofNat 64 entry),
    ctl := { prio := BitVec.ofNat 32 prio },
    tiles := (List.range t.tiles).map fun i => (i, { free := some (tick, i) }),
    pb := pb, slot := slot, acc := acc, age := age }

/-! ### Halting (R314) -/

/-- A halt request stops a group at this boundary and presents PREEMPT. -/
def execGroupHalt (g : Nat) (s : State) : Out :=
  .next (if (mfind g s.groups).isSome && !isPolicy g && (s.teamOf g).haltReq && !(s.group g).halted then
      s.takeTrap g [⟨lowest (s.group g).live, .preempt, none⟩]
    else s)

/-- A running team whose watchdog count has reached WDOG is pre-empted and ended (R22, R163). -/
def State.bite (s : State) (ctx : Nat) : State :=
  match mfind ctx s.teams with
  | some t =>
    if t.st == .running && s.wdogOf t ≤ t.watch then
      match s.groupsOf ctx with
      | k :: _ => s.takeTrap k [⟨lowest (s.group k).cand, .watchdog, none⟩]
      | [] => s
    else s
  | none => s

def execWatchdog (ctx : Nat) (s : State) : Out := .next (s.bite ctx)

/-- Every watchdog whose count has reached its limit pre-empts its team before anything issues. -/
def State.watchdogs (s : State) : State := (s.teams.map Prod.fst).foldl State.bite s

/-! ### Packed rows (R23) -/

/-- The pairs of registers that a restore may hold in one row each. -/
def pairUp : List Nat → List (Nat × Nat)
  | a :: b :: rs => (a, b) :: pairUp rs
  | _ => []
def Group.packable (g : Group) (regs : Nat) : List (Nat × Nat) := pairUp ((List.range regs).filter g.narrow)

/-- The pairs that a write has broken: a register of them is no longer narrow. -/
def Group.broken (g : Group) : List (Nat × Nat) := g.packed.filter fun p => !(g.narrow p.1 && g.narrow p.2)

/-- Registers that have left a shared row take rows of their own from the lane set: none where it has none free. -/
def State.unpackGroup (s : State) (k : Nat) : Option State :=
  let g := s.group k
  if g.broken.isEmpty then some s
  else if s.rowsUsed 0x10000 (s.coreOf k) (g.slot / 4) + g.broken.length ≤ s.laneRows (s.coreOf k) (g.slot / 4) then
    some ((s.claimRows 0x10000 (s.coreOf k) (g.slot / 4) g.broken.length).updGroup k fun g =>
      { g with packed := g.packed.filter fun p => !g.broken.contains p, rowWait := none })
  else none

/-- Every group unpacks what it must: none where one finds no row; the group's name then. -/
def State.unpack (s : State) : State × Option Nat :=
  if s.groups.all fun p => p.2.packed.isEmpty then (s, none)
  else s.groups.foldl (fun z p => if z.2.isSome then z else match z.1.unpackGroup p.1 with
    | some t => (t, none)
    | none => (z.1, some p.1)) (s, none)

/-- A group stalls at a write for a row (R23). -/
def State.rowStall (s : State) (k : Nat) : State := s.updGroup k fun g => { g with rowWait := some (g.rowWait.getD 0) }

/-- A stall for a packed register's row has lasted 65,536 core cycles: the team is halted and saved, and its next restore
packs nothing. -/
def execPackedRowStallSave (ctx : Nat) (s : State) : Out :=
  .next (match mfind ctx s.teams with
    | some t =>
      if t.st == .running && (s.groupsOf ctx).any (fun k => 65536 ≤ (s.group k).rowWait.getD 0) then
        s.updTeam ctx fun t => { t with haltReq := true, nopack := true }
      else s
    | none => s)

/-! ### Saving (R42, R144, R316) -/

/-- A group's private words are written back (R52). -/
def State.savePrivate (s : State) (k : Nat) : State :=
  let t := s.teamOf k
  s.surrenderRegion t.core (s.who k) (s.group k).pb (128 * ((t.priv + 3) / 4))

/-- A halted team that has drained is saved: its P words complete, its private words are written back, a CLASP side whose
partner is in the bridge makes its exchange and any other is withdrawn, its frame's header, control parts and ports are
written, with the overflow area, and its slots are free; its rows, tiles and pages stay until they are claimed (R144, R245, R315,
R316). -/
def State.saveTeam (s : State) (ctx : Nat) : State :=
  let t := mget {} s.teams ctx
  let ks := s.groupsOf ctx
  let s := s.drainCore t.core
  let s := (ks.foldl (fun u k => (((u.savePrivate k).exchangeDue k).withdraw k).saveParts k) s).saveOver ctx
  let s := ks.foldl (fun u k => u.updGroup k fun g => { g with rowWait := none }) s
  (s.updTeam ctx fun t =>
    { t with st := if t.park then .parked else .saved, park := false, haltReq := false, starved := false }).saveHeader ctx

/-- A team can be saved: it has drained, and its overflow area has its pages. -/
def State.savable (s : State) (ctx : Nat) : Bool := s.drained ctx && s.overRoom ctx

/-- Log entry 61. -/
def execContextSave (ctx : Nat) (s : State) : Out :=
  .next (match mfind ctx s.teams with
    | some t => if t.st == .halted && s.savable ctx then s.saveTeam ctx else s
    | none => s)

/-- The system allocates the pages of the overflow area for the save of a halted team (R316; log entry 61): apart from each
other, and from every frame. -/
def State.setOver (s : State) (ctx : Nat) (pages : List Nat) : State :=
  match mfind ctx s.teams with
  | some t =>
    let clear := fun a => a % 65536 == 0 && isHbm a && !(s.teams.any fun x =>
      bytesMeet a 65536 x.2.frame x.2.frameBytes || x.1 != ctx && x.2.overPages.any fun b => bytesMeet a 65536 b 65536)
    if t.st == .halted && distinct pages && pages.all clear then s.updTeam ctx fun t => { t with overPages := pages } else s
  | none => s

/-! ### Resuming and restoring (R315, R316, R343) -/

/-- A team goes on: its groups are no longer halted. -/
def State.goOn (s : State) (ctx : Nat) : State :=
  ((s.groupsOf ctx).foldl (fun u k => u.updGroup k fun g => { g with halted := false }) s).updTeam ctx fun t =>
    { t with st := .running, haltReq := false }

/-- The positions of a core at which teams that satisfy a condition have pages. -/
def State.pagesAt (s : State) (core : Nat) (p : Team → Bool) : List Nat :=
  (s.teams.filter fun x => p x.2).flatMap fun x => (x.2.livePages core).map Prod.snd

/-- Page positions of a team's partition that are free: those that hold no page first, then those at which only teams that
are saved have one, which is spilt when they are claimed (R51, R315). -/
def State.freePositions (s : State) (t : Team) : List Nat :=
  let w := s.part (t.core * 8 + t.part)
  let used := s.pagesAt t.core Team.held ++ s.gangPages t.core
  let saved := s.pagesAt t.core fun x => !x.held
  let ps := ((List.range (efld w 87 80)).map fun i => efld w 95 88 + i).filter fun p =>
    !used.contains p && !s.pageBusy t.core p
  (ps.filter fun p => !saved.contains p) ++ ps.filter fun p => saved.contains p

/-- A team halted in place finds rows and tile units for what it has on its core and in its frame: those that no other team with
slots holds (R315). -/
def State.rowsBack (s : State) (ctx : Nat) : Bool :=
  let t := mget {} s.teams ctx
  let ks := s.groupsOf ctx
  ((List.range 16).all fun ls =>
    let mine := ((ks.filter fun k => (s.group k).slot / 4 == ls).map s.groupRows).sum
    mine == 0 || mine + s.rowsUsed ctx t.core ls Team.held ≤ s.laneRows t.core ls) &&
  ks.length * t.tiles + s.tilesUsed ctx t.core t.part Team.held ≤ efld (s.part (t.core * 8 + t.part)) 71 64

/-- A team halted in place is resumed: spilt rows, tiles and pages are filled back from free ones; where rows, tiles or pages
are not free, it is saved instead (R315). -/
def State.resumeTeam (s : State) (ctx : Nat) : State :=
  let t := mget {} s.teams ctx
  let ks := s.groupsOf ctx
  let free := (s.freePositions t).take t.spilt.length
  if s.hasSpilt ctx && !s.frameUp ctx then s
  else if s.rowsBack ctx && t.spilt.length ≤ free.length then
    let s := s.claim ctx t.core t.part (ks.map fun k => ((s.group k).slot, s.groupRows k)) (ks.length * t.tiles) free Team.held
    let s := ((t.spilt.map Prod.fst).zip free).foldl (fun u p => u.fillPage ctx p.1 t.core p.2) s
    (ks.foldl (fun u k => u.fillGroup k) s).goOn ctx
  else if s.savable ctx then s.saveTeam ctx else s

/-- Teams halted in place whose tenant runs on their partition are resumed (R306, R315); one that is to be saved is not. -/
def State.resumeDue (s : State) : State :=
  (s.teams.filter fun x => x.2.st == .halted && !x.2.park && !x.2.nopack && s.coreUp x.2.core &&
    s.runningTenant (x.2.core * 8 + x.2.part) == x.2.tenant).foldl (fun u x => u.resumeTeam x.1) s

/-- Where the contents of a saved group's accumulator `i` are, if an accumulator still holds them. -/
def State.accHome (s : State) (core : Nat) (g : Group) (ctx i : Nat) : Option Nat :=
  if (s.acc core 0 (g.acc + i)).tag == BitVec.ofNat 22 (ctx * 64 + g.slot % 64) then some (g.acc + i) else none

/-- Before a restore: contents that lie in an accumulator other than the new one go to their image, and that accumulator
takes the null tag (R343, step 2). -/
def State.gatherAcc (s : State) (ctx k i core p : Nat) : State :=
  let t := mget {} s.teams ctx
  match s.accHome t.core (s.group k) ctx i with
  | some q =>
    if t.core = core ∧ q = p then s
    else
      units.foldl (fun u v => u.setAcc t.core v q { u.acc t.core v q with tag := nullTag })
        (s.spillImage t.core q ctx (imageOf t k i))
  | none => s

/-- The restored group's accumulator takes its place (R343, steps 1, 3 and 4): `here`: its contents are in place. -/
def State.settleAcc (s : State) (k i : Nat) (here : Bool) : State :=
  let core := s.coreOf k
  let p := (s.group k).acc + i
  if here then units.foldl (fun u v => u.setAcc core v p { u.acc core v p with tag := u.tagOf k }) s
  else (s.spill core p).give core p k

/-- The pages that a restore fills: every one that is spilt or lies on another core. -/
def Team.pagesNeeded (t : Team) (core : Nat) : List Nat :=
  (List.range t.pages.length).filter fun i => !(t.livePages core).any fun p => p.1 == i

/-- A restore may use a core: the saved core or another of its cluster, or the cluster that MIGR chose (R306, R316). -/
def Team.restorable (t : Team) (core : Nat) : Bool := clusterOf core == t.move.getD (clusterOf t.core)

/-- Saved or parked teams of a gang. -/
def State.gangOut (s : State) (gang : Nat) : List Nat :=
  (s.teams.filter fun t => t.2.gang == gang && (t.2.st == .saved || t.2.st == .parked)).map Prod.fst

/-- The teams of a gang that wait for the others go on together (R16, R316). -/
def State.startGang (s : State) (gang : Nat) : State :=
  (s.teams.filter fun t => t.2.gang == gang && t.2.st == .placing).foldl (fun u t => u.goOn t.1) s

/-- Every row and tile of a group that its core holds goes to the frame. -/
def State.leaveAll (s : State) (k : Nat) : State :=
  let s := (s.rowsHere k).flatten.foldl (fun u r => u.spillRow k r) s
  (s.tilesHere k).foldl (fun u i => u.spillTile k i) s

/-- A group's rows and tiles that cannot stay where they are go to the frame before a restore in lane set `ls` of a core (R315,
R316). -/
def State.leaveCore (s : State) (k core ls : Nat) : State :=
  if s.coreOf k != core then s.leaveAll k
  else if (s.group k).slot / 4 != ls then (s.rowsHere k).flatten.foldl (fun u r => u.spillRow k r) s else s

/-- Restore a team on the resources of a grant (R316, R343). -/
def State.restoreTeam (s : State) (ctx : Nat) (gr : Grant) : State :=
  let t := mget {} s.teams ctx
  let ks := (s.groupsOf ctx).zip (gr.slots.zip gr.accs)
  let need := t.pagesNeeded gr.core
  let here := fun (k b i : Nat) => t.core == gr.core && s.accHome t.core (s.group k) ctx i == some (b + i)
  let hs := ks.map fun p => (List.range t.accs).map fun i => here p.1 p.2.2 i
  let packs := ks.map fun p => if gr.pack && !t.nopack then (s.group p.1).packable t.regs else []
  let s := ks.foldl (fun u p => u.leaveCore p.1 gr.core (p.2.1 / 4)) s
  let s := s.claim ctx gr.core gr.partition ((ks.zip packs).map fun p => (p.1.2.1, t.regs - p.2.length)) (ks.length * t.tiles)
    gr.pages
  let s := (need.foldl (fun u i => u.spillPage ctx i) s).loadOver ctx
  let s := ks.foldl (fun u p => (List.range t.accs).foldl (fun u i => u.gatherAcc ctx p.1 i gr.core (p.2.2 + i)) u) s
  let s := (ks.zip packs).foldl (fun u p => ((u.updGroup p.1.1 fun g =>
    { g with slot := p.1.2.1, acc := p.1.2.2, packed := p.2 }).fillGroup p.1.1).loadPorts p.1.1) s
  let s := s.updTeam ctx fun t =>
    { t with core := gr.core, part := gr.partition, st := .placing, move := none, nopack := false, starved := false, offer := none,
             overPages := [] }
  let s := (need.zip gr.pages).foldl (fun u p => u.fillPage ctx p.1 gr.core p.2) s
  let s := (ks.zip hs).foldl (fun u p => ((List.range t.accs).zip p.2).foldl
    (fun u q => u.settleAcc p.1.1 q.1 q.2) u) s
  s.dropV gr.core fun _ => true

/-- The rows that a restore on a grant takes for each group of a team (R23). -/
def State.rowsFor (s : State) (ctx : Nat) (gr : Grant) : List Nat :=
  let t := mget {} s.teams ctx
  (s.groupsOf ctx).map fun k => t.regs - (if gr.pack && !t.nopack then ((s.group k).packable t.regs).length else 0)

/-- Runs of `n` consecutive members of a list of numbers that rise. -/
def runsOf (n : Nat) (xs : List Nat) : Nat :=
  (xs.foldl (fun (z : Nat × Nat × Option Nat) x =>
    let len := if z.2.2 = some (x - 1) ∧ 0 < x then z.2.1 + 1 else 1
    if len = n then (z.1 + 1, 0, none) else (z.1, len, some x)) (0, 0, none)).1

/-- A partition can take the groups of a team (R305, R316): slots and rows in its lane sets, tiles, accumulators and pages. -/
def State.partTakes (s : State) (ctx p : Nat) : Bool :=
  let t := mget {} s.teams ctx
  let w := s.part p; let core := p / 8
  let n := s.liveGroups ctx
  let held := s.coreGroups ctx core Team.held
  let busy := s.coreGroups ctx core Team.busy
  let fit := fun ls =>
    min (4 - (held.filter fun g => g.2.slot / 4 == ls).length) ((s.laneRows core ls - s.rowsUsed ctx core ls) / max 1 t.regs)
  let accs := ((List.range (efld w 59 56)).map fun i => efld w 63 60 + i).filter fun x =>
    !(busy.any fun g => g.2.acc ≤ x && x < g.2.acc + (s.teamOf g.1).accs)
  let pages := ((List.range (efld w 87 80)).map fun i => efld w 95 88 + i).filter fun x =>
    !((s.pagesAt core Team.busy ++ s.gangPages core).contains x)
  s.coreUp core && partEn w && s.runningTenant p == t.tenant &&
    n ≤ ((List.range (efld w 51 47)).map fun i => fit (efld w 55 52 + i)).sum &&
    n * t.tiles + ((busy.filter fun g => (s.teamOf g.1).part == p % 8).map fun g => (s.teamOf g.1).tiles).sum ≤ efld w 71 64 &&
    (t.accs == 0 || n ≤ runsOf t.accs accs) && (t.pagesNeeded core).length ≤ pages.length

/-- A team that is out can be restored on a grant: in a partition that serves its tenant, and on its own core where that can
take it (R316; DEDUCED, log entry 79). -/
def State.restoreOk (s : State) (ctx : Nat) (gr : Grant) : Bool :=
  match mfind ctx s.teams with
  | some t =>
    (t.st == .saved || t.st == .parked) && s.frameUp ctx && t.restorable gr.core &&
      s.runningTenant (gr.core * 8 + gr.partition) == t.tenant &&
      (gr.core == t.core || !t.restorable t.core || !((List.range 8).any fun p => s.partTakes ctx (t.core * 8 + p))) &&
      !((t.pagesNeeded gr.core).any fun i => match t.pages[i]?, mfind i t.spilt with
        | some x, none => s.pageBusy x.core x.pos
        | _, _ => false) &&
      s.grantOk ctx gr (s.rowsFor ctx gr) t.tiles t.accs (t.pagesNeeded gr.core).length
  | none => false

/-- No core that may take a team again can take it (R316). -/
def State.nowhere (s : State) (ctx : Nat) : Bool :=
  !((List.range 2048).any fun p => (mget {} s.teams ctx).restorable (p / 8) && s.partTakes ctx p)

/-- A team is placement-starved: it is parked and counted, PLACEMENT_STARVED is sent, and MIGR is called (R316). It is so
once, until a restore or a MIGR decision (log entry 79). -/
def State.starve (s : State) (ctx : Nat) : State :=
  let t := mget {} s.teams ctx
  let s := s.updTeam ctx fun t => { t with st := .parked, starved := true }
  (((s.bump 0x55 0 t.tenant 1).postEvent t.qid ⟨8, 1, t.qid, t.tag, 0, 0, 0⟩)).call ⟨6, 3, ctx, 0⟩

/-- Restore the teams of a gang that are out, each on its grant: none unless every one can be placed at once (R316). -/
def State.restoreAll (s : State) : List (Nat × Grant) → Option State
  | [] => some s
  | (c, gr) :: xs => if s.restoreOk c gr then (s.restoreTeam c gr).restoreAll xs else none

/-- A saved or parked team is restored; the teams of a gang that are out are restored together, when each has a grant (R316).
A team that no core can take is starved. -/
def execContextRestore (ctx : Nat) (gr : Grant) (s : State) : Out :=
  .next (match mfind ctx s.teams with
    | some t =>
      if s.restoreOk ctx gr then
        let s := s.updTeam ctx fun t => { t with offer := some gr }
        let xs := (s.gangOut t.gang).map fun c => (c, (mget {} s.teams c).offer)
        if xs.any fun x => x.2.isNone then s
        else match s.restoreAll (xs.filterMap fun x => x.2.map fun y => (x.1, y)) with
          | some u => u.startGang t.gang
          | none => xs.foldl (fun u x => u.updTeam x.1 fun t => { t with offer := none }) s
      else if (t.st == .saved || t.st == .parked) && !t.starved && s.nowhere ctx then s.starve ctx
      else s
    | none => s)

end Sys2Proof.Machine
end

