-- ==== Sys2Proof/Machine/Policy.lean ====
section
/-!
DEFINITION. Policy engines (R306, R307, R311, R319 to R321): the policy-only instructions (R167), the run of a routine,
the six decisions with their fallbacks, and the residency of queues (R303, R313).
-/

namespace Sys2Proof.Machine

/-! ### Policy-only instructions (R167) -/

def State.engine (s : State) (c : Nat) : Engine := mget {} s.engines c
def State.setEngine (s : State) (c : Nat) (e : Engine) : State := { s with engines := mset c e s.engines }

/-- Change the routine that runs on an engine. -/
def State.updRun (s : State) (c : Nat) (f : PRun → PRun) : State :=
  let e := s.engine c
  s.setEngine c { e with run := e.run.map f }

def execPctr (f : Fields) (s : State) : Out :=
  .next (issue 0xB0 f (fun _ _ => true) false true (fun s k ex run =>
    let r : Rd := ⟨s.group k, ex, run⟩
    let l := lowest run
    let i := (r.a f l).toNat % 256
    let c := clusterOfEngine k
    match (s.engine c).run.bind fun p =>
        if 0x48 ≤ i ∧ i ≤ 0x7F then s.counter c p i ((r.b 0xB0 f l).toNat % 65536) else none with
    | some w => .done (s.updGroup k fun g => g.setRegs f.d.toNat run fun _ => w) []
    | none => .trap s (allOpnd run)) s)

def execPdec (f : Fields) (s : State) : Out :=
  .next (issue 0xB1 f (fun _ _ => f.imm.toNat ≤ 7) false true (fun s k ex run =>
    let w := (Rd.mk (s.group k) ex run).a f (lowest run)
    .done (s.updRun (clusterOfEngine k) fun p => { p with dec := mput 0 p.dec f.imm.toNat w }) []) s)

/-- EVNT: at most four records are sent; further ones are dropped and counted. -/
def execEvnt (f : Fields) (s : State) : Out :=
  .next (issue 0xB2 f (fun _ _ => true) false true (fun s k ex run =>
    let w := (Rd.mk (s.group k) ex run).a f (lowest run)
    let c := clusterOfEngine k
    match (s.engine c).run with
    | some p =>
      if p.evnts.length < 4 then .done (s.updRun c fun p => { p with evnts := p.evnts ++ [(f.imm.toNat, w)] }) []
      else .done (s.bump evDrop 0 0 1) []
    | none => .done s []) s)

/-! ### Residency (R303, R313) -/

/-- Write a queue's entry of the residency table, in die 0's pocket. -/
def State.residencyWrite (s : State) (qid : Nat) (q : VQueue) : State :=
  let lo := match q.resident with
    | some (d, sl) => 2 ^ 31 + d * 64 + sl
    | none => 0
  let a := 2 ^ 48 + 8 * qid
  (s.ctlWrite a 15#4 (BitVec.ofNat 32 lo)).ctlWrite (a + 4) 15#4
    (BitVec.ofNat 32 (q.req.partid * 256 + q.req.tenant * 16))

/-- Copy a queue's line to NOTIFY; its reserved bytes read 0 (R299). Where the stack is fenced the copy is made at the die's
re-admission (R334, log entry 81). -/
def State.copyLine (s : State) (q : VQueue) : State :=
  match s.devAddr q.req.partid .store q.req.notify 64 [1] with
  | some (a, _) =>
    if s.down a then s.setQueue q.req.qid { q with lineOwed := true }
    else (List.range 16).foldl (fun t i => t.ctlWrite (a + 4 * i) 15#4 (q.notifyWord (4 * i))) s
  | none => s

/-- A slot of a die has become free or idle: queues that found none are woken again (R303). -/
def State.slotFreed (s : State) (die : Nat) : State :=
  (s.queues.filter fun p => p.2.wants == some die).foldl
    (fun u p => (u.setQueue p.1 { mget p.2 u.queues p.1 with wants := none }).call ⟨5, 0, p.1, 0⟩) s

/-- A queue becomes non-resident (R303). -/
def State.makeOut (s : State) (qid : Nat) : State :=
  let s := match mfind qid s.queues with
    | some q => q.fwd.foldl (fun u _ => u.notifyForward qid) s
    | none => s
  match mfind qid s.queues with
  | none => s
  | some q => match q.resident with
    | none => s
    | some (die, _) =>
      let q := { q with resident := none }
      (((s.setQueue qid q).copyLine q).residencyWrite qid q).slotFreed die

/-- No accepted record of a queue is unstarted and no TAIL write is in flight (R303). -/
def State.idleQueue (s : State) (qid : Nat) (q : VQueue) : Bool :=
  (s.oldestUnstarted qid q).isNone && !(q.fwd.any fun w => w.1 == 0)

/-- A queue becomes resident in a slot: the queue there leaves it, and a held TAIL is applied (R303). -/
def State.makeIn (s : State) (qid die slot : Nat) : State :=
  let s := match s.slotQueue die slot with
    | some (x, _) => s.makeOut x
    | none => s
  match mfind qid s.queues with
  | none => s
  | some q =>
    let held := q.heldTail
    let q := { q with resident := some (die, slot), heldTail := none, wants := none, lastUse := s.tick }
    let s := (s.setQueue qid q).residencyWrite qid q
    match held with
    | some w => s.tailWrite qid w
    | none => s

/-- The slot that a WAKE takes: a free one, else the least recently used idle one (R303); a die that is being reset has
none (R333, log entry 34). -/
def State.wakeSlot (s : State) (die : Nat) : Option Nat :=
  if mget 0 s.dev.dies die ≠ 0 then none
  else match (List.range 48).find? fun i => (s.slotQueue die i).isNone with
  | some i => some i
  | none =>
    ((List.range 48).filterMap fun i => (s.slotQueue die i).bind fun p =>
      if s.idleQueue p.1 p.2 then some (i, p.2.lastUse) else none).foldl
      (fun (m : Option (Nat × Nat)) x => match m with
        | none => some x
        | some y => if x.2 < y.2 then some x else some y) none |>.map Prod.fst

/-- Make a queue resident on a die where a slot can be had; else WAKE is called again later. -/
def State.wakeOn (s : State) (qid die : Nat) : State :=
  match mfind qid s.queues with
  | none => s
  | some q =>
    if q.resident.isSome then s
    else match s.wakeSlot die with
      | some i => s.makeIn qid die i
      | none => s.setQueue qid { q with wants := some die }

/-- The home die of a queue (R306). -/
def homeDie (qid : Nat) : Nat := qid % 32 / 8

/-! ### Sources with work (R306) -/

/-- A loaded image's kernel descriptor at a device address, with the image (R109, R111): of an image loaded for any partition
(DESIGN CHOICE, log entry 90: R109 does not say that KDESC is matched within the queue's PARTID). -/
def State.kernelAt (s : State) (a : Nat) : Option (Nat × KernelDesc) :=
  s.dev.images.findSome? fun p =>
    if p.2.unload then none else (p.2.kernels.find? fun x => x.addr == a).map fun x => (p.1, x)

/-- Word `off` of entry `idx` of a queue's ring (R298, R301). -/
def State.ringWord (s : State) (q : VQueue) (idx : Word) (off : Nat) : Word :=
  (s.devWord q.req.partid (q.req.ring + 128 * (idx.toNat % q.req.count) + off)).getD 0#32

/-- The PRIO of a record of a ring: 0xFF stands for its descriptor's. -/
def State.ringPrio (s : State) (q : VQueue) (idx : Word) : Nat :=
  let p := bits (s.ringWord q idx 8).toNat 23 16
  if p = 0xFF then
    match s.kernelAt ((s.ringWord q idx 0).toNat + 2 ^ 32 * (s.ringWord q idx 4).toNat) with
    | some (_, d) => d.prio
    | none => 0
  else p

/-- The class that the ENQ fallback gives (R306): an instance of kind 0 or 1. -/
def State.enqClass (s : State) (kind inst : Nat) : Nat :=
  if kind = 1 then efld (s.kq inst).binding 35 32
  else match mfind inst s.queues with
    | some q => match s.waitingRecords inst, s.oldestUnstarted inst q with
      | (_, r) :: _, _ => r.prio
      | [], some i => s.ringPrio q i
      | [], none => 0
    | none => 0

/-- The wait fence of a record is met (R301): by a write that has been examined, or as the word stands; a word that its
controller cannot give meets none (R297, R334; log entry 81). -/
def State.fenceMet (s : State) (r : Launch) : Bool :=
  !r.flags.testBit 1 || r.met || match s.ctlGot r.wfpa, s.ctlGot (r.wfpa + 4) with
    | .word lo, .word hi => decide (r.wfval ≤ lo.toNat + 2 ^ 32 * hi.toNat)
    | _, _ => false

/-- A queue that no reason keeps from starting records: it runs, and its event ring has room (R300, R302). -/
def VQueue.open_ (q : VQueue) : Bool := q.stopped == 0 && !q.full

/-- The virtual queue of a tile-task queue is open (R304). -/
def State.taskOpen (s : State) (q : Nat) : Bool := ((mfind (s.kq q).tqid s.queues).map VQueue.open_).getD false

/-- A queue has a team to place: a started record with teams left, or a next record that its fence does not hold. -/
def State.hasWork (s : State) (qid : Nat) (q : VQueue) : Bool :=
  (s.launches.any fun p => p.2.qid == qid && p.2.task.isNone && p.2.st == .started && p.2.kind == 1 && p.2.placed < p.2.teamCount) ||
    q.open_ && q.resident.isSome && (match s.waitingRecords qid with
      | (_, r) :: _ => r.kind == 1 && s.fenceMet r
      | [] => q.ridx != q.tail)

/-- A source of a partition: its code (64 × kind + slot or queue), tenant, class, and age. -/
structure Source where
  code   : Nat
  tenant : Nat
  cls    : Nat
  age    : Nat
  deriving DecidableEq, Repr

/-- The sources with work that a partition can take (R306). -/
def State.sources (s : State) (p : Nat) : List Source :=
  let die := dieOf (p / 8); let c := clusterOf (p / 8)
  (s.queues.filterMap fun x => match x.2.resident with
    | some (d, sl) =>
      if d = die ∧ s.hasWork x.1 x.2 then
        some { code := sl, tenant := x.2.req.tenant, cls := x.2.cls.getD (s.enqClass 0 x.1),
               age := (s.queueAge x.1 x.2).getD 0 : Source }
      else none
    | none => none) ++
  ((List.range 64).filterMap fun i =>
    let j := c * 64 + i
    let x := s.kq j
    match s.taskTenant j, x.recs.filter x.takeable with
    | some t, r :: rs =>
      if s.taskOpen j then
        some (Source.mk (64 + i) t (x.cls.getD (s.enqClass 1 j)) (s.dev.time - rs.foldl (fun m y => min m y.since) r.since))
      else none
    | _, _ => none)

/-- The best source of a tenant: the highest class, then the oldest. -/
def bestSource (xs : List Source) (t : Nat) : Option Source :=
  (xs.filter fun x => x.tenant == t).foldl (fun (m : Option Source) x => match m with
    | none => some x
    | some y => if y.cls < x.cls || y.cls == x.cls && y.age < x.age then some x else some y) none

/-- The next of some tenants after one, in ascending order and wrapping. -/
def tenantAfter (ts : List Nat) (t : Nat) : Option Nat :=
  ((List.range 16).map fun i => (t + 1 + i) % 16).find? fun x => ts.contains x

/-- The tenants that a TICK of a partition may name (R319). -/
def State.tickTenants (s : State) (p : Nat) : List Nat :=
  partTen (s.part p) :: s.queues.filterMap fun x => match x.2.resident with
    | some (d, _) => if d = dieOf (p / 8) then some x.2.req.tenant else none
    | none => none

/-! ### Decisions applied (R306, R319, R321) -/

/-- ENQ sets the class of a queue. -/
def State.applyEnq (s : State) (kind inst cls : Nat) : State :=
  if kind = 1 then s.setKq inst { s.kq inst with cls := some cls }
  else match mfind inst s.queues with
    | some q => s.setQueue inst { q with cls := some cls }
    | none => s

/-- PICK chooses a partition's next source. -/
def State.applyPick (s : State) (p : Nat) (code : Option Nat) : State :=
  { s with picks := match code with
    | some c => mset p c s.picks
    | none => mdel p s.picks }

/-- TPER of a die in ns (R311). -/
def State.tperNs (s : State) (die : Nat) : Nat := 1000 * mget 100 s.tper die

/-- TICK grants a slice of `n` units to a tenant: when the tenant changes, every group of the partition is asked to halt; the
new tenant's teams are resumed in place once they have (`State.resumeDue`; R306, R314, R315). -/
def State.applyTick (s : State) (p t n : Nat) : State :=
  let u := s.tperNs (dieOf (p / 8))
  let old := s.runningTenant p
  let s := { s with runTen := mset p t s.runTen, sliceEnd := mset p ((s.dev.time / u + n) * u) s.sliceEnd }
  let s := s.bump 0x50 (clusterOf (p / 8)) t 1
  if t = old then s
  else (s.teams.filter fun x => x.2.core * 8 + x.2.part == p && x.2.st == .running).foldl
    (fun v x => v.updTeam x.1 fun y => { y with haltReq := true }) s

/-- The oldest takeable record of a key in a queue. -/
def KQueue.ofKey (x : KQueue) (key : Word) : Option KqRec := x.recs.find? fun r => r.key == key && x.takeable r

/-- Call MIGR for a record once (R321). -/
def State.callMigr (s : State) (q : Nat) (r : KqRec) : State :=
  let x := s.kq q
  (s.setKq q { x with recs := x.recs.map fun y => if y.order == r.order then { y with migr := true } else y }).call
    ⟨6, 4, q, r.key⟩

/-- A record's wait has reached its tenant's MWAIT, in µs (R321). -/
def State.waited (s : State) (x : KQueue) (r : KqRec) (mwait : Nat) : Bool :=
  mwait != 0 && x.takeable r && !r.migr && 1000 * mwait ≤ s.dev.time - r.since

/-- MWAIT of a tenant on a die. -/
def State.mwaitOf (s : State) (die tenant : Nat) : Nat := mget 0 s.mwait (32 * die + tenant)

/-- MWAIT changes: records already past it call MIGR at once (R321). -/
def State.setMwait (s : State) (die tenant n : Nat) : State :=
  let s := { s with mwait := mput 0 s.mwait (32 * die + tenant) n }
  ((List.range 512).map fun i => die * 512 + i).foldl (fun u q =>
    if u.taskTenant q = some tenant then
      let x := u.kq q
      (x.recs.filter fun r => u.waited x r n).foldl (fun v r => v.callMigr q r) u
    else u) s

/-- The records of a tile-task queue whose wait has reached MWAIT, and for which MIGR has not been called (R321). -/
def State.migrDue (s : State) (n : Nat) : List KqRec :=
  match s.taskTenant n with
  | some t => (s.kq n).recs.filter fun r => s.waited (s.kq n) r (s.mwaitOf (dieOfCluster (n / 64)) t)
  | none => []

/-- A record's wait reaches MWAIT (R321): the oldest of the key that MIGR has still to be called for. -/
def execMwaitExpire (cluster q key : Nat) (s : State) : Out :=
  .next (match (s.migrDue (cluster * 64 + q)).find? fun r => r.key == BitVec.ofNat 32 key with
    | some r => s.callMigr (cluster * 64 + q) r
    | none => s)

/-- Move a record of a tenant's tile-task queue (R321): none where the move is replaced by the fallback. -/
def State.moveRecord (s : State) (tenant src dst : Nat) (key : Word) : Option State :=
  let x := s.kq dst
  if s.taskTenant src ≠ some tenant ∨ s.taskTenant dst ≠ some tenant ∨ x.cap < x.recs.length then none
  else match (s.kq src).ofKey key with
    | none => some s
    | some r => some (((s.kqRemove src r).kqPush dst r).getD s)

/-- The fallback of a point (R306), within a tenant or for the whole decision. -/
def State.fallback (s : State) (r : PReq) (tenant : Option Nat) : State :=
  match r.point with
  | 1 => s.applyEnq r.kind r.inst (s.enqClass r.kind r.inst)
  | 2 =>
    let xs := s.sources r.inst
    match tenant.or (tenantAfter (xs.map Source.tenant) (mget 15 s.lastPick r.inst)) with
    | none => s.applyPick r.inst none
    | some t =>
      let s := if tenant.isNone then { s with lastPick := mset r.inst t s.lastPick } else s
      s.applyPick r.inst ((bestSource xs t).map Source.code)
  | 3 => match tenant.or (tenantAfter (s.tickTenants r.inst) (s.runningTenant r.inst)) with
    | some t => s.applyTick r.inst t 1
    | none => s
  | 5 => s.wakeOn r.inst (homeDie r.inst)
  | _ => s

/-- The tenant of a partition's source code, where it names one. -/
def State.sourceTenant (s : State) (p code : Nat) : Option Nat :=
  if code < 64 then (s.slotQueue (dieOf (p / 8)) code).map fun x => x.2.req.tenant
  else s.taskTenant (clusterOf (p / 8) * 64 + code % 64)

/-- Apply a tenant routine's decision (R306): none where a value lies outside the point's table or names an object
outside the tenant. Log entry 54. -/
def State.decide (s : State) (c : Nat) (r : PRun) : Option State :=
  let d := fun i => (mget 0#32 r.dec i).toNat
  let q := r.req
  match q.point with
  | 1 => some (s.applyEnq q.kind q.inst (d 0 % 16))
  | 2 =>
    if (d 0).testBit 31 then some (s.applyPick q.inst none)
    else
      let code := 64 * bits (d 0) 8 8 + bits (d 0) 5 0
      if bits (d 0) 31 9 = 0 ∧ bits (d 0) 7 6 = 0 ∧ s.sourceTenant q.inst code = some r.tenant then
        some (s.applyPick q.inst (some code))
      else none
  | 3 => if 1 ≤ d 1 ∧ d 1 ≤ 255 then some (s.applyTick q.inst r.tenant (d 1)) else none
  | 4 => if d 0 = 1 then some (s.makeOut q.inst) else if d 0 = 0 then some s else none
  | 5 =>
    let die := dieOfCluster c
    if d 0 = 0 then some (s.setMwait die r.tenant (d 7))
    else if d 0 = 1 ∧ d 1 ≤ 3 ∧ d 2 ≤ 48 then
      if d 2 = 0 then some ((s.wakeOn q.inst (d 1)).setMwait die r.tenant (d 7))
      else
        let idle := match s.slotQueue (d 1) (d 2 - 1) with
          | some x => s.idleQueue x.1 x.2
          | none => true
        if idle && mget 0 s.dev.dies (d 1) == 0 then
          let s := match mfind q.inst s.queues with
            | some v => if v.resident.isSome then s else s.makeIn q.inst (d 1) (d 2 - 1)
            | none => s
          some (s.setMwait die r.tenant (d 7))
        else none
    else none
  | _ =>
    if d 0 = 0 then some s
    else if d 0 ≠ 1 ∨ 31 < d 1 then none
    else if q.kind = 3 then
      some (if (mfind q.inst s.teams).isSome then s.updTeam q.inst fun t => { t with move := some (d 1), starved := false } else s)
    else if 63 < d 2 then none
    else s.moveRecord r.tenant q.inst (d 1 * 64 + d 2) q.key

/-! ### Running a decision (R306, R307, R311, R319, R320) -/

/-- The tenant that a request's instance belongs to (R319); none for a partition. -/
def State.ownerTenant (s : State) (r : PReq) : Option Nat :=
  match r.kind with
  | 0 => (mfind r.inst s.queues).map fun q => q.req.tenant
  | 3 => (mfind r.inst s.teams).map Team.tenant
  | 2 => none
  | _ => s.taskTenant r.inst

/-- The routine bound to a point for a tenant; 16 is the hypervisor. -/
def State.routine (s : State) (tenant point : Nat) : Option Routine := mfind (64 * tenant + point) s.routines

/-- ALLOW of a tenant on a die (R311). -/
def State.allowOf (s : State) (die tenant : Nat) : Nat := mget 2048 s.allow (32 * die + tenant)

/-- Start a routine: one lane at its first instruction, its registers zero (R320). -/
def State.startRun (s : State) (c : Nat) (r : PReq) (tenant : Nat) (x : Routine) (dec : Map Word) : State :=
  let s := s.setEngine c { s.engine c with
    run := some
      { req := r, tenant := tenant, dec := dec, allow := s.allowOf (dieOfCluster c) tenant, code := x.code,
        window := x.window, wsize := x.wsize, qid := x.qid } }
  s.setGroup (policyBase + c) { pc := [(0, 0#64)] }

/-- An engine is free again. -/
def State.endRun (s : State) (c : Nat) : State :=
  { s.setEngine c { s.engine c with run := none } with groups := mdel (policyBase + c) s.groups }

/-- The tenant's part of a decision: its routine, or the fallback within the tenant. -/
def State.tenantPart (s : State) (c : Nat) (r : PReq) (tenant : Nat) (dec : Map Word) : State :=
  match s.routine tenant r.point with
  | some x => s.startRun c r tenant x dec
  | none => (s.endRun c).fallback r (some tenant)

/-- Begin a decision (R306, R319): the hypervisor's routine, or without one the tenant of the instance, or for a
partition the fallback's tenant. -/
def State.beginDecision (s : State) (c : Nat) (r : PReq) : State :=
  match s.routine 16 r.point with
  | some x => s.startRun c r 16 x []
  | none => match s.ownerTenant r with
    | some t => s.tenantPart c r t []
    | none =>
      if r.kind ≠ 2 then s
      else
        let s := s.bump rrFall 0 0 1
        let xs := s.sources r.inst
        let t := if r.point = 2 then tenantAfter (xs.map Source.tenant) (mget 15 s.lastPick r.inst)
          else tenantAfter (s.tickTenants r.inst) (s.runningTenant r.inst)
        match t with
        | some t =>
          let s := if r.point = 2 then { s with lastPick := mset r.inst t s.lastPick } else s
          s.tenantPart c r t []
        | none => s.fallback r none

/-- Send the EVNT records of a routine after its decision (R167). -/
def State.sendEvnts (s : State) (r : PRun) : State :=
  let inst := if r.req.kind = 4 then r.req.key.toNat else r.req.inst
  r.evnts.foldl (fun u p =>
    u.postEvent r.qid ⟨6, 2, r.qid, r.tenant, p.1, r.req.point * 2 ^ 32 + inst, p.2.toNat⟩) s

/-- A routine has ended: its decision takes effect, or the fallback's (R76, R306, R311, R319). A hypervisor routine that names
a tenant other than that of the instance, where it has one, has named an object outside the tenant. -/
def State.conclude (s : State) (c : Nat) : State :=
  match (s.engine c).run with
  | none => s
  | some r =>
    let hyper := r.tenant == 16
    match r.status with
    | .running => s
    | .failed =>
      let s := ((s.bump evDrop 0 0 r.evnts.length).bump 0x54 0 r.tenant 1).bump rrFall 0 0 1
      (s.endRun c).fallback r.req (if hyper then none else some r.tenant)
    | .decided =>
      if hyper then
        let t := (mget 0#32 r.dec 0).toNat
        let s := s.endRun c
        let s := if t < 16 ∧ (r.req.point ≠ 3 ∨ t ∈ s.tickTenants r.req.inst) ∧ (s.ownerTenant r.req).all (· == t) then
            s.tenantPart c r.req t (r.dec.filter fun p => 4 ≤ p.1)
          else (s.bump rrFall 0 0 1).fallback r.req none
        s.sendEvnts r
      else
        let s := s.endRun c
        (match s.decide c r with
         | some s => s
         | none => (s.bump rrFall 0 0 1).fallback r.req (some r.tenant)).sendEvnts r

/-- An engine takes the request at the head of its buffer, and a waiting one enters (R307). While the home die of the
request is not up, the fallback decides (R333). -/
def State.serveHead (s : State) (c : Nat) : State :=
  let e := s.engine c
  match e.run, e.reqs with
  | none, r :: rs =>
    let s := s.setEngine c { e with reqs := rs ++ e.wait.take 1, wait := e.wait.drop 1 }
    if mget 0 s.dev.dies (dieOfCluster (engineOf s r)) = 0 then s.beginDecision c r else s.fallback r none
  | _, _ => s

/-- The decision on an instance of a point begins: its request is the head of its engine's buffer. -/
def State.decision (s : State) (point kind inst : Nat) (key : Word) : State :=
  let c := s.heldAt ⟨point, kind, inst, key⟩
  match (s.engine c).reqs with
  | x :: _ => if x.point = point ∧ x.kind = kind ∧ x.inst = inst ∧ (kind ≠ 4 ∨ x.key = key) then s.serveHead c else s
  | [] => s

def execEnq (kind inst : Nat) (s : State) : Out := .next (s.decision 1 kind inst 0)

/-- PICK is called for an enabled partition that has a free slot (R306). -/
def execPick (part : Nat) (s : State) : Out :=
  .next (if partEn (s.part part) && 0 < s.freeSlots part then
      let r : PReq := ⟨2, 2, part, 0⟩
      let e := s.engine (s.heldAt r)
      let s := if (e.reqs ++ e.wait).contains r then s else s.call r
      s.decision 2 2 part 0
    else s)

/-- A routine decides a TICK of a partition. -/
def State.ticking (s : State) (part : Nat) : Bool :=
  s.engines.any fun e => e.2.run.any fun r => r.req.point == 3 && r.req.inst == part

/-- TICK is called where the slice of an enabled partition has ended, once (R306). -/
def execTick (part : Nat) (s : State) : Out :=
  .next (if partEn (s.part part) then
      let s := if mget 0 s.sliceEnd part ≤ s.dev.time && !s.ticking part then s.call ⟨3, 2, part, 0⟩ else s
      s.decision 3 2 part 0
    else s)

def execBlock (qid : Nat) (s : State) : Out := .next (s.decision 4 0 qid 0)
def execWake (qid : Nat) (s : State) : Out := .next (s.decision 5 0 qid 0)
def execMigr (kind inst key : Nat) (s : State) : Out := .next (s.decision 6 kind inst (BitVec.ofNat 32 key))

/-- A system write of a policy control (R311): field 0 TPER, 1 ALLOW, 2 WDOG; a value outside its range is ignored,
and so is a write to a die in reset (R334). -/
def execPolicyControlWrite (die field tenant value : Nat) (s : State) : Out :=
  .next (if 4 ≤ die || s.dieReset die then s
    else match field with
      | 0 => if 10 ≤ value ∧ value ≤ 10000 then { s with tper := mset die value s.tper } else s
      | 1 => if tenant ≤ 16 ∧ 256 ≤ value ∧ value ≤ 16384 then
          { s with allow := mset (32 * die + tenant) value s.allow } else s
      | 2 => if tenant < 16 ∧ 2 ^ 16 ≤ value ∧ value ≤ 2 ^ 32 then
          { s with wdog := mset (32 * die + tenant) value s.wdog } else s
      | _ => s)

end Sys2Proof.Machine
end

