-- ==== Sys2Proof/Machine/Checker.lean ====
section
/-!
DEFINITION. The load-time checker of policy routines (R97, R309, R310): structure, reachability, the bound on pocket
offsets by interval arithmetic, and the worst case in mesh cycles.
-/

namespace Sys2Proof.Machine

/-- An instruction of a routine: byte offset, length, OP, fields, and whether it decodes. -/
structure CIns where
  off : Nat
  len : Nat
  op  : Nat
  f   : Fields
  ok  : Bool
  deriving DecidableEq, Repr

/-- A routine's words, instruction by instruction. -/
def cinsList : Nat → Nat → List Word → List CIns
  | 0, _, _ => []
  | _, _, [] => []
  | n + 1, off, w :: ws =>
    let len := lenWords (w.extractLsb' 0 2).toNat
    let mine := (w :: ws).take len
    let op := (w.extractLsb' 2 8).toNat
    let x : CIns := match unpack mine with
      | some (op, f, rsv) => { off := off, len := 4 * len, op := op, f := f, ok := (decodeCheck op f rsv).isNone }
      | none => { off := off, len := 4 * len, op := op, f := { form := .b3 }, ok := false }
    x :: cinsList n (off + 4 * len) ((w :: ws).drop len)

/-! ### Transfers -/

/-- The target offset of a BRA or BRC in a displaced form, or the bound literal (R309); none for others. -/
def CIns.target (x : CIns) : Option Int :=
  if x.op = 0x01 then some (if x.f.form = .bjL then (x.f.lit.toNat : Int) else x.off + 4 * signExt x.f.off.toNat 15)
  else if x.op = 0x02 then some (x.off + 4 * signExt (x.f.b.toNat * 16384 + x.f.a.toNat * 128 + x.f.d.toNat) 21)
  else if x.op = 0x0E then some (x.off - 4 * ((x.f.e.toNat * 128 + x.f.c.toNat : Nat) : Int))
  else none

/-- CNT + 1: the bound of a LOOPB (R153). -/
def CIns.bound (x : CIns) : Nat := x.f.b.toNat * 128 + x.f.a.toNat + 1

/-- An offset is where an instruction of the routine begins. -/
def startsAt (xs : List CIns) (t : Int) : Bool := xs.any fun y => (y.off : Int) == t

/-- The first byte of a loop's body. -/
def CIns.head (x : CIns) : Int := x.target.getD x.off

/-- An instruction lies in the body of a loop. -/
def CIns.inLoop (y l : CIns) : Bool := l.op == 0x0E && l.head ≤ y.off && y.off ≤ l.off

/-- Guards are present. -/
def CIns.guarded (x : CIns) : Bool := isX x.f.form && (Guard.present x.f.g0 || Guard.present x.f.g1)

/-- The offsets to which control goes next, LOOPB's transfer to its head among them. -/
def CIns.next (x : CIns) : List Nat :=
  let fall := x.off + x.len
  let t := (x.target.getD 0).toNat
  if x.op = 0x01 then [t]
  else if x.op = 0x02 then [t, fall]
  else if x.op = 0x0E then [t, fall]
  else if x.op = 0x06 then (if x.guarded then [fall] else [])
  else [fall]

/-- One pass over a routine: what the places reached so far lead to. -/
def reachPass : List CIns → List Nat → List Nat
  | [], seen => seen
  | x :: xs, seen =>
    reachPass xs (if seen.contains x.off then seen ++ x.next.filter (fun t => !seen.contains t) else seen)

/-- The offsets reachable from the first instruction (R309): as many passes as there are loops, and one. -/
def reachable (xs : List CIns) : List Nat :=
  (List.range ((xs.filter fun x => x.op == 0x0E).length + 1)).foldl (fun seen _ => reachPass xs seen) [0]

/-! ### Errors that belong to one instruction (R309) -/

/-- An error: DETAIL, ADDR and VALUE. -/
abbrev CErr := Nat × Nat × Nat

/-- An instruction of the profile (R78), the placing of branch targets apart. -/
def CIns.profile (x : CIns) : Bool :=
  x.ok && (0x20 ≤ x.op && x.op ≤ 0x3D || 0xC0 ≤ x.op && x.op ≤ 0xD7 || x.op == 0x06 || x.op == 0x0E ||
    0xB0 ≤ x.op && x.op ≤ 0xB2 || x.op == 0x01 || x.op == 0x02 ||
    x.op == 0x0F && (0x09 ≤ x.f.imm.toNat && x.f.imm.toNat ≤ 0x0B || 0x40 ≤ x.f.imm.toNat && x.f.imm.toNat ≤ 0x7F) ||
    (x.op == 0x70 || x.op == 0x71) && x.f.sub == 0x20#8)

/-- The registers that an instruction names. -/
def CIns.regs (x : CIns) : List Nat :=
  let sh := shapeOf x.op x.f.sub.toNat
  let u := fun (u : Use) (r : Nat) => match u with
    | .src n | .dst n => (List.range n).map fun i => r + i
    | .opt | .fmtSrc => [r]
    | _ => []
  u sh.d x.f.d.toNat ++ u sh.a x.f.a.toNat ++ (if bIsReg x.f then u sh.b x.f.b.toNat else []) ++ u sh.c x.f.c.toNat ++
    u sh.e x.f.e.toNat ++ guardRegs x.f

/-- The registers that it writes. -/
def CIns.writes (x : CIns) : List Nat := dstRegs x.op x.f

/-- Transfers that break rule 3: backward other than LOOPB's, a literal target, or a target that no instruction of the
routine begins at: one in the middle of an instruction counts as outside the routine (DESIGN CHOICE, log entry 60: R97 and
R309 do not say). -/
def CIns.badTarget (xs : List CIns) (x : CIns) : Bool :=
  match x.target with
  | none => false
  | some t => !startsAt xs t || x.f.form == .bjL || x.op != 0x0E && t ≤ x.off

/-- Loops that break rule 4: a bound above 4,096, or a body that begins inside an earlier loop's and ends outside it. -/
def CIns.badLoop (xs : List CIns) (x : CIns) : Bool :=
  x.op == 0x0E && (4096 < x.bound ||
    xs.any fun y => y.op == 0x0E && y.off < x.off && y.head < x.head && x.head ≤ y.off)

/-- The loop counters that an instruction writes in their loops' bodies (rule 9). -/
def CIns.counterWrites (xs : List CIns) (x : CIns) : List Nat :=
  (xs.filter fun l => x.inLoop l && l.off != x.off && x.writes.contains l.f.d.toNat).map fun l => l.f.d.toNat

/-! ### Intervals (R310) -/

/-- A range of values of a register, both ends included; registers that a map does not list are zero (R320). -/
abbrev Ival := Nat × Nat

def topIval : Ival := (0, 2 ^ 32 - 1)

/-- The values known at a place: none where it has not been reached. -/
abbrev Known := Map Ival

def joinIval (a b : Ival) : Ival := (min a.1 b.1, max a.2 b.2)

/-- What is known where two paths meet. -/
def joinKnown (a b : Known) : Known :=
  (List.range 64).foldl (fun m r => mput (0, 0) m r (joinIval (mget (0, 0) a r) (mget (0, 0) b r))) []

/-- A range reduced modulo 2^32, where both ends wrap alike. -/
def wrapIval (lo hi : Int) : Ival :=
  if lo / 2 ^ 32 = hi / 2 ^ 32 then ((lo % 2 ^ 32).toNat, (hi % 2 ^ 32).toNat) else topIval

/-- The B operand's range. -/
def CIns.bIval (x : CIns) (k : Known) : Ival :=
  if hasLit x.f.form then ((lo32 x.f.lit).toNat, (lo32 x.f.lit).toNat)
  else match x.f.form with
    | .bi =>
      let n := (if zeroImm x.op then x.f.imm.setWidth 32 else x.f.imm.signExtend 32 : Word).toNat
      (n, n)
    | _ => mget (0, 0) k x.f.b.toNat

/-- The range of a 64-bit pair. -/
def pairIval (k : Known) (r : Nat) : Ival :=
  let l := mget (0, 0) k r; let h := mget (0, 0) k (r + 1)
  (l.1 + 2 ^ 32 * h.1, l.2 + 2 ^ 32 * h.2)

/-- The result range of a one-register operation; none where it cannot be bounded. -/
def CIns.result (x : CIns) (k : Known) : Option Ival :=
  let a := mget (0, 0) k x.f.a.toNat
  let b := x.bIval k
  let plain := x.f.sub == 0#8
  match x.op with
  | 0x2F => some b
  | 0x2E => some a
  | 0x20 | 0xC0 => if plain then some (wrapIval (a.1 + b.1) (a.2 + b.2)) else none
  | 0x21 | 0xC1 => if plain then some (wrapIval (a.1 - b.2) (a.2 - b.1)) else none
  | 0x24 | 0xC4 => if a.2 * b.2 < 2 ^ 32 then some (a.1 * b.1, a.2 * b.2) else none
  | 0x30 | 0xD0 => some (0, min a.2 b.2)
  | 0x34 | 0xD4 => if b.1 = b.2 ∧ b.1 < 32 ∧ a.2 * 2 ^ b.1 < 2 ^ 32 then some (a.1 * 2 ^ b.1, a.2 * 2 ^ b.1) else none
  | 0x35 | 0xD5 => if b.1 = b.2 then (if b.1 < 32 then some (a.1 / 2 ^ b.1, a.2 / 2 ^ b.1) else some (0, 0)) else none
  | 0x38 => if plain ∧ b.1 = b.2 then some (0, 2 ^ fieldLen (BitVec.ofNat 32 b.1) - 1) else none
  | 0x2C => some (joinIval a b)
  | _ => none

/-- The range of LEA's pair. -/
def CIns.leaIval (x : CIns) (k : Known) : Int × Int :=
  let a := pairIval k x.f.a.toNat
  let b : Int × Int :=
    if x.f.form = .xL then (x.f.lit.toNat, x.f.lit.toNat)
    else
      let v := mget (0, 0) k x.f.b.toNat
      if v.2 < 2 ^ 31 then (v.1, v.2)
      else if 2 ^ 31 ≤ v.1 then ((v.1 : Int) - 2 ^ 32, (v.2 : Int) - 2 ^ 32)
      else (-2 ^ 31, 2 ^ 31 - 1)
  let e := 2 ^ x.f.e.toNat
  (a.1 + b.1 * e, a.2 + b.2 * e)

/-- What is known after an instruction's own writes, its guards apart. -/
def CIns.write (x : CIns) (k : Known) : Known :=
  let d := x.f.d.toNat
  if x.op = 0x2D then
    let v := x.leaIval k
    if v.1 / 2 ^ 64 = v.2 / 2 ^ 64 then
      let lo := v.1 % 2 ^ 64; let hi := v.2 % 2 ^ 64
      mput (0, 0) (mput (0, 0) k d (wrapIval lo hi)) (d + 1) ((lo / 2 ^ 32).toNat, (hi / 2 ^ 32).toNat)
    else mput (0, 0) (mput (0, 0) k d topIval) (d + 1) topIval
  else if x.op = 0x0E then mput (0, 0) k d (0, 0)
  else match x.result k with
    | some v => mput (0, 0) k d v
    | none => x.writes.foldl (fun m r => mput (0, 0) m r topIval) k

/-- What is known after an instruction. -/
def CIns.after (x : CIns) (k : Known) : Known := if x.guarded then joinKnown k (x.write k) else x.write k

/-- What is known at the head of the loops that begin at an instruction: what their bodies write is unknown, and each
counter lies in 0 to bound − 1. -/
def atHead (xs : List CIns) (x : CIns) (k : Known) : Known :=
  let ls := xs.filter fun l => l.op == 0x0E && l.head == (x.off : Int)
  let k := ls.foldl (fun k l => (xs.filter fun y => y.inLoop l).foldl
    (fun k y => y.writes.foldl (fun m r => mput (0, 0) m r topIval) k) k) k
  ls.foldl (fun k l => mput (0, 0) k l.f.d.toNat (0, l.bound - 1)) k

/-- Rule 6: an LD or ST of a known place that is not provably inside the window: the highest reachable offset plus 3. -/
def CIns.badAccess (x : CIns) (k : Known) (window wsize : Nat) : Option Nat :=
  if x.op ≠ 0x70 ∧ x.op ≠ 0x71 then none
  else
    let a := pairIval k x.f.a.toNat
    let lo := (a.1 : Int) + off14 x.f - window
    let hi := (a.2 : Int) + off14 x.f - window + 3
    if 0 ≤ lo ∧ hi < wsize then none else some (if 0 ≤ hi ∧ hi < 2 ^ 32 then hi.toNat else 2 ^ 32 - 1)

/-- What arrives at an offset. -/
def arrive (m : Map Known) (t : Nat) (k : Known) : Map Known :=
  match mfind t m with
  | some x => mset t (joinKnown x k) m
  | none => mset t k m

/-- One pass of what is known before each reachable instruction. -/
def knownPass (all : List CIns) : List CIns → Map Known → Map Known
  | [], m => m
  | x :: xs, m =>
    match mfind x.off m with
    | none => knownPass all xs m
    | some k => knownPass all xs (x.next.foldl (fun m t => arrive m t (x.after (atHead all x k))) m)

/-- Passes until nothing changes. -/
def knownFix (all : List CIns) : Nat → Map Known → Map Known
  | 0, m => m
  | n + 1, m =>
    let m' := knownPass all all m
    if m' = m then m else knownFix all n m'

/-- The access errors of the reachable instructions, with their offsets; `live`: the reachable instructions. -/
def accessErrors (live : List CIns) (window wsize : Nat) : List (Nat × Nat) :=
  let m := knownFix live (live.length + 1) [(0, [])]
  live.filterMap fun x => (mfind x.off m).bind fun k => (x.badAccess (atHead live x k) window wsize).map fun v => (x.off, v)

/-! ### The worst case (R310) -/

/-- Mesh cycles of an instruction (R310): integer ALU, MOVI, MOV, PDEC and EXIT 1; IMUL, IMULH, IMAD and IMADW 3. -/
def meshCost (op : Nat) : Nat :=
  match op with
  | 0x24 | 0x25 | 0x26 | 0x27 | 0xC4 | 0xC5 => 3
  | 0x01 | 0x02 | 0x0E | 0x0F => 2
  | 0x70 => 40
  | 0x71 => 8
  | 0xB0 => 12
  | 0xB2 => 4
  | _ => 1

/-- The greatest of some numbers. -/
def maxOf (ns : List Nat) : Nat := ns.foldl max 0

/-- The loops of a stretch of code that lie in no other of its loops; `own`: the offset of the LOOPB that the stretch is the
body of. -/
def outerLoops (own : Option Nat) (xs : List CIns) : List CIns :=
  let ls := xs.filter fun l => l.op == 0x0E && some l.off != own
  ls.filter fun l => !(ls.any fun o => o.off != l.off && l.inLoop o)

/-- The cost of the costliest path from each offset of a stretch of code, the last instruction first: a loop counts its
body's costliest path bound times, by whichever way it is left (R310). -/
def costs : Nat → Option Nat → List CIns → Map Nat
  | 0, _, _ => []
  | n + 1, own, xs =>
    let ls := outerLoops own xs
    xs.reverse.foldl (fun m x => match ls.find? fun l => x.inLoop l with
      | some l =>
        if x.off != l.off then m
        else
          let body := xs.filter fun y => y.inLoop l
          let out := (body.flatMap CIns.next).filter fun t => !(body.any fun y => y.off == t)
          let c := l.bound * maxOf ((costs n (some l.off) body).map Prod.snd) + maxOf (out.map fun t => mget 0 m t)
          body.foldl (fun m y => mset y.off c m) m
      | none =>
        let ts := if some x.off = own then [x.off + x.len] else x.next
        mset x.off (meshCost x.op + maxOf (ts.map fun t => mget 0 m t)) m) []

/-- The worst case of a routine's reachable instructions, in mesh cycles. -/
def worstCase (live : List CIns) : Nat := mget 0 (costs ((live.filter fun x => x.op == 0x0E).length + 1) none live) 0

/-! ### The verdict (R309) -/

/-- ADDR of an error that belongs to no instruction. -/
def noAddr : Nat := 2 ^ 64 - 1

/-- The first error of an instruction, in ascending DETAIL. -/
def CIns.error (all : List CIns) (acc : List (Nat × Nat)) (x : CIns) : Option CErr :=
  if !x.profile then some (0x01, x.off, x.op)
  else if x.badTarget all then some (0x03, x.off, ((x.target.getD 0) % 2 ^ 32).toNat)
  else if x.badLoop all then some (0x04, x.off, x.bound)
  else match x.regs.find? fun r => 63 < r with
    | some r => some (0x05, x.off, r)
    | none => match acc.find? fun p => p.1 == x.off with
      | some p => some (0x06, x.off, p.2)
      | none => match x.counterWrites all with
        | r :: _ => some (0x09, x.off, r)
        | [] => none

/-- The checker: the first error of a routine under an allowance, or none (R309). Log entry 60. -/
def checkRoutine (r : RoutineDesc) (allow : Nat) : Option CErr :=
  let xs := cinsList r.code.length 0 r.code
  if 65536 < r.wsize ∨ r.point < 1 ∨ 6 < r.point then some (0x0A, noAddr, r.wsize)
  else if 1024 < xs.length then some (0x02, noAddr, xs.length)
  else
    let live := xs.filter fun x => (reachable xs).contains x.off
    let acc := accessErrors live r.window r.wsize
    match xs.findSome? fun x => x.error xs acc with
    | some e => some e
    | none =>
      let w := worstCase live
      if allow < w then some (0x07, noAddr, w)
      else if r.nins < xs.length then some (0x08, noAddr, xs.length)
      else if r.wcet < w then some (0x08, noAddr, w)
      else none

end Sys2Proof.Machine
end

