-- ==== Sys2Proof/Machine/Gro.lean ====
section
/-!
DEFINITION. The GRO object file (R99 to R107): its header, tables, strings, symbols, relocations and descriptors, what makes
it malformed, and what the runtime and the policy loader make of it: kernel descriptors, routines with the window's base
applied, pages, and windows. Log entry 62.
-/

namespace Sys2Proof.Machine

/-! ### Tables (R99 to R104) -/

/-- A little-endian field of a file or of an entry. -/
def gnum (f : List Byte) (off n : Nat) : Nat := leNat ((f.drop off).take n)

/-- Bytes `lo` to `hi - 1` of an entry are zero. -/
def gzero (f : List Byte) (lo hi : Nat) : Bool := ((f.drop lo).take (hi - lo)).all fun b => b == 0#8

/-- The entries of a table, `n` bytes each. -/
def gtable (f : List Byte) (off n count : Nat) : List (List Byte) :=
  (List.range count).map fun i => (f.drop (off + n * i)).take n

/-- A section (R101), with its contents. -/
structure GSect where
  name    : Nat
  kind    : Nat
  align   : Nat
  rsv     : Bool
  fileoff : Nat
  size    : Nat
  va      : Nat
  pagereq : Nat
  bytes   : List Byte
  deriving DecidableEq, Repr

def gsect (f e : List Byte) : GSect :=
  { name := gnum e 0 4, kind := gnum e 4 1, align := gnum e 5 1, rsv := gzero e 6 8 && gzero e 12 16,
    fileoff := gnum e 8 4, size := gnum e 0x10 8, va := gnum e 0x18 6, pagereq := gnum e 0x1E 2,
    bytes := (f.drop (gnum e 8 4)).take (gnum e 0x10 8) }

/-- A symbol (R102). -/
structure GSym where
  name  : Nat
  sect  : Nat
  bind  : Nat
  kind  : Nat
  value : Nat
  size  : Nat
  deriving DecidableEq, Repr

def gsym (e : List Byte) : GSym :=
  { name := gnum e 0 4, sect := gnum e 4 2, bind := gnum e 6 1, kind := gnum e 7 1, value := gnum e 8 8, size := gnum e 0x10 8 }

/-- A relocation (R103). -/
structure GRel where
  sect   : Nat
  type   : Nat
  rsv    : Bool
  off    : Nat
  sym    : Nat
  addend : Int
  deriving DecidableEq, Repr

def grel (e : List Byte) : GRel :=
  { sect := gnum e 0 2, type := gnum e 2 1, rsv := gzero e 3 4 && gzero e 12 16, off := gnum e 4 4, sym := gnum e 8 4,
    addend := signExt (gnum e 0x10 8) 64 }

/-- A GRO file: FEATREQ, strings, sections, symbols, relocations, and the 96 bytes of each descriptor. -/
structure Gro where
  featreq : BitVec 128
  strs    : List Byte
  sects   : List GSect
  syms    : List GSym
  rels    : List GRel
  descs   : List (List Byte)
  deriving DecidableEq, Repr

/-- What the tables of a file hold. -/
def groOf (f : List Byte) : Gro :=
  { featreq := BitVec.ofNat 128 (gnum f 8 16),
    strs := (f.drop (gnum f 0x28 4)).take (gnum f 0x2C 4),
    sects := (gtable f (gnum f 0x18 4) 32 (gnum f 0x1C 2)).map (gsect f),
    syms := (gtable f (gnum f 0x20 4) 24 (gnum f 0x24 4)).map gsym,
    rels := (gtable f (gnum f 0x30 4) 24 (gnum f 0x34 4)).map grel,
    descs := gtable f (gnum f 0x38 4) 96 (gnum f 0x1E 2) }

/-- DTYPE of a descriptor (R104), and the number of a field of it. -/
def dtype (d : List Byte) : Nat := gnum d 0 1

/-! ### Malformed files (R99, R100) -/

/-- The header (R99): an image is of KIND 2. -/
def groHeader (f : List Byte) : Bool :=
  64 ≤ f.length && gnum f 0 4 == 0x004F5247 && gnum f 4 2 == 1 && gnum f 6 2 == 2 && gnum f 0x1C 2 ≤ 65519 &&
    1 ≤ gnum f 0x2C 4 && gzero f 0x3C 0x40

/-- The tables with their lengths and the contents of the sections, which may not overlap (R100); the header counts among them
(DESIGN CHOICE, log entry 88: R100 names tables and contents only). -/
def groRanges (f : List Byte) : List (Nat × Nat) :=
  [(0, 64), (gnum f 0x18 4, 32 * gnum f 0x1C 2), (gnum f 0x20 4, 24 * gnum f 0x24 4), (gnum f 0x28 4, gnum f 0x2C 4),
   (gnum f 0x30 4, 24 * gnum f 0x34 4), (gnum f 0x38 4, 96 * gnum f 0x1E 2)] ++
  (gtable f (gnum f 0x18 4) 32 (gnum f 0x1C 2)).map fun e => (gnum e 8 4, gnum e 0x10 8)

/-- No two ranges of a list share a byte. -/
def apart : List (Nat × Nat) → Bool
  | [] => true
  | x :: xs => !(xs.any fun y => rangesMeet x y) && apart xs

/-- Table offsets are multiples of 8; nothing overlaps or reaches past the end (R100). -/
def groLayout (f : List Byte) : Bool :=
  (([0x18, 0x20, 0x28, 0x30, 0x38] : List Nat).all fun o => gnum f o 4 % 8 == 0) &&
    ((groRanges f).all fun r => r.2 == 0 || r.1 + r.2 ≤ f.length) && apart (groRanges f)

/-- Bytes are UTF-8; `n` continuation bytes are still to come, the next of them from `lo` to `hi`. -/
def utf8From : Nat → Nat → Nat → List Byte → Bool
  | n, _, _, [] => n == 0
  | 0, _, _, b :: bs =>
    let x := b.toNat
    if x < 0x80 then utf8From 0 0x80 0xBF bs
    else if 0xC2 ≤ x && x ≤ 0xDF then utf8From 1 0x80 0xBF bs
    else if x == 0xE0 then utf8From 2 0xA0 0xBF bs
    else if x == 0xED then utf8From 2 0x80 0x9F bs
    else if 0xE1 ≤ x && x ≤ 0xEF then utf8From 2 0x80 0xBF bs
    else if x == 0xF0 then utf8From 3 0x90 0xBF bs
    else if 0xF1 ≤ x && x ≤ 0xF3 then utf8From 3 0x80 0xBF bs
    else if x == 0xF4 then utf8From 3 0x80 0x8F bs
    else false
  | n + 1, lo, hi, b :: bs => lo ≤ b.toNat && b.toNat ≤ hi && utf8From n 0x80 0xBF bs

/-- NUL-terminated strings in UTF-8, the first of them empty (R100). -/
def stringsOk (b : List Byte) : Bool := b.head? == some 0#8 && b.getLast? == some 0#8 && utf8From 0 0x80 0xBF b

/-- A name offset points at the first byte of a string (R100). -/
def nameOk (b : List Byte) (o : Nat) : Bool := o == 0 || o < b.length && b[o - 1]? == some 0#8

/-- The string at an offset. -/
def nameAt (b : List Byte) (o : Nat) : List Byte := (b.drop o).takeWhile fun x => x != 0#8

/-- log2 of the page size of a page request (R107). -/
def reqSize (d : List Byte) : Nat := if gnum d 1 1 = 0 then 16 else if gnum d 1 1 = 1 then 21 else 30

/-- The page request of a page section. -/
def Gro.request (g : Gro) (x : GSect) : Option (List Byte) := g.descs[x.pagereq]?.filter fun d => dtype d == 3

/-- A section's fields (R101). -/
def Gro.sectOk (g : Gro) (x : GSect) : Bool :=
  nameOk g.strs x.name && x.rsv && 1 ≤ x.kind && x.kind ≤ 5 && x.align ≤ 30 && x.va % 2 ^ x.align == 0 &&
    x.va + x.size ≤ 2 ^ 48 && (x.kind != 1 || 2 ≤ x.align) && (x.kind != 5 || x.va == 0) &&
    (if x.kind = 4 then match g.request x with
      | some d => x.align == reqSize d && x.size ≤ 2 ^ reqSize d
      | none => false
     else x.pagereq == 0xFFFF)

/-- A symbol's fields (R102); SECT 0xFFFE is absolute, 0xFFFF undefined. -/
def Gro.symOk (g : Gro) (y : GSym) : Bool :=
  nameOk g.strs y.name && (y.sect < g.sects.length || y.sect == 0xFFFE || y.sect == 0xFFFF && y.bind == 1) && y.bind ≤ 1 &&
    y.kind ≤ 5

/-- A descriptor's fields, those apart that R109 and R309 test (R104 to R107), with its reserved bytes zero (R99). -/
def Gro.descOk (g : Gro) (i : Nat) (d : List Byte) : Bool :=
  let text := (g.sects[gnum d 0x0C 2]?.map GSect.kind) == some 1
  nameOk g.strs (gnum d 4 4) &&
  match dtype d with
  | 1 => text && gnum d 8 4 < g.syms.length && gzero d 3 4 && gzero d 0x11 0x12 && gzero d 0x34 0x38 && gzero d 0x48 0x60
  | 2 =>
    text && (g.sects[gnum d 0x0E 2]?.map GSect.kind) == some 5 && 4 ≤ gnum d 0x14 4 && gnum d 0x14 4 % 4 == 0 &&
      gzero d 0x18 0x38 && gzero d 0x48 0x60 &&
      (match g.syms[gnum d 8 4]? with
       | some y => y.sect == gnum d 0x0C 2 && y.value % 4 == 0
       | none => false)
  | 3 =>
    gnum d 1 1 ≤ 2 && gnum d 0x0C 1 < 32 && gzero d 0x0D 0x0E && gzero d 0x14 0x60 &&
      (match g.sects[gnum d 0x10 2]? with
       | some x => x.kind == 4 && x.pagereq == i
       | none => false)
  | _ => false

/-- Names of kernels and routines are unique (R104). -/
def Gro.namesOk (g : Gro) : Bool :=
  let ns := (g.descs.filter fun d => (dtype d == 1 || dtype d == 2) && gnum d 4 4 != 0).map fun d => nameAt g.strs (gnum d 4 4)
  ns.eraseDups.length == ns.length

/-- FEAT of a kernel or a routine. -/
def descFeat (d : List Byte) : BitVec 128 := if dtype d = 3 then 0 else BitVec.ofNat 128 (gnum d 0x38 16)

/-- The tables keep their rules; FEATREQ is the union of the descriptors' FEAT (R99). -/
def Gro.ok (g : Gro) : Bool :=
  stringsOk g.strs && g.sects.all g.sectOk && g.syms.all g.symOk && (g.rels.all fun r => r.rsv && 1 ≤ r.type && r.type ≤ 3) &&
    (((List.range g.descs.length).zip g.descs).all fun p => g.descOk p.1 p.2) && g.namesOk &&
    g.featreq == g.descs.foldl (fun m d => m ||| descFeat d) 0

/-- The file, unless it is malformed. -/
def groParse (f : List Byte) : Option Gro :=
  if groHeader f && groLayout f && (groOf f).ok then some (groOf f) else none

/-! ### Pocket windows and relocations (R103, R106, R312) -/

/-- The pocket sections, by section number. -/
def Gro.pockets (g : Gro) : List Nat :=
  (List.range g.sects.length).filter fun i => (g.sects[i]?.map GSect.kind) == some 5

/-- The size of a pocket section's window: the largest that a routine asks for, up to 64 KiB, and its contents. -/
def Gro.windowSize (g : Gro) (i : Nat) : Nat :=
  (g.descs.filter fun d => dtype d == 2 && gnum d 0x0E 2 == i && gnum d 0x14 4 ≤ 65536).foldl
    (fun m d => max m (gnum d 0x14 4)) ((g.sects[i]?.map GSect.size).getD 0)

/-- The windows of an image: section, base and size. -/
def Gro.windows (g : Gro) (bases : List Nat) : List (Nat × Nat × Nat) :=
  (g.pockets.zip bases).map fun p => (p.1, p.2, g.windowSize p.1)

/-- The final address of a symbol: of a pocket section's, with the window's base. -/
def Gro.symAddr (g : Gro) (ws : List (Nat × Nat × Nat)) (y : GSym) : Nat :=
  match ws.find? fun w => w.1 == y.sect with
  | some w => w.2.1 + y.value
  | none => match g.sects[y.sect]? with
    | some x => x.va + y.value
    | none => y.value

/-- Put bytes at an offset of a list that holds them. -/
def patch (b : List Byte) (off : Nat) (new : List Byte) : List Byte := b.take off ++ new ++ b.drop (off + new.length)

/-- The form of the instruction at an offset, and where its literal starts; none where it has no literal. -/
def litAt (b : List Byte) (off : Nat) : Option (Form × Nat) :=
  let len := gnum b off 1 % 4
  if len = 1 ∨ len = 3 then
    (unpack (toWords ((b.drop off).take (4 * lenWords len)))).map fun x => (x.2.1.form, off + (if len = 1 then 4 else 12))
  else none

/-- The contents of a section with one relocation applied: none where the instruction has no literal, the field does not
lie in the section, or the value fails its check (R103). The literal of an instruction in form BI+L is patched as that of the
forms the table names (DESIGN CHOICE, log entry 89). -/
def relocate (b : List Byte) (r : GRel) (v : Int) : Option (List Byte) :=
  let put := fun (at_ n : Nat) => if at_ + n ≤ b.length then some (patch b at_ (leBytes n (v % 2 ^ (8 * n)).toNat)) else none
  match r.type with
  | 1 => put r.off 8
  | 2 => (litAt b r.off).bind fun x =>
    if 0 ≤ v ∧ v < 2 ^ 57 ∧ (x.1 ≠ .bjL ∨ v % 4 = 0) then put x.2 8 else none
  | _ => (litAt b r.off).bind fun x =>
    if 0 ≤ v ∧ v < 2 ^ 32 ∧ gnum b (x.2 + 4) 4 = 0 then put x.2 4 else none

/-- The image with the relocations that survive linking applied: those whose symbol lies in a pocket section (R106). -/
def Gro.relocated (g : Gro) (ws : List (Nat × Nat × Nat)) : Option Gro :=
  g.rels.foldl (fun acc r => acc.bind fun g => match g.sects[r.sect]?, g.syms[r.sym]? with
    | some x, some y =>
      if (g.sects[y.sect]?.map GSect.kind) == some 5 then
        (relocate x.bytes r (g.symAddr ws y + r.addend)).map fun b => { g with sects := g.sects.set r.sect { x with bytes := b } }
      else none
    | _, _ => none) (some g)

/-! ### Descriptors (R105, R106) -/

/-- A kernel descriptor, its copy at a device address. -/
def Gro.kernel (g : Gro) (d : List Byte) (addr : Nat) : KernelDesc :=
  { addr := addr, entry := ((g.syms[gnum d 8 4]?).map (g.symAddr [])).getD 0,
    text := (g.sects[gnum d 0x0C 2]?.map GSect.va).getD 0, textLen := (g.sects[gnum d 0x0C 2]?.map GSect.size).getD 0,
    gang := gnum d 1 1 % 2 == 1, prio := gnum d 2 1, regs := gnum d 0x0E 1, tiles := gnum d 0x0F 1, accs := gnum d 0x10 1,
    srows := gnum d 0x12 2, priv := gnum d 0x14 4, widf := BitVec.ofNat 32 (gnum d 0x18 4),
    ext := (List.range 6).map fun i => gnum d (0x1C + 4 * i) 4, feat := descFeat d,
    reserved := 2 ≤ gnum d 1 1 || !gzero d 3 4 || !gzero d 0x11 0x12 || !gzero d 0x34 0x38 || !gzero d 0x48 0x60 }

/-- Where the code of a routine ends in its section: its symbol's SIZE, else the next kernel or routine, else the end. -/
def Gro.codeEnd (g : Gro) (y : GSym) : Nat :=
  let stop := (g.sects[y.sect]?.map GSect.size).getD 0
  if y.size ≠ 0 then min stop (y.value + y.size)
  else (g.syms.filter fun z => z.sect == y.sect && (z.kind == 3 || z.kind == 4) && y.value < z.value).foldl
    (fun m z => min m z.value) stop

/-- A routine's descriptor (R106), its text with the windows' bases applied. -/
def Gro.routine (g : Gro) (ws : List (Nat × Nat × Nat)) (index : Nat) (d : List Byte) : RoutineDesc :=
  let y := (g.syms[gnum d 8 4]?).getD { name := 0, sect := 0, bind := 0, kind := 0, value := 0, size := 0 }
  let b := (g.sects[gnum d 0x0C 2]?.map GSect.bytes).getD []
  let n := (g.codeEnd y - y.value) / 4
  { index := index, point := gnum d 1 1, nins := gnum d 2 2, wcet := gnum d 0x10 4,
    code := (List.range n).map fun i => BitVec.ofNat 32 (gnum b (y.value + 4 * i) 4),
    window := ((ws.find? fun w => w.1 == gnum d 0x0E 2).map fun w => w.2.1).getD 0, wsize := gnum d 0x14 4 }

/-! ### Pages (R88, R107) -/

/-- The leaf of a page request, without frame and home location but a slice set: AC and DY zero. -/
def reqLeaf (d : List Byte) (partid : Nat) : BitVec 128 :=
  let p := gnum d 0x0C 1
  BitVec.ofNat 128
    (1 + (p % 2) * 2 + (p / 2 % 2) * 4 + (p / 4 % 2) * 8 + (p / 8 % 2) * 16 + (p / 16 % 2) * 32 + gnum d 9 1 * 2 ^ 64 +
      gnum d 0x0A 2 % 1024 * 2 ^ 66 + gnum d 2 1 % 16 * 2 ^ 76 + gnum d 3 1 % 16 * 2 ^ 80 + gnum d 8 1 % 8 * 2 ^ 84 +
      partid * 2 ^ 88 + gnum d 0x0E 2 * 2 ^ 96)

/-- The leaf of the pages of text, data and read-only data. -/
def kindLeaf (kind partid : Nat) : BitVec 128 :=
  BitVec.ofNat 128 ((if kind = 1 then 0xB else if kind = 2 then 7 else 3) + partid * 2 ^ 88)

/-- The pages that an image asks for: page sections in request order, then those of text, data and read-only data. -/
def Gro.pageReqs (g : Gro) (partid : Nat) : List PageReq :=
  (g.descs.filterMap fun d => if dtype d = 3 then
      (g.sects[gnum d 0x10 2]?).map fun x => { va := x.va, size := reqSize d, leaf := reqLeaf d partid : PageReq }
    else none) ++
  ((g.sects.filter fun x => x.kind ≤ 3 && x.size != 0).flatMap fun x =>
    (List.range ((x.va + x.size - 1) / 65536 + 1 - x.va / 65536)).map fun i =>
      ({ va := (x.va / 65536 + i) * 65536, size := 16, leaf := kindLeaf x.kind partid } : PageReq)).eraseDups

/-- The leaf of a page, as the walk would give it. -/
def pageLeaf (p : PageReq) : Leaf := { w := p.leaf, va := p.va, size := p.size, at_ := 0 }

/-- A core-pinned page. -/
def pagePinned (p : PageReq) : Bool := (pageLeaf p).home == 3

/-- The pages with the frames that the runtime gives them: none where one has none. -/
def withFrames (frames : List (Nat × Nat)) (ps : List PageReq) : Option (List PageReq) :=
  ps.mapM fun p => if pagePinned p then some p else (frames.find? fun x => x.1 == p.va).bind fun x =>
    if x.2 % 65536 = 0 ∧ x.2 < 2 ^ 52 then some { p with leaf := p.leaf ||| BitVec.ofNat 128 x.2 } else none

/-- The fields of a page request that its leaf cannot show: HOMELOC beyond its ten bits, and a companion section that is not
the raw page where its scales lie (R48, R92, R107, R108). HOMELOC bits 7:0 of a HOME 3 request are not tested (DESIGN
CHOICE, log entry 97). -/
def Gro.companionOk (g : Gro) (d : List Byte) : Bool :=
  gnum d 2 1 ≤ 8 && gnum d 3 1 ≤ 11 && gnum d 8 1 ≤ 3 && gnum d 9 1 ≤ 3 && gnum d 0x0A 2 < 1024 &&
    if gnum d 3 1 / 4 = 2 then
      match g.sects[gnum d 0x12 2]?, g.sects[gnum d 0x10 2]? with
      | some c, some x =>
        c.kind == 4 && (c.va : Int) == x.va + signExt (gnum d 0x0E 2) 16 * 2 ^ reqSize d &&
          (g.request c).any fun e => gnum e 2 1 == 0
      | _, _ => false
    else gnum d 0x12 2 == 0xFFFF

/-- The pages keep R44, R46, R48 and R49, and neither they nor their frames overlap. -/
def Gro.pagesOk (g : Gro) (gm : Nat → Nat) (ps : List PageReq) : Bool :=
  (ps.all fun p => (pageLeaf p).ok gm && p.va % 2 ^ p.size == 0) && apart (ps.map fun p => (p.va, 2 ^ p.size)) &&
    apart ((ps.filter fun p => !pagePinned p).map fun p => ((pageLeaf p).frame, 2 ^ p.size)) &&
    (g.descs.filter fun d => dtype d == 3).all g.companionOk

/-! ### What a load gives -/

/-- What the runtime makes of a file: the image, the contents of its sections by virtual address, those of its windows by
pocket address, and the descriptors' copies by device address. -/
structure Loaded where
  img    : Image
  bodies : List (Nat × List Byte)
  pocket : List (Nat × List Byte)
  copies : List (Nat × List Byte)
  deriving DecidableEq, Repr

/-- Kernel descriptors with the device addresses of their copies. -/
def Gro.kernels (g : Gro) (addrs : List Nat) : List KernelDesc :=
  (g.descs.zip addrs).filterMap fun p => if dtype p.1 = 1 then some (g.kernel p.1 p.2) else none

/-- What a window holds: its section's contents, and zeros. -/
def Gro.windowBytes (g : Gro) (w : Nat × Nat × Nat) : List Byte :=
  let b := (g.sects[w.1]?.map GSect.bytes).getD []
  b ++ List.replicate (w.2.2 - b.length) 0#8

/-- The routines, by descriptor. -/
def Gro.routines (g : Gro) (ws : List (Nat × Nat × Nat)) : List RoutineDesc :=
  ((List.range g.descs.length).zip g.descs).filterMap fun p => if dtype p.2 = 2 then some (g.routine ws p.1 p.2) else none

/-- Load a file with what the runtime chooses: a status word (R328) where it cannot be loaded. 1: it is malformed, a
relocation fails its check among it; 3: a page request breaks a rule, or the runtime has left something out. -/
def groLoad (r : ImageReq) (gm : Nat → Nat) : Except Nat Loaded :=
  match groParse r.file with
  | none => .error 1
  | some g =>
    let ws := g.windows r.windows
    if r.windows.length ≠ g.pockets.length ∨ r.descs.length ≠ g.descs.length ∨
        !(ws.all fun w => w.2.1 % 2 ^ ((g.sects[w.1]?.map GSect.align).getD 0) == 0) then .error 3
    else match g.relocated ws, withFrames r.frames (g.pageReqs r.partid) with
      | none, _ => .error 1
      | _, none => .error 3
      | some g, some ps =>
        if !g.pagesOk gm ps then .error 3
        else
          let img : Image :=
            { qid := r.qid, tenant := r.tenant, partid := r.partid, kernels := g.kernels r.descs, routines := g.routines ws,
              pages := ps, windows := ws.map Prod.snd }
          .ok
            { img := img, bodies := (g.sects.filter fun x => x.kind ≤ 4).map fun x => (x.va, x.bytes),
              pocket := ws.map fun w => (w.2.1, g.windowBytes w), copies := r.descs.zip g.descs }

end Sys2Proof.Machine
end

