-- ==== Sys2Proof/Machine/Launch.lean ====
section
/-!
DEFINITION. From a ring to a running team: queues and their records (R298 to R303), the launch checks (R109, R110), the
placement of teams (R305), tile tasks (R275, R304), images (R111, R309, R322) and the issue choice (R20, R21).
-/

namespace Sys2Proof.Machine

/-! ### Status words (R328) -/

/-- Answer a management command. -/
def State.answerCmd (s : State) (st : Nat) (report : List Byte := []) : State :=
  { s with dev := { s.dev with status := st, report := report } }

/-- A command while the device is in recovery is refused with reason 5 (R335). -/
def State.command (s : State) (body : State → State) : State := if s.dev.recovery then s.answerCmd 5 else body s

/-! ### Queues (R298, R300) -/

/-- A power of two within bounds. -/
def powerIn (lo hi n : Nat) : Bool := lo ≤ n && n ≤ hi && (List.range 64).any fun i => 2 ^ i == n

/-- The limits of QUEUE_CREATE. -/
def queueReqOk (s : State) (r : QueueReq) : Bool :=
  r.qid < 16384 && r.ring < 2 ^ 57 && r.ring % 128 == 0 && powerIn 16 65536 r.count && r.evring % 32 == 0 &&
    powerIn 16 65536 r.ecount && r.tenant < 16 && r.partid < 256 && r.notify % 64 == 0 &&
    (s.devAddr r.partid .store r.notify 64 [1]).isSome

/-- QUEUE_CREATE writes the notify line before it is answered. -/
def execQueueCreate (req : QueueReq) (s : State) : Out :=
  .next (s.command fun s =>
    if !queueReqOk s req then s.answerCmd 3
    else if (mfind req.qid s.queues).isSome then s.answerCmd 4
    else
      let q : VQueue := { req := req }
      (((s.setQueue req.qid q).copyLine q).residencyWrite req.qid q).answerCmd 0)

/-- A queue's slot wakes a queue that waits for one, where it is idle (R303). -/
def State.noteIdle (s : State) (qid : Nat) : State :=
  match mfind qid s.queues with
  | some q => match q.resident with
    | some (die, _) => if s.idleQueue qid q then s.slotFreed die else s
    | none => s
  | none => s

/-- QUEUE_ENABLE with its bit set: TAIL := RIDX, and a TAIL written before has no effect (R300). -/
def execQueueEnable (qid : Nat) (s : State) : Out :=
  .next (s.command fun s => match mfind qid s.queues with
    | none => s.answerCmd 6
    | some q =>
      if q.stopped = 0 then s.answerCmd 0
      else
        let q := { q with stopped := 0, tail := q.ridx, heldTail := none, fwd := q.fwd.filter (fun w => w.1 != 0), accepts := [] }
        (((s.setQueue qid q).copyLine q).noteIdle qid).answerCmd 0)

/-- QUEUE_ENABLE with its bit clear. -/
def execQueueDisable (qid : Nat) (s : State) : Out :=
  .next (s.command fun s => match mfind qid s.queues with
    | none => s.answerCmd 6
    | some q => (if q.stopped = 2 then s else s.stopQueue qid q 2).answerCmd 0)

/-- A producer's write of a field of a queue's line, at NOTIFY or, where the queue is resident, at its slot page. A fenced stack
takes none (R334). -/
def State.lineWrite (s : State) (qid off : Nat) (w : Word) : State :=
  match mfind qid s.queues with
  | none => s
  | some q =>
    if q.resident.isSome then s.notifyWrite qid off w
    else match s.devAddr q.req.partid .store q.req.notify 64 [1] with
      | some (a, _) => if s.down a then s else s.ctlStores [(a + off, 15#4, w)]
      | none => s

def execTailWrite (qid : Nat) (new : Word) (s : State) : Out := .next (s.lineWrite qid 0x00 new)
def execEheadWrite (qid : Nat) (head : Word) (s : State) : Out := .next (s.lineWrite qid 0x10 head)
def execNotifyForward (qid : Nat) (s : State) : Out :=
  .next (if (mfind qid s.queues).any fun q => q.fwd.isEmpty then s else (s.notifyForward qid).noteIdle qid)

/-! ### The launch checks (R109, R110) -/

/-- The six widths of WIDF (R14). -/
def widths (w : Word) : List Nat :=
  let n := w.toNat
  [bits n 3 0, bits n 7 4, bits n 13 8, bits n 19 14, bits n 25 20, bits n 31 26]

/-- Widths and extents keep R13; GANG agrees with w1. -/
def widthsOk (w : Word) (exts : List Nat) (gang : Bool) : Bool :=
  let ws := widths w
  5 ≤ ws.getD 0 0 && ws.getD 0 0 ≤ 11 && ws.getD 1 0 ≤ 14 && (ws.drop 2).all (fun x => x ≤ 32) && ws.sum ≤ 64 &&
    exts.length == 6 && (ws.zip exts).all (fun p => p.2 + 1 ≤ 2 ^ p.1) && gang == (ws.getD 1 0 != 0)

/-- A reserved or out-of-range field of a descriptor (R105). -/
def descBad (d : KernelDesc) : Bool :=
  d.reserved || d.regs < 1 || 120 < d.regs || 16 < d.tiles || 8 < d.accs || 15 < d.prio || 8192 < d.srows ||
    d.srows % 128 != 0 || 65536 < d.priv || d.priv % 4 != 0

/-- Groups of a team of `e0` threads (R15). -/
def groupsFor (e0 : Nat) : Nat := (e0 + 31) / 32

/-- A core with every resource whole holds a team (R110). -/
def State.coreFits (s : State) (core g : Nat) (d : KernelDesc) : Bool :=
  g ≤ ((List.range 16).map fun ls => min 4 (s.laneRows core ls / d.regs)).sum && g * d.tiles ≤ 128 && g * d.accs ≤ 8 &&
    d.srows ≤ 8192

/-- Cores that serve (R337): all that are not spared, those of a die in reset or fenced off too (DESIGN CHOICE, log entry
98). -/
def State.serviceable (s : State) : List Nat := (List.range 256).filter fun c => !s.sparedUnit 1 c

/-- Core-pinned page requests of an image. -/
def State.pinRequests (s : State) (image : Nat) : Nat :=
  match mfind image s.dev.images with
  | some x => (x.pages.filter pagePinned).length
  | none => 0

/-- Bytes of one group's private window (R52). -/
def windowBytes (priv : Nat) : Nat := 128 * ((priv + 3) / 4)

/-- The code of the first check that refuses a launch (R109), or none; a tile task is one team without GANG (R304). -/
def State.launchCode (s : State) (partid : Nat) (k : Option (Nat × KernelDesc)) (exts : List Nat) (task : Bool := false) :
    Option Nat :=
  match k with
  | none => some 1
  | some (image, d) =>
    let g := groupsFor (exts.getD 0 0 + 1)
    if descBad d then some 1
    else if d.feat &&& ~~~Config.capMask ≠ 0#128 then some 2
    else if !widthsOk d.widf exts d.gang || task && (d.gang || (exts.drop 1).any fun e => e != 0) then some 3
    else if !(s.serviceable.any fun c => s.coreFits c g d) then some 4
    else if d.gang ∧ s.serviceable.length < exts.getD 1 0 + 1 then some 5
    else if (mget (0, 0) s.dev.reserve partid).2 < g * windowBytes d.priv then some 6
    else if d.entry % 4 ≠ 0 ∨ d.entry < d.text ∨ d.text + d.textLen ≤ d.entry then some 7
    else if d.srows / 128 < s.pinRequests image then some 9
    else none

/-! ### Launch records (R301) -/

/-- A fence address is 8-aligned and passes R47 on a HOME 1 page. -/
def State.fenceOk (s : State) (partid : Nat) (kind : AKind) (a : Nat) : Bool := (s.devAddr partid kind a 8 [1]).isSome

/-- A queue's ring is empty or its next record waits on a fence: BLOCK is called (R306). -/
def State.callBlock (s : State) (qid : Nat) : State :=
  match mfind qid s.queues with
  | none => s
  | some q => match s.waitingRecords qid with
    | [] => if q.ridx = q.tail then s.call ⟨4, 0, qid, 0⟩ else s
    | (_, r) :: _ => if s.fenceMet r then s else s.call ⟨4, 0, qid, 0⟩

/-- After a record has started, or has been refused, its queue's slot may be idle (R303), and BLOCK may be called (R306). -/
def State.afterStart (s : State) (qid : Nat) : State :=
  (s.noteIdle qid).callBlock qid

/-- The stack that holds an entry of a queue's ring is not fenced (R334): Grenlar reads the entry, at the latest once the die
is re-admitted (log entry 81). -/
def State.entryUp (s : State) (q : VQueue) (idx : Word) : Bool :=
  match s.devAddr q.req.partid .load (q.req.ring + 128 * (idx.toNat % q.req.count)) 4 anyHome with
  | some (a, _) => !s.down a
  | none => true

/-- A word of an entry cannot be read: no page maps it, or it holds an error that cannot be corrected (R297). -/
def State.entryLost (s : State) (q : VQueue) (idx : Word) : Bool :=
  (List.range 32).any fun i => (s.devWord q.req.partid (q.req.ring + 128 * (idx.toNat % q.req.count) + 4 * i)).isNone

/-- A launch is admitted, or a marker taken, under the next name (R301, R304, R330). -/
def State.letIn (s : State) (r : Launch) : State :=
  { s with
    launches := mset s.nextId r s.launches, nextId := s.nextId + 1,
    dev := { s.dev with admitted := s.dev.admitted || r.kind == 1 } }

/-- Grenlar reads the record at RIDX (R301): it is refused with a LAUNCH_FAIL event, or waits to start. A record of which a
word cannot be read is refused as a bad one (DESIGN CHOICE, log entry 81). -/
def State.readRecord (s : State) (qid : Nat) (q : VQueue) : State :=
  let w := fun o => s.ringWord q q.ridx o
  let n64 := fun o => (w o).toNat + 2 ^ 32 * (w (o + 4)).toNat
  let kind := bits (w 8).toNat 7 0; let flags := bits (w 8).toNat 15 8; let prio := bits (w 8).toNat 23 16
  let tag := (w 0x0C).toNat
  let part := q.req.partid
  let q' := { q with ridx := q.ridx + 1 }
  let refuse := fun (code : Nat) =>
    (((s.setQueue qid q').mirror q').postEvent qid ⟨1, 1, qid, tag, code, 0, 0⟩).afterStart qid
  if s.entryLost q q.ridx ∨ (kind ≠ 1 ∧ kind ≠ 2) ∨ bits (w 8).toNat 31 24 ≠ 0 ∨ 15 < flags ∨ (16 ≤ prio ∧ prio ≤ 254) ∨
      ((List.range 14).any fun i => w (0x48 + 4 * i) != 0#32) ∨
      (flags.testBit 1 && !s.fenceOk part .load (n64 0x28)) ∨ (flags.testBit 2 && !s.fenceOk part .store (n64 0x38)) then
    refuse 8
  else
    let k := s.kernelAt (n64 0)
    let exts := if flags.testBit 0 then (List.range 6).map fun i => (w (0x10 + 4 * i)).toNat
      else match k with
        | some (_, d) => d.ext
        | none => []
    match (if kind = 2 then none else s.launchCode part k exts) with
    | some code => refuse code
    | none =>
      let r : Launch :=
        { qid := qid, idx := q.ridx, kind := kind, flags := flags,
          prio := if prio = 0xFF then (match k with
            | some (_, d) => d.prio
            | none => 0) else prio,
          tag := tag, exts := exts, wfpa := ((s.devAddr part .load (n64 0x28) 8 [1]).map Prod.fst).getD 0,
          wfaddr := n64 0x28, wfval := n64 0x30, sfaddr := n64 0x38, sfval := n64 0x40,
          kdesc := n64 0, desc := if kind = 1 then k.map Prod.snd else none,
          image := if kind = 1 then (match k with
            | some (i, _) => i
            | none => 0) else 0 }
      ((((s.setQueue qid q').mirror q').letIn r).callBlock qid)

def execRecordRead (qid : Nat) (s : State) : Out :=
  .next (match mfind qid s.queues with
    | some q => if q.stopped = 0 ∧ q.resident.isSome ∧ q.ridx ≠ q.tail ∧ s.entryUp q q.ridx then s.readRecord qid q else s
    | none => s)

/-- A record that waits on a fence word, and whose fence a value meets. -/
def Launch.metBy (r : Launch) (pa v : Nat) : Bool :=
  r.st == .waiting && r.flags.testBit 1 && r.wfpa / 8 == pa / 8 && decide (r.wfval ≤ v)

/-- Grenlar examines a write of a watched fence word (R301): a record whose fence is met by what the write left goes on, though
the word has been written again since; its queue is woken where it is not resident and the record is its next. -/
def State.examine (s : State) (pa v : Nat) : State :=
  let s : State := { s with launches := s.launches.map fun p => (p.1, if p.2.metBy pa v then { p.2 with met := true } else p.2) }
  s.queues.foldl (fun u p => match u.waitingRecords p.1 with
    | (_, r) :: _ => if r.metBy pa v && p.2.resident.isNone then u.call ⟨5, 0, p.1, 0⟩ else u
    | [] => u) s

/-- The oldest write of a fence word that has not been examined is; it counts for every record whose fence it meets (R301;
DESIGN CHOICE, log entry 104). -/
def execFenceWrite (pa : Nat) (s : State) : Out :=
  .next (match s.fences.find? fun p => p.1 == pa with
    | some p => ({ s with fences := s.fences.erase p } : State).examine pa p.2
    | none => s)

/-- The next record of a queue may start (R301, R302): its fence is met, every team of the earlier records has started,
the queue runs and is resident, and its event ring has room. -/
def State.mayStart (s : State) (qid lid : Nat) (r : Launch) : Bool :=
  (match mfind qid s.queues with
   | some q => q.stopped == 0 && q.resident.isSome && !q.full
   | none => false) &&
    (s.waitingRecords qid).head?.map Prod.fst == some lid && s.fenceMet r &&
    !(s.launches.any fun p => p.1 < lid && p.2.qid == qid && p.2.task.isNone && p.2.kind == 1 && p.2.placed != p.2.teamCount)

/-- A marker starts: its MARKER event (R301). -/
def execMarkerStart (qid : Nat) (s : State) : Out :=
  .next (match s.waitingRecords qid with
    | (lid, r) :: _ =>
      if r.kind = 2 ∧ s.mayStart qid lid r then
        let s := { s with launches := mset lid { r with st := .started } s.launches }
        (s.postEvent qid ⟨7, 1, qid, r.tag, 0, 0, 0⟩).afterStart qid
      else s
    | [] => s)

/-! ### The end of a record (R301) -/

/-- What the teams of a record have sent is released (R133, R149, R150, R301): their stores to controllers and scratchpads,
those under acknowledgement ordering, those held behind a REL sys, the registrations that their cores asked for before they
ended, and their atomics. -/
def State.recordReleased (s : State) (r : Launch) : Bool :=
  !(s.caches.flights.any fun p =>
      (r.ends.any fun e => ctxOf p.2.grp == e.1 && p.1 < e.2.2) &&
        (p.2.route != .remote || p.2.held || s.ackOrder p.2.node)) &&
    r.ends.all fun e => !s.pWords e.2.1 e.2.2 && !(s.orphans.any fun o => o.1 < e.2.2)

/-- The group that the stores of Grenlar itself count as: of no context. -/
def deviceGroup : Nat := 64 * 2 ^ 16

/-- Store a record's SFVAL at SFADDR: none while a remote store must wait for the window that its release asks for (R149), or
while the stack is fenced (R334, log entry 81). -/
def State.fenceStore (s : State) (r : Launch) : Option State :=
  match (mfind r.qid s.queues).bind fun q => s.devAddr q.req.partid .store r.sfaddr 8 [1] with
  | none => some s
  | some (a, rt) =>
    let ws := [(a, 15#4, BitVec.ofNat 32 r.sfval), (a + 4, 15#4, BitVec.ofNat 32 (r.sfval / 2 ^ 32))]
    if rt ≠ .remote then if s.down a then none else some (s.ctlStores ws)
    else if r.nlast.any fun n => s.window < n + 2 then none
    else some (s.sendFlight { grp := deviceGroup, route := rt, words := ws, va := r.sfaddr, node := s.nodeOf a, hdr := s.flit a })

/-- A record that has ended is finished once its release has completed: its signal fence, then its COMPLETE event (R301). -/
def State.finishRecord (s : State) (lid : Nat) (r : Launch) : State :=
  if r.st ≠ .ended ∨ !s.recordReleased r then s
  else match (if r.flags.testBit 2 then s.fenceStore r else some s) with
    | none => s
    | some s =>
      let s := { s with launches := mdel lid s.launches }
      if r.flags.testBit 3 then s.postEvent r.qid ⟨2, 1, r.qid, r.tag, 0, 0, 0⟩ else s

/-- Every record that has ended, oldest first. -/
def State.finishRecords (s : State) : State :=
  (s.launches.filter fun p => p.2.st == .ended).foldl (fun u p => u.finishRecord p.1 p.2) s

/-- A marker ends when every team of every earlier record has ended (R301). -/
def execMarkerEnd (qid : Nat) (s : State) : Out :=
  .next (match s.launches.filter fun p => p.2.qid == qid && p.2.task.isNone with
    | (lid, r) :: _ => if r.kind = 2 ∧ r.st = .started then s.endRecord lid r else s
    | [] => s)

/-! ### Placement (R305) -/

/-- The digits of a team's number over the extents above F0, and the WID they form (R13). -/
def widBase (w : Word) (exts : List Nat) (n : Nat) : Nat :=
  ((((widths w).zip exts).drop 1).foldl (fun (z : Nat × Nat × Nat) p =>
      (z.1 + z.2.1 % (p.2 + 1) * 2 ^ z.2.2, z.2.1 / (p.2 + 1), z.2.2 + p.1))
    (0, n, (widths w).headD 0)).1

/-- Where the bytes of a private window lie, by the pages of a context: none where a page is not mapped with HOME 0, FMT 0,
R = W = 1 for the partition (R52). -/
def State.windowPieces (s : State) (root partid pb n : Nat) : Option (List (Nat × Nat)) :=
  (unitsOf pb n).mapM fun u => match s.walk root u.1 with
    | some l =>
      if l.home = 0 ∧ l.fmt = 0 ∧ l.bit 1 ∧ l.bit 2 ∧ (l.partid = 0 ∨ l.partid = partid) then some (l.pa u.1, u.2) else none
    | none => none

/-- Private windows of a grant (R52): one for each group, 128-aligned, within the partition's reserve and apart from every
other group's. -/
def State.windowsOk (s : State) (root partid priv ng : Nat) (ws : List Nat) : Bool :=
  let n := windowBytes priv
  let res := mget (0, 0) s.dev.reserve partid
  let others := (s.groups.filter fun p => !isPolicy p.1 && (s.teamOf p.1).priv != 0).flatMap fun p =>
    let t := s.teamOf p.1
    (s.windowPieces t.root t.partid p.2.pb (windowBytes t.priv)).getD []
  priv == 0 || ws.length == ng && ws.all (fun a => a % 128 == 0 && a + n ≤ 2 ^ 57) &&
    match ws.mapM fun a => s.windowPieces root partid a n with
    | some ps =>
      apart ps.flatten && ps.flatten.all fun p =>
        res.1 ≤ p.1 && p.1 + p.2 ≤ res.1 + res.2 && !(others.any fun o => rangesMeet o p)
    | none => false

/-- F1 of a team (R13, R16). -/
def Launch.rankInGang (r : Launch) : Nat := r.placed % (r.exts.getD 1 0 + 1)

/-- Pages that a grant must hold: of a gang, only team 0 claims rows (R281). -/
def Launch.pagesFor (r : Launch) (d : KernelDesc) : Nat := if d.gang && r.rankInGang != 0 then 0 else d.srows / 128

/-- A launch may place its next team. A tile task needs its virtual queue open, resident or not (log entry 64). -/
def State.mayPlace (s : State) (lid : Nat) (r : Launch) : Bool :=
  r.kind == 1 && r.placed < r.teamCount &&
    (r.st == .started || (if r.task.isSome then s.taskOpen r.order else s.mayStart r.qid lid r))

/-- PICK has chosen the launch's source for the partition of a grant: a slot of its die, or a tile-task queue of its cluster
(R306). -/
def State.pickedFor (s : State) (r : Launch) (gr : Grant) : Bool :=
  match r.task, (mfind r.qid s.queues).bind VQueue.resident with
  | some _, _ => r.order / 64 == clusterOf gr.core && mfind (gr.core * 8 + gr.partition) s.picks == some (64 + r.order % 64)
  | none, some (die, slot) => die == dieOf gr.core && mfind (gr.core * 8 + gr.partition) s.picks == some slot
  | none, none => false

/-- The leaves of the gang's other teams map team 0's pages too (R281). -/
def State.addLeaves (s : State) (gang : Nat) (leaves : List Nat) : State :=
  match s.teams.find? fun t => t.2.gang == gang && !t.2.pages.isEmpty with
  | some (c, t) =>
    let ps := (List.range t.pages.length).zip t.pages
    let t' := { t with
      pages := ps.map fun p => { p.2 with leaves := p.2.leaves ++ ((leaves.drop p.1).take 1) } }
    (ps.zip leaves).foldl (fun u p => u.setPin { p.1.2 with leaves := [p.2] } (mfind p.1.1 t.spilt).isNone) (s.setTeam c t')
  | none => s

/-- Place the next team of a launch on the resources of a grant (R41, R51, R305, R343). Each team of a gang has a launch time
of its own, in the order in which they are placed (DESIGN CHOICE, log entry 87: R21 does not say what it is for teams that
start together, R16). -/
def State.placeTeam (s : State) (lid : Nat) (r : Launch) (d : KernelDesc) (q : VQueue) (gr : Grant) : State :=
  let e0 := r.exts.getD 0 0 + 1
  let ng := groupsFor e0
  let newGang := !d.gang || r.rankInGang == 0
  let gang := if newGang then s.nextId else r.gang
  let age := s.nextId
  let s := { s with nextId := s.nextId + 1 }
  let s := (s.claim gr.ctx gr.core gr.partition (gr.slots.map fun x => (x, d.regs)) (ng * d.tiles) gr.pages).forgetTags gr.ctx
  let pins := ((List.range gr.pages.length).zip gr.pages).map fun p =>
    ({ core := gr.core, pos := p.2, leaves := (gr.leaves.drop p.1).take 1 } : Pin)
  let t : Team :=
    { tenant := q.req.tenant, partid := q.req.partid, root := gr.root, core := gr.core, part := gr.partition,
      st := .placing, ngroups := ng, widf := d.widf, wid := widBase d.widf r.exts r.placed, e0 := e0, regs := d.regs,
      tiles := d.tiles, accs := d.accs, srows := d.srows, priv := d.priv, gang := gang, qid := r.qid, tag := r.tag,
      launch := lid, image := r.image, kdesc := r.kdesc,
      taskKey := (r.task.map Prod.fst).getD 0, taskPay := (r.task.map Prod.snd).getD 0, taskOvf := r.taskOvf, pages := pins,
      frame := gr.frame }
  let s := s.setTeam gr.ctx t
  let s := pins.foldl (fun u p => u.setPin p true) s
  let s := if newGang then s else s.addLeaves gang gr.leaves
  let x := mget ({} : Gang) s.gangs gang
  let s := { s with gangs := mset gang { x with teams := x.teams ++ [gr.ctx] } s.gangs }
  let s := ((List.range ng).zip (gr.slots.zip gr.accs)).foldl (fun u p =>
    (u.setGroup (64 * gr.ctx + p.1)
      (.launched t p.1 d.entry r.prio (gr.windows.getD p.1 0) p.2.1 p.2.2 age u.tick)).placeAccs (64 * gr.ctx + p.1)) s
  let s := { s with
    launches := mset lid { r with st := .started, placed := r.placed + 1, live := r.live + 1, gang := gang, offers := [] }
      s.launches,
    picks := if s.pickedFor r gr then mdel (gr.core * 8 + gr.partition) s.picks else s.picks }
  let s := if d.gang && r.rankInGang != r.exts.getD 1 0 then s else s.startGang gang
  if r.st = .waiting ∧ r.task.isNone then s.afterStart r.qid else s

/-- The address of the table entry that maps a page of a size, from a table at a level. -/
def State.slotFrom (s : State) (va stop : Nat) : Nat → Nat → Option Nat
  | level, base =>
    let lo := if level = 0 then 16 else 21 + 9 * (level - 1)
    let a := base + 16 * bits va (lo + (if level = 0 then 4 else 8)) lo
    if level = stop then some a
    else match level with
      | 0 => none
      | level + 1 =>
        let e := s.entry a
        if e.getLsbD 0 && e.getLsbD 8 then s.slotFrom va stop level (bits e.toNat 51 9 * 512) else none

/-- The entry of a page of an image in a context's tables. -/
def State.pageSlot (s : State) (root : Nat) (p : PageReq) : Option Nat :=
  s.slotFrom p.va (if p.size = 16 then 0 else if p.size = 21 then 1 else 2) 4 root

/-- A context's tables map the image as the runtime builds them (R51): each page's entry is its leaf, but for AC and DY; that
of a core-pinned page names no rows yet, whatever its request's HOMELOC bits 7:0 (log entry 97), and the grant names it, in
request order. -/
def State.mapsImage (s : State) (image : Nat) (gr : Grant) : Bool :=
  match mfind image s.dev.images with
  | none => true
  | some x =>
    gr.root % 8192 == 0 && (x.pages.all fun p => match s.pageSlot gr.root p with
      | some a =>
        let e := s.entry a &&& ~~~0xC0#128
        if pagePinned p then pinLeaf e 0 0 false == pinLeaf p.leaf 0 0 false else e == p.leaf
      | none => false) &&
      ((x.pages.filter pagePinned).map fun p => s.pageSlot gr.root p) == gr.leaves.map some

/-- The leaf of a core-pinned page of a team, or of a gang whose team 0 has ended: another team holds it for itself (R51). -/
def State.pinnedLeaf (s : State) (a : Nat) : Bool :=
  (s.teams.any fun t => t.2.pages.any fun p => p.leaves.contains a) || s.gangs.any fun g => g.2.pages.any fun p => p.leaves.contains a

/-- A context's root table, the leaves of its core-pinned pages and its frame are its own (R51, R316). -/
def State.ownTables (s : State) (gr : Grant) (d : KernelDesc) (ng : Nat) : Bool :=
  let n := ({ ngroups := ng, regs := d.regs, tiles := d.tiles, accs := d.accs, srows := d.srows } : Team).frameBytes
  !(s.teams.any fun t => t.2.root == gr.root || bytesMeet gr.frame n t.2.frame t.2.frameBytes) && !(gr.leaves.any s.pinnedLeaf)

/-- A context number that no live context holds and no store in flight names (R305, log entry 64). -/
def State.ctxFree (s : State) (ctx : Nat) : Bool :=
  ctx < 0xFFFF && (mfind ctx s.teams).isNone && !(s.caches.flights.any fun p => ctxOf p.2.grp == ctx)

/-- A grant suits the next team of a launch: PICK has chosen the launch's source for the partition, and it keeps the rules
(R305). The other teams of a gang, made of any set of cores, clusters or dies (R16), need an enabled partition only
(DEDUCED, log entry 32). -/
def State.placeOk (s : State) (r : Launch) (d : KernelDesc) (q : VQueue) (gr : Grant) : Bool :=
  let ng := groupsFor (r.exts.getD 0 0 + 1)
  s.ctxFree gr.ctx && s.ownTables gr d ng &&
    (s.pickedFor r gr || d.gang && r.rankInGang != 0 && partEn (s.part (gr.core * 8 + gr.partition))) &&
    s.grantOk gr.ctx gr (List.replicate ng d.regs) d.tiles d.accs (r.pagesFor d) && s.mapsImage r.image gr &&
    s.windowsOk gr.root q.req.partid d.priv ng gr.windows

/-- Place teams of a launch on grants, one after another: none unless every one fits (R305). -/
def State.placeAll (s : State) (lid : Nat) (d : KernelDesc) (q : VQueue) : List Grant → Option State
  | [] => some s
  | gr :: gs => match mfind lid s.launches with
    | some r => if s.placeOk r d q gr then (s.placeTeam lid r d q gr).placeAll lid d q gs else none
    | none => none

/-- Teams that are placed together: those of a gang (R16). -/
def Launch.together (r : Launch) (d : KernelDesc) : Nat := if d.gang then r.exts.getD 1 0 + 1 else 1

/-- A team is placed; the teams of a gang, each on its grant, once there is one for every one of them, and only when every
one fits (R305). Log entry 55. -/
def execTeamPlace (launch : Nat) (grant : Grant) (s : State) : Out :=
  .next (match mfind launch s.launches with
    | none => s
    | some r => match r.desc, mfind r.qid s.queues with
      | some d, some q =>
        let gs := r.offers ++ [grant]
        if !s.mayPlace launch r then s
        else if gs.length < r.together d then { s with launches := mset launch { r with offers := gs } s.launches }
        else (s.placeAll launch d q gs).getD { s with launches := mset launch { r with offers := [] } s.launches }
      | _, _ => s)

/-! ### Tile tasks (R275, R304) -/

/-- The dispatcher takes a ready record where a PICK has chosen its queue, and launches it as a launch of TQID; a refused
launch discards the record and sends LAUNCH_FAIL (R304). -/
def State.dispatch (s : State) (n : Nat) : State :=
  let x := s.kq n
  match mfind x.tqid s.queues, s.kqTake n with
  | some q, some (rec, s) =>
    let k := s.kernelAt (efld x.binding 120 64)
    let exts := match k with
      | some (_, d) => d.ext
      | none => []
    let tag := rec.key.toNat
    match s.launchCode q.req.partid k exts true with
    | some code => s.postEvent x.tqid ⟨1, 1, x.tqid, tag, code, 0, 0⟩
    | none =>
      let r : Launch :=
        { qid := x.tqid, prio := efld x.binding 35 32, tag := tag, exts := exts, kdesc := efld x.binding 120 64,
          order := n, task := some (rec.key, rec.pay), taskOvf := rec.ovf, desc := k.map Prod.snd, image := match k with
            | some (i, _) => i
            | none => 0 }
      s.letIn r
  | _, _ => s

def execTileTaskDispatch (cluster q : Nat) (s : State) : Out :=
  let n := cluster * 64 + q
  .next (
    let chosen := (s.picks.filter fun p => clusterOf (p.1 / 8) == cluster && p.2 == 64 + q).length
    let taken := (s.launches.filter fun p => p.2.task.isSome && p.2.order == n && p.2.st == .waiting).length
    if q < 64 && (s.kq n).taskQueue && taken < chosen then s.dispatch n else s)

/-! ### Images (R111, R309, R312, R320, R322) -/

/-- A window lies in its die's pocket, outside the residency table (R312, R313). -/
def windowPlaced (die a n : Nat) : Bool :=
  let p := 2 ^ 48 + die * 2 ^ 22
  p ≤ a && a + n ≤ p + 2 ^ 22 && (die != 0 || 2 ^ 48 + 2 ^ 17 ≤ a)

/-- Write a byte at its home. -/
def State.homeByte (s : State) (a : Nat) (rt : Route) (b : Byte) : State :=
  let mask := 1#4 <<< (a % 4); let w := (b.setWidth 32 : Word) <<< (8 * (a % 4))
  match rt with
  | .cached => s.homeWrite (a / 4 * 4) mask w
  | _ => s.ctlWrite (a / 4 * 4) mask w

/-- Write contents at virtual addresses of the pages of an image; a core-pinned page has no rows yet. -/
def State.putBody (s : State) (ps : List PageReq) : Nat → List Byte → State
  | _, [] => s
  | va, b :: bs =>
    (match ps.find? fun (p : PageReq) => p.va == va / 2 ^ p.size * 2 ^ p.size with
     | some p => if pagePinned p then s else s.homeByte ((pageLeaf p).ha va) (pageLeaf p).route b
     | none => s).putBody ps (va + 1) bs

/-- Write a descriptor's copy at a device address. -/
def State.putCopy (s : State) (partid : Nat) : Nat → List Byte → State
  | _, [] => s
  | a, b :: bs => (match s.devAddr partid .load a 1 anyHome with
    | some (pa, rt) => s.homeByte pa rt b
    | none => s).putCopy partid (a + 1) bs

/-- A page of a partition's device addresses that can be read and not written, where the system has named its root. -/
def State.readOnly (s : State) (partid a : Nat) : Bool :=
  (s.devAddr partid .load a 4 anyHome).isSome && (s.devAddr partid .load (a + 92) 4 anyHome).isSome &&
    ((mfind partid s.dev.roots).isNone || (s.devAddr partid .store a 4 anyHome).isNone)

/-- Each routine of an image passes the checker and is bound, or is refused with a CHECKER_ERROR event (R309, R322). -/
def State.bindRoutines (s : State) (image : Nat) (i : Image) : State :=
  i.routines.foldl (fun u r =>
    match checkRoutine r (u.allowOf (homeDie i.qid) i.tenant) with
    | some (detail, addr, value) => u.postEvent i.qid ⟨5, 2, r.index, i.tenant, detail, addr, value⟩
    | none =>
      { u with
        routines := mset (64 * i.tenant + r.point)
          { image := image, code := r.code, window := r.window, wsize := r.wsize, qid := i.qid } u.routines }) s

/-- LOAD_IMAGE: the contents of the sections, the windows and the descriptors' copies are written, and the routines are bound
(R106, R109, R309, R322). Bytes of a page past its section's SIZE stay what the frame held (DESIGN CHOICE, log entry 97). -/
def State.loadImage (s : State) (image : Nat) (x : Loaded) : State :=
  let i := x.img
  let s := { s with dev := { s.dev with images := mset image i s.dev.images } }
  let s := x.bodies.foldl (fun u b => u.putBody i.pages b.1 b.2) s
  let s := x.pocket.foldl (fun u b => u.putBytes b.1 b.2) s
  let s := x.copies.foldl (fun u b => u.putCopy i.partid b.1 b.2) s
  s.bindRoutines image i

/-- A byte of a page of an image, or of a partition's device addresses, lies on a fenced stack (R334). -/
def State.bodyDown (s : State) (ps : List PageReq) (va n : Nat) : Bool :=
  (rangeLines va n).any fun a => match ps.find? fun (p : PageReq) => p.va == a / 2 ^ p.size * 2 ^ p.size with
    | some p => !pagePinned p && s.down ((pageLeaf p).ha a)
    | none => false
def State.copyDown (s : State) (partid a n : Nat) : Bool :=
  (rangeLines a n).any fun x => match s.devAddr partid .load x 1 anyHome with
    | some (pa, _) => s.down pa
    | none => false

/-- What LOAD_IMAGE writes lies in part on a fenced stack. -/
def State.loadDown (s : State) (x : Loaded) : Bool :=
  (x.bodies.any fun b => s.bodyDown x.img.pages b.1 b.2.length) || x.copies.any fun b => s.copyDown x.img.partid b.1 b.2.length

/-- The windows of an image lie where the policy loader may place them, apart from each other and from those of other
images (R312, R313). -/
def State.placesWindows (s : State) (die : Nat) (ws : List (Nat × Nat)) : Bool :=
  (ws.all fun w => windowPlaced die w.1 w.2) && apart ws &&
    !(s.dev.images.any fun i => i.2.windows.any fun x => ws.any fun w => rangesMeet x w)

/-- LOAD_IMAGE of an image that is loaded already, with the same request, loads its routines again and refills no window (R320;
DEDUCED, log entry 82); of any other image its number is in use. While a stack that it writes to is fenced it is refused as for a
busy object (R334; DESIGN CHOICE, log entry 81). -/
def execLoadImage (req : ImageReq) (s : State) : Out :=
  .next (s.command fun s =>
    if (mfind req.image s.dev.images).isSome then
      match groLoad req s.gmode with
      | .ok x =>
        if mfind req.image s.dev.images = some x.img then (s.bindRoutines req.image x.img).answerCmd 0 else s.answerCmd 4
      | .error _ => s.answerCmd 4
    else if (mfind req.qid s.queues).isNone then s.answerCmd 6
    else match groLoad req s.gmode with
      | .error n => s.answerCmd n
      | .ok x =>
        if 16 < req.tenant ∨ 255 < req.partid ∨ !s.placesWindows (homeDie req.qid) x.img.windows ∨
            !(x.copies.all fun b => s.readOnly req.partid b.1) then s.answerCmd 3
        else if s.loadDown x then s.answerCmd 2
        else (s.loadImage req.image x).answerCmd 0)

/-- UNLOAD_IMAGE takes effect when every team launched from the image has ended (R111). It is answered at once with status
0, also where it has to wait (DESIGN CHOICE, log entry 64: R111 and R328 do not say). -/
def execUnloadImage (image : Nat) (s : State) : Out :=
  .next (s.command fun s => match mfind image s.dev.images with
    | none => s.answerCmd 6
    | some x =>
      ({ s with dev := { s.dev with images := mset image { x with unload := true } s.dev.images } }).reapImages.answerCmd 0)

/-! ### Partition entries and bindings (R304, R305) -/

/-- The system writes an entry of a device window; that of a die in reset takes none (R334). -/
def execPartitionWrite (core part : Nat) (w : BitVec 128) (s : State) : Out :=
  .next (if s.dieReset (dieOf core) then s else s.partitionWrite core part w)
def execTileTaskBindingWrite (cluster q : Nat) (w : BitVec 128) (s : State) : Out :=
  .next (if s.dieReset (dieOfCluster cluster) then s else s.bindingWrite cluster q w)

/-! ### The issue choice (R20, R21) -/

/-- The lane set of a group: 16 × core + floor(slot / 4). -/
def State.laneSet (s : State) (k : Nat) : Nat := 16 * s.coreOf k + (s.group k).slot / 4

/-- A group runs, and a lane of it may issue. -/
def State.runnable (s : State) (k : Nat) : Bool := !isPolicy k && s.runs k && !(s.group k).cand.isEmpty

/-- A group may be chosen: it runs, and its next instruction is not known to stall. -/
def State.ready (s : State) (k : Nat) : Bool := s.runnable k && !s.blocked.contains k

/-- The groups of a lane set that are ready. -/
def State.readyIn (s : State) (ls : Nat) : List Nat := (s.groups.map Prod.fst).filter fun k => s.ready k && s.laneSet k == ls

/-- The eligible groups of a lane set (R20): after YIELD a group lets the others issue first. -/
def State.eligible (s : State) (ls : Nat) : List Nat :=
  let rs := s.readyIn ls
  let es := rs.filter fun k => !(s.group k).yielded || !((s.group k).owes.any fun j => rs.contains j)
  if es.isEmpty then rs else es

/-- A group comes before another (R21): passed over 64 times, then priority, then launch order, then slot. -/
def State.before (s : State) (j k : Nat) : Bool :=
  let key := fun x =>
    let g := s.group x
    (if 64 ≤ g.passes then 0 else 1, 15 - g.ctl.prio.toNat % 16, g.age, g.slot)
  let a := key j; let b := key k
  a.1 < b.1 || a.1 == b.1 && (a.2.1 < b.2.1 || a.2.1 == b.2.1 && (a.2.2.1 < b.2.2.1 ||
    a.2.2.1 == b.2.2.1 && a.2.2.2 < b.2.2.2))

/-- The slot that a lane set issues from (R21). -/
def State.chosen (s : State) (ls : Nat) : Option Nat :=
  (s.eligible ls).foldl (fun m k => match m with
    | none => some k
    | some j => if s.before k j then some k else some j) none

/-- A lane set chooses (R21): a chosen group that has yielded owes nothing more (R20). -/
def State.choose (s : State) (ls : Nat) : State :=
  match s.chosen ls with
  | none => s
  | some k => { s.updGroup k fun g => { g with yielded := false, owes := [] } with cur := k }

/-- A group has issued from its lane set: the other slots `es` that were eligible have been passed over once more (R21), and
a group that yielded owes this one nothing more (R20). -/
def State.countIssue (s : State) (k : Nat) (es : List Nat) : State :=
  { s with groups := s.groups.map fun p =>
      if p.1 = k then (p.1, { p.2 with passes := 0 })
      else if s.laneSet p.1 = s.laneSet k then
        (p.1, { p.2 with
          passes := if es.contains p.1 then p.2.passes + 1 else p.2.passes, owes := p.2.owes.filter fun x => x != k })
      else p }

/-- A group's next instruction is found stalled: its slot is not eligible, and its count of passes starts again; the count
of a slot that is not eligible for another reason stays as it is (DESIGN CHOICE, log entry 66: R21 does not say). -/
def State.countStall (s : State) (k : Nat) : State := s.updGroup k fun g => { g with passes := 0 }

def execIssueChoice (core ls : Nat) (s : State) : Out := .next (s.choose (16 * core + ls))

end Sys2Proof.Machine
end

