-- ==== Sys2Proof/Machine/Device.lean ====
section
/-!
DEFINITION. The device at its interfaces and in service (R297, R323 to R339), fabric messages (R30), and the scrub engine
(R296).
-/

namespace Sys2Proof.Machine

/-- Change the device. -/
def State.updDev (s : State) (f : Dev → Dev) : State := { s with dev := f s.dev }

/-! ### Fabric messages (R30) -/

/-- Elements that wait in a receive buffer. -/
def Endpoint.fill (e : Endpoint) : Nat := (e.buf.map List.length).sum

/-- Append the messages that wait for an endpoint to the port that holds it, whole and in order, while it has room; those
of a saved group wait. -/
def State.deliver (s : State) (ep : Nat) : Nat → State
  | 0 => s
  | n + 1 =>
    match mfind ep s.dev.endpoints with
    | none => s
    | some e =>
      match e.holder, e.buf with
      | some h, m :: ms =>
        let p := (s.group (h / 8)).port (h % 8)
        if (s.teamOf (h / 8)).held && m.length ≤ p.room then
          let s := s.updGroup (h / 8) fun g => g.setPort (h % 8) { p with elems := p.elems ++ m }
          (s.updDev fun d => { d with endpoints := mset ep { e with buf := ms } d.endpoints }).deliver ep n
        else s
      | _, _ => s

/-- Deliver what every endpoint's buffer holds. -/
def State.deliverAll (s : State) : State :=
  s.dev.endpoints.foldl (fun u p => u.deliver p.1 (p.2.buf.length)) s

/-- A message arrives from a node: discarded, counted and reported where its endpoint is not defined or does not let in the
node, taken where it finds room, or none: the fabric holds it. -/
def State.messageIn (s : State) (ep src : Nat) (m : List Word) : Option State :=
  let refuse := (s.bump impDeny 0 0 1).deviceEvent 0x14 src (Config.freeEventValue s.tick)
  match mfind ep s.dev.endpoints with
  | none => some refuse
  | some e =>
    if e.req.filter ≠ 0xFFFF ∧ e.req.filter ≠ src then some refuse
    else
      let t := (s.updDev fun d => { d with endpoints := mset ep { e with buf := e.buf ++ [m] } d.endpoints }).deliver ep
        (e.buf.length + 1)
      match mfind ep t.dev.endpoints with
      | some e' => if e'.fill ≤ e'.req.depth then some t else none
      | none => none

/-- A message of 1 to 32 elements arrives (R28: one write is one message). -/
def execMessageArrive (ep src : Nat) (elems : List Word) (s : State) : Out :=
  .next (if elems.isEmpty || 32 < elems.length then s else (s.messageIn ep src elems).getD s)

/-- The fabric takes up to `n` elements of the oldest message of a kind-4 port, unless its group is saved, whose frame keeps
them. A message to this device's own node is delivered when its last element leaves. -/
def State.takeElements (s : State) (k q n : Nat) : State :=
  let p := (s.group k).port q
  match p.out with
  | [] => s
  | m :: ms =>
    if n < m.length then
      s.updGroup k fun g => g.setPort q { p with out := m.drop n :: ms, sent := p.sent ++ m.take n }
    else
      let t := s.updGroup k fun g => g.setPort q { p with out := ms, sent := [] }
      if p.node = s.dev.node.toNat then (t.messageIn p.dest p.node (p.sent ++ m)).getD s
      else if s.cutOff p.node then s
      else t

def execFabricTakesPortElements (g port n : Nat) (s : State) : Out :=
  .next (if (mfind g s.groups).isSome && (s.teamOf g).held then s.takeElements g port n else s)

/-- MSGEP defines an endpoint (R30, R328). -/
def execMsgepDefine (req : EndpointReq) (s : State) : Out :=
  .next (s.command fun s =>
    if 4095 < req.num ∨ 255 < req.partid ∨ req.depth < 256 ∨ 65536 < req.depth ∨ 0xFFFF < req.filter then s.answerCmd 3
    else if (mfind req.num s.dev.endpoints).isSome then s.answerCmd 4
    else (s.updDev fun d => { d with endpoints := mset req.num { req := req } d.endpoints }).answerCmd 0)

/-- MSGEP removes an endpoint that no port holds. -/
def execMsgepRemove (ep : Nat) (s : State) : Out :=
  .next (s.command fun s => match mfind ep s.dev.endpoints with
    | none => s.answerCmd 6
    | some e =>
      if e.holder.isSome then s.answerCmd 2
      else (s.updDev fun d => { d with endpoints := mdel ep d.endpoints }).answerCmd 0)

/-! ### Requests from other devices (R327, R151) -/

/-- An import entry permits a request: its node, its range, and R for a load, W for a store, A for an AMO or CAS. -/
def importPermits (e : ImportEntry) (r : FabricReq) : Bool :=
  e.node == r.node && e.base ≤ r.pa && r.pa + r.width ≤ e.base + e.size &&
    (if r.kind = 0 then e.r else if r.kind = 1 then e.w else e.a)

/-- The entry that permits a request: HBM, pocket memory and device windows can be reached. -/
def State.permitOf (s : State) (r : FabricReq) : Option ImportEntry :=
  if r.pa < 2 ^ 52 ∧ regionOf r.pa ≤ 2 then (s.dev.imports.map Prod.snd).find? fun e => importPermits e r else none

/-- A request of R216, R218 or R220: its header's fields (R325), its width, aligned. Log entry 57. -/
def fabricOk (r : FabricReq) : Bool :=
  r.node < 2 ^ 16 && r.stream < 2 ^ 16 && r.seq < 2 ^ 32 && r.win < 2 ^ 32 &&
  (if r.kind ≤ 1 then [1, 2, 4, 8, 16].contains r.width else r.kind ≤ 3 && (r.width == 4 || r.width == 8)) &&
    r.pa % r.width == 0 && r.op ≤ 9

/-- The home that an entry names; pocket memory and windows are HOME 1. -/
def importHome (e : ImportEntry) (pa : Nat) : Nat := if regionOf pa = 0 then e.home else 1

/-- The words of a request with the bytes it covers and its data. -/
def fabricWords (r : FabricReq) : List (Nat × BitVec 4 × Word) :=
  (List.range ((r.width + 3) / 4)).map fun i =>
    (r.pa / 4 * 4 + 4 * i, needMask r.pa r.width,
      BitVec.ofNat 32 (r.data.toNat % 2 ^ (8 * r.width) * 2 ^ (8 * (r.pa % 4)) / 2 ^ (32 * i)))

/-- Read the words of a request at their home: none where one is lost or its die is in reset. -/
def State.fabricRead (s : State) (e : ImportEntry) (r : FabricReq) : Option Nat :=
  let gs := (fabricWords r).map fun w =>
    if importHome e r.pa = 1 then s.ctlGot w.1 else s.homeRead (homeAddr (importHome e r.pa) e.loc w.1)
  if (lostCause gs).isSome then none
  else some (packList 32 (gs.map fun x => x.toWord.toNat) / 2 ^ (8 * (r.pa % 4)) % 2 ^ (8 * r.width))

/-- Write words at their home as one write each. -/
def State.fabricWrite (s : State) (e : ImportEntry) (pa : Nat) (ws : List (Nat × BitVec 4 × Word)) : State :=
  let h := fun a => homeAddr (importHome e pa) e.loc a
  if ws.any fun w => s.down (h w.1) then s
  else if importHome e pa = 1 then s.ctlStores ws
  else ws.foldl (fun t w => t.homeWrite (h w.1) w.2.1 w.2.2) s

/-- The name of a store or atomic (R151): its source node, its stream, the window stamp and the sequence number, which it keeps
when it is sent again. -/
def fabricKey (r : FabricReq) : Nat := ((r.node * 2 ^ 16 + r.stream) * 2 ^ 32 + r.win) * 2 ^ 32 + r.seq

/-- Perform a permitted request; a sequence number that has been applied is not applied again (R151). -/
def State.fabricPerform (s : State) (e : ImportEntry) (r : FabricReq) : State :=
  let v := s.fabricRead e r
  let reply := fun (t : State) => t.updDev fun d => { d with reply := v.map (BitVec.ofNat 128) }
  if r.kind = 0 then reply s
  else if mget false s.dev.applied (fabricKey r) then s
  else
    let s := s.updDev fun d => { d with applied := mset (fabricKey r) true d.applied }
    if r.kind = 1 then s.fabricWrite e r.pa (fabricWords r)
    else match v with
      | none => reply s
      | some old =>
        let code := if r.kind = 3 then 10 else r.op
        let new := applyLanes code (8 * r.width) (BitVec.ofNat 64 old) [(0, r.data.setWidth 64, r.cmp)]
        reply (s.fabricWrite e r.pa (fabricWords { r with data := new.setWidth 128 }))

/-- A request of another device arrives (R327). -/
def execRemoteAccessArrive (req : FabricReq) (s : State) : Out :=
  .next (if !fabricOk req then s
    else
      let s := s.updDev fun d => { d with reply := none }
      match s.permitOf req with
      | some e => s.fabricPerform e req
      | none =>
        if req.kind = 1 then (s.bump impDeny 0 0 1).deviceEvent 0x14 req.node (req.pa % 2 ^ 32) else s)

/-! ### Streams and links (R148 to R151, R331, R332) -/

def State.stream (s : State) (node : Nat) : Stream := mget {} s.dev.streams node
def State.setStream (s : State) (node : Nat) (x : Stream) : State :=
  s.updDev fun d => { d with streams := mset node x d.streams }

/-- Groups with a store to a node that is not acknowledged. -/
def State.senders (s : State) (node : Nat) : List Nat :=
  ((s.caches.flights.filter fun p => p.2.route == .remote && p.2.node == node).map fun p => p.2.grp).eraseDups

/-- A link stops meeting the bound: the streams to a node come under acknowledgement ordering, and each group with stores
there owes a WINDOW_OVERRUN (R150). -/
def State.boundLost (s : State) (node : Nat) : State :=
  (s.senders node).foldl (fun u k => if (mfind k u.groups).isSome then
      u.updGroup k fun g => { g with overrun := true } else u)
    (s.setStream node { s.stream node with ack := true, lost := s.window })

def execWindowBoundLost (node : Nat) (s : State) : Out := .next (s.boundLost node)

/-- The streams return to window ordering at a window boundary after a whole window in which the link met the bound, on a
device that is synchronised and whose 2 × ERR is at most WLEN (R150, R331). -/
def execWindowOrderRestore (node : Nat) (s : State) : Out :=
  .next (if (s.stream node).lost + 2 ≤ s.window ∧ s.dev.sync ≠ 2 ∧ 2 * s.dev.errNow ≤ s.dev.wlen then
      s.setStream node { s.stream node with ack := false }
    else s)

/-- The die that a port lies on (R325). -/
def portDie (port : Nat) : Nat := port / 4

/-- A port goes down (R332): its streams fail over, their stores keeping number and stamp until another port or the
timeout takes them (R151). -/
def State.portDown (s : State) (port : Nat) : State :=
  match mfind port s.dev.links with
  | some l =>
    if l.up then
      (s.updDev fun d => { d with
        links := mset port { l with up := false } d.links, cut := mset l.peer d.time d.cut }).deviceEvent 0x11 port l.peer
    else s
  | none => s

def execLinkDown (port : Nat) (s : State) : Out := .next (s.portDown port)

/-- The ports of a die whose logic is in reset lose flit lock, and go down (R325, R332; DEDUCED, log entry 83). -/
def State.portsDown (s : State) (die : Nat) : State :=
  ((List.range 16).filter fun p => portDie p == die).foldl (fun u p => u.portDown p) s

/-- A port comes up (R329), unless its die is in reset; one that was up to another node reaches that node no more. -/
def execLinkUp (port peer : Nat) (s : State) : Out :=
  .next (if 16 ≤ port ∨ 0xFFFF < peer ∨ s.dieReset (portDie port) then s
    else (s.updDev fun d =>
      { d with
        links := mset port { up := true, peer := peer } d.links,
        cut := match mfind port d.links with
          | some l => if l.up then mset l.peer d.time d.cut else d.cut
          | none => d.cut }).deviceEvent 0x12 port peer)

/-- The time at which a port last stopped reaching a node. -/
def State.cutAt (s : State) (node : Nat) : Nat := mget 0 s.dev.cut node

/-- 10 ms after the last route to a node was lost, its held stores are discarded, and each is recorded as DATA_LOST
(R249, R332). Its atomics have failed when the route was lost: their answers say so. -/
def State.streamOver (s : State) (node : Nat) : State :=
  if !s.cutOff node || s.dev.time < s.cutAt node + 10000000 then s
  else
    (s.caches.flights.filter fun p => p.2.route == .remote && p.2.node == node && !p.2.atom).foldl (fun u p =>
      let u := { u with caches := { u.caches with flights := mdel p.1 u.caches.flights } }
      if (mfind p.2.grp u.groups).isSome then u.storeLost p.2 else u) s

def execStreamTimeout (node : Nat) (s : State) : Out := .next (s.streamOver node)

/-- Every stream whose timeout has expired. -/
def State.streamsOver (s : State) : State := (s.dev.cut.map Prod.fst).foldl State.streamOver s

/-! ### Spare units and soft errors (R297, R308, R323, R337) -/

/-- A condition of R337 holds: REPLACE is set, and its request is sent the first time. -/
def State.replaceWhen (s : State) (cond n : Nat) (holds : Bool) : State :=
  if holds && !s.dev.replace.contains cond then
    (s.updDev fun d => { d with replace := d.replace ++ [cond] }).deviceEvent 0x15 cond n
  else s

/-- Spared units of a kind within a range. -/
def State.sparedIn (s : State) (kind lo n : Nat) : Nat := ((List.range n).filter fun i => s.sparedUnit kind (lo + i)).length

/-- A unit is spared out: SPARED, and the conditions of R337 on the kind (1 core, 2 row set, 3 slice, 4 bank group, 5
module). -/
def State.spareOut (s : State) (kind unit : Nat) : State :=
  let s := (s.updDev fun d => { d with spared := mset (kind * 65536 + unit) true d.spared }).deviceEvent 0x16 kind unit
  let st := unit / 64 * 64; let bd := unit / 48 * 48; let die := unit / 96 * 96
  match kind with
  | 1 => s.replaceWhen 1 (s.sparedIn 1 0 256) (8 < s.sparedIn 1 0 256)
  | 4 => s.replaceWhen 2 (s.sparedIn 4 st 64) (4 < s.sparedIn 4 st 64)
  | 5 => s.replaceWhen 3 (48 - s.sparedIn 5 bd 48) (48 - s.sparedIn 5 bd 48 < 40)
  | 3 => s.replaceWhen 4 (s.sparedIn 3 die 96) (12 < s.sparedIn 3 die 96)
  | _ => s

/-- A module of a die boundary has been retrained, or has failed and is spared out; only timing changes (R323). -/
def execModuleRetrain (boundary mod : Nat) (repaired : Bool) (s : State) : Out :=
  .next (if repaired || 4 ≤ boundary || 48 ≤ mod || s.sparedUnit 5 (48 * boundary + mod) then s
    else s.spareOut 5 (48 * boundary + mod))

/-- The cluster that a structure lies in, by its kind and unit (R308; log entry 24). -/
def softCluster (kind unit : Nat) : Option Nat :=
  match kind with
  | 0 | 1 | 3 => some (unit / 8)
  | 2 => some (unit / 128)
  | 4 => some (unit / 32)
  | _ => none

/-- A corrected error is counted for its structure and its cluster (R308). -/
def State.softCount (s : State) (kind unit : Nat) : State :=
  let hour := softKey (s.dev.time / hourNs)
  let s := s.bump hour 0 (4096 * kind + unit) 1
  let s := match softCluster kind unit with
    | some c => s.bump 0x73 c 0 1
    | none => s
  let n := s.pcntOf hour 0 (4096 * kind + unit)
  s.replaceWhen 5 n (1000 < n)

/-- The registered word is lost: its owner's copy goes, and the home marks it (R132). -/
def State.loseWord (s : State) (ha : Nat) : State :=
  match s.ownerOf ha with
  | some c => ((s.delOwner ha).dropL1 c ha).setLost ha true
  | none => s

/-- The group of a core in a slot. -/
def State.slotGroup (s : State) (core slot : Nat) : Option Nat :=
  (s.groups.find? fun p => !isPolicy p.1 && s.coreOf p.1 == core && (s.teamOf p.1).held && p.2.slot == slot).map Prod.fst

/-- The `n` words of a protected unit of memory, the pocket or a scratchpad that holds an address are spoiled there, whatever
the caches hold of them; a pending sector reads zero all the same (R296, R297). -/
def State.spoil (s : State) (a n : Nat) : State :=
  let b := a / (4 * n) * (4 * n)
  if s.pending b then s else ((List.range n).map fun i => b + 4 * i).foldl (fun u x => u.setBad x true) s

/-- The words of an 8-byte unit that a slice holds are spoiled there. -/
def State.spoilSlice (s : State) (ha : Nat) : State :=
  let b := ha / 8 * 8
  [b, b + 4].foldl (fun u x => if (mfind x u.caches.l2).isSome then u.setSliceErr x true else u) s

/-- An error that cannot be corrected (R132, R249, R297): an L1 word is dropped or lost, with the loads that wait for it; a
registry entry's words are lost; a word of a slice, a scratchpad, the pocket or a stack, a register, a tile or an accumulator
gives DATA_LOST to its consumer; a bank engine fails its command; a transfer of a word over a module or a port fails past the
retry limit, in the next step. Log entry 24. -/
def State.hardError (s : State) (kind unit addr : Nat) : State :=
  match kind with
  | 0 =>
    let ha := addr / 4 * 4
    match s.l1 unit ha with
    | some x =>
      if x.st = .v then s.dropL1 unit ha
      else
        let s := match s.ownerOf ha with
          | some c => (s.delOwner ha).dropL1 c ha
          | none => s
        ((s.dropL1 unit ha).setLost ha true).mapSlots unit (loseSlot ha .ownerLost)
    | none => s
  | 1 => if unit < 256 ∧ addr < 2 ^ 22 then s.spoil (scratchPA unit addr) 1 else s
  | 2 =>
    match s.slotGroup (unit / 16) (4 * (unit % 16) + addr / 4096) with
    | some k => s.updGroup k fun g => g.setMark (addr % 4096 / 32) (addr % 32) ⟨.dataLost, 0⟩
    | none => s
  | 3 =>
    match s.slotGroup unit (addr / 16) with
    | some k => s.updGroup k fun g => g.setTile (addr % 16) { g.tile (addr % 16) with mark := some ⟨.dataLost, 0⟩ }
    | none => s
  | 4 => s.setAcc (unit / 4) (unit % 4) (addr % 8) { s.acc (unit / 4) (unit % 4) (addr % 8) with bad := true }
  | 5 => s.spoilSlice addr
  | 6 => ((List.range 16).map fun i => lineOf addr + 4 * i).foldl (fun u ha => u.loseWord ha) s
  | 7 => if regionOf addr = 1 ∧ addr < 2 ^ 48 + 2 ^ 24 then s.spoil addr 2 else s
  | 8 =>
    if isHbm addr then s.spoil addr 8 else s.failBank unit
  | _ => { s with caches := { s.caches with cut := some (s.tick + 1, paOf addr / 4 * 4) } }

def execSoftError (kind unit addr : Nat) (corrected : Bool) (s : State) : Out :=
  .next (if structures kind ≤ unit then s
    else if corrected then s.softCount kind unit else s.hardError kind unit addr)

/-! ### Time (R328, R330) -/

/-- A change of synchronisation sends SYNC_STATE (R329). -/
def State.setSync (s : State) (st : Nat) : State :=
  if s.dev.sync = st then s else (s.updDev fun d => { d with sync := st }).deviceEvent 0x13 st s.dev.err

/-- A Sync has measured an offset, the grandmaster's time less device time: at start-up, before any launch, more than 1 ms
is stepped once; any other is slewed in the time that later steps pass. -/
def execSyncReceived (offset : Int) (s : State) : Out :=
  .next (
    let step := !s.dev.stepped && 1000000 < offset.natAbs && !s.dev.admitted
    let s := s.updDev fun d =>
      let t := if step then (((d.time : Int) + offset) % 2 ^ 64).toNat else d.time
      { d with time := t, stepped := d.stepped || step, lastSync := t, err := offset.natAbs }
    s.setSync 0)

/-- No Sync has come for 2 s: holdover. -/
def State.holdover (s : State) : State :=
  if s.dev.sync ≠ 0 ∨ s.dev.time < s.dev.lastSync + 2000000000 then s
  else (s.updDev fun d =>
    { d with holdAt := d.lastSync + 2000000000, err := d.err + Config.driftAllowed 2000000000 }).setSync 1

def execSyncHoldover (s : State) : Out := .next s.holdover

/-- Holdover has lasted 60 s: ERR has grown by 2,000 ns in each second. -/
def State.syncLoss (s : State) : State :=
  if s.dev.sync ≠ 1 ∨ s.dev.time < s.dev.holdAt + 60000000000 then s
  else (s.updDev fun d => { d with err := d.err + 120000 }).setSync 2

def execSyncLost (s : State) : Out := .next s.syncLoss

/-- WLEN stages a window length. -/
def execWlen (ns : Nat) (s : State) : Out :=
  .next (s.command fun s =>
    if !powerIn 1024 65536 ns then s.answerCmd 3
    else (s.updDev fun d =>
      { d with wlenNext := some ns, wlenAt := (d.time / 65536 + 1) * 65536 }).answerCmd 0)

/-- The window of a new length by whose start, plus two, the time of an old one's has come (log entry 22). -/
def rewindow (old new n : Nat) : Nat := ((n + 2) * old + new - 1) / new - 2

/-- Every window that the machine has noted is numbered anew. -/
def State.renumber (s : State) (w : Nat → Nat) : State :=
  { s with
    groups := s.groups.map fun p => (p.1, { p.2 with nlast := p.2.nlast.map w, hold := p.2.hold.map w }),
    teams := s.teams.map fun p => (p.1, { p.2 with nlast := p.2.nlast.map w }),
    launches := s.launches.map fun p => (p.1, { p.2 with nlast := p.2.nlast.map w }),
    late := s.late.map fun p => (p.1, w p.2),
    dev := { s.dev with streams := s.dev.streams.map fun p => (p.1, { p.2 with lost := w p.2.lost }) } }

/-- The staged length takes effect at its time. -/
def State.applyWlen (s : State) : State :=
  match s.dev.wlenNext with
  | none => s
  | some n =>
    if s.dev.time < s.dev.wlenAt then s
    else (s.updDev fun d => { d with wlen := n, wlenNext := none }).renumber (rewindow s.dev.wlen n)

def execWlenApply (s : State) : Out := .next s.applyWlen

/-- No link of a stream can meet the bound now: 2 × ERR is above WLEN, or no port reaches the node (R331, R332). -/
def State.unbounded (s : State) (node : Nat) : Bool := s.dev.wlen < 2 * s.dev.errNow || s.cutOff node

/-- 2 × ERR is above WLEN: every stream misses the bound (R331). A stream that is under acknowledgement ordering already misses
it as long as none of its links can meet it, so that its whole window comes after (R150). -/
def State.errBound (s : State) : State :=
  let s := if s.dev.sync ≠ 2 ∧ s.dev.wlen < 2 * s.dev.errNow then
      (s.dev.streams.filter fun p => !p.2.ack).foldl (fun u p => u.boundLost p.1) s
    else s
  s.updDev fun d => { d with
    streams := d.streams.map fun p => (p.1, if p.2.ack && s.unbounded p.1 then { p.2 with lost := s.window } else p.2) }

/-- What device time brings by itself, as soon as it has come: a staged window length, the loss of synchronisation, and of the
bound, and the end of streams that no port serves (R328, R330 to R332). -/
def State.onTime (s : State) : State := ((((s.applyWlen).holdover).syncLoss).errBound).streamsOver

/-! ### Power and cooling (R339) -/

def State.setThermal (s : State) (st temp : Nat) : State :=
  (s.updDev fun d => { d with thermal := st }).deviceEvent 0x17 st temp

/-- A cap, or a sensor above 95 °C, steps the clocks down: only timing changes. -/
def execThermalThrottle (temp : Nat) (s : State) : Out :=
  .next (if s.dev.thermal = 0 ∧ (95 < temp ∨ s.dev.cap < 1650) then s.setThermal 1 temp else s)

def execThermalNormal (temp : Nat) (s : State) : Out :=
  .next (if s.dev.thermal = 1 ∧ temp ≤ 95 then s.setThermal 0 temp else s)

/-- Every placed team is asked to halt and to be saved. -/
def State.stopTeams (s : State) (p : Team → Bool) : State :=
  (s.teams.filter fun t => t.2.held && p t.2).foldl (fun u t =>
    u.updTeam t.1 fun x => { x with haltReq := x.st != .halted, park := true }) s

/-- At 110 °C every team is halted and saved; when none holds its slots the dies power down. -/
def State.powerDown (s : State) : State :=
  if s.dev.thermal = 2 && !(s.teams.any fun t => t.2.held) then s.updDev fun d => { d with off := true } else s

def execThermalShutdown (temp : Nat) (s : State) : Out :=
  .next (if temp < 110 ∨ s.dev.thermal = 2 then s else ((s.setThermal 2 temp).stopTeams fun _ => true).powerDown)

/-- The host sets a power cap. -/
def execPowerCapSet (watts : Nat) (s : State) : Out :=
  .next (if 900 ≤ watts ∧ watts ≤ 1650 then s.updDev fun d => { d with cap := watts } else s)

/-! ### Reset of one die (R333, R334) -/

def State.dieState (s : State) (die st : Nat) : State := s.deviceEvent 0x10 (256 * die + st) 0

/-- Cores and clusters of a die. -/
def dieCores (die : Nat) : List Nat := (List.range 64).map fun i => 64 * die + i
def dieClusters (die : Nat) : List Nat := (List.range 8).map fun i => 8 * die + i

/-- Requests that wait at an engine are made again, and go to the engine that stands in for it. -/
def State.moveRequests (s : State) (c : Nat) : State :=
  let e := s.engine c
  (e.reqs ++ e.wait).foldl (fun u r => u.call r) (s.setEngine c { e with reqs := [], wait := [] })

/-- Step 1: teams halt and are saved, queues leave the die's slots, and later requests go elsewhere. -/
def State.quiesce (s : State) (die : Nat) : State :=
  let s := (s.updDev fun d => { d with dies := mset die 1 d.dies }).dieState die 1
  let s := s.stopTeams fun t => dieOf t.core == die
  let s := (s.queues.filter fun p => (p.2.resident.map Prod.fst) == some die).foldl (fun u p => u.makeOut p.1) s
  (dieClusters die).foldl (fun u c => u.moveRequests c) s

/-- Every word of a core's L1 goes: registered ones are completed and written back to their homes. -/
def State.emptyL1 (s : State) (core : Nat) : State :=
  let s := s.drainCore core
  (s.l1Words core).foldl (fun u p =>
    if p.2.st = .o then ((u.delOwner p.1).setSlice p.1 p.2.val).dropL1 core p.1 else u.dropL1 core p.1) s

/-- The words homed on a die: registrations under way are granted, owners are revoked with their data, copies are
dropped, and the slices' words go to the stacks. -/
def State.emptyHomes (s : State) (die : Nat) : State :=
  let here := fun a => (s.diesOf a).contains die
  let s := (s.caches.l1.filter fun p => p.2.st == .p && here (p.1 % 2 ^ 64)).foldl
    (fun u p => u.grant (p.1 / 2 ^ 64) (p.1 % 2 ^ 64)) s
  let s := (s.caches.owner.filter fun p => here p.1).foldl (fun u p => u.revoke p.1) s
  let s := { s with caches := { s.caches with l1 := s.caches.l1.filter fun p => !here (p.1 % 2 ^ 64) } }
  (s.caches.l2.filter fun p => here p.1).foldl (fun u p => u.writeBack p.1) s

/-- The die's logic starts again: cluster TLBs, miss slots, the slices with the lines pinned there, and accumulators, which are
fresh with the null tag (R343); its ports are down. -/
def State.clearDie (s : State) (die : Nat) : State :=
  let s := s.portsDown die
  { s with
    accs := s.accs.filter fun p => p.1 / 2048 != die,
    caches := { s.caches with
      tlb := s.caches.tlb.filter fun p => dieOfCluster p.1 != die,
      pinned := s.caches.pinned.filter fun p => s.sliceOf p.1 / 96 != die,
      miss := s.caches.miss.filter fun p => p.1 / 2 ^ 64 / 64 != die } }

/-- What saved teams still hold on a die goes to their frames: accumulators, rows, tiles and pages. -/
def State.spillDie (s : State) (die : Nat) : State :=
  let s := (dieCores die).foldl (fun u core => (List.range 8).foldl (fun v p => v.spill core p) u) s
  let ts := s.teams.filter fun t => !t.2.held && dieOf t.2.core == die
  let s := ts.foldl (fun u t => (u.groupsOf t.1).foldl State.leaveAll u) s
  let s := s.teams.foldl (fun u t => (List.range t.2.pages.length).foldl (fun v i =>
    if (t.2.pages[i]?.map fun x => dieOf x.core) == some die then v.spillPage t.1 i else v) u) s
  (ts.map Prod.fst).foldl State.saveHeader s

/-- The contents of the die's cores can go to the frames of their teams: none of those lies on a stack that is fenced already (log
entry 81). -/
def State.framesUp (s : State) (die : Nat) : Bool :=
  s.teams.all fun t => s.frameUp t.1 || dieOf t.2.core != die && !(t.2.pages.any fun x => dieOf x.core == die)

/-- Steps 2 to 4, once nothing of the die runs. -/
def State.fenceDie (s : State) (die : Nat) : State :=
  if mget 0 s.dev.dies die = 1 && !(s.teams.any fun t => t.2.held && dieOf t.2.core == die) &&
      s.framesUp die && (dieClusters die).all fun c => (s.engine c).run.isNone then
    let s := s.spillDie die
    let s := ((dieCores die).foldl (fun u c => u.emptyL1 c) s).emptyHomes die
    ((s.clearDie die).updDev fun d => { d with dies := mset die 2 d.dies }).dieState die 2
  else s

/-- DIE_RESET: quiesce begins, and the die is fenced and reset when it has gone quiet. -/
def execDieReset (die : Nat) (s : State) : Out :=
  .next (s.command fun s =>
    if 4 ≤ die then s.answerCmd 3
    else if mget 0 s.dev.dies die ≠ 0 then s.answerCmd 2
    else ((s.quiesce die).fenceDie die).answerCmd 0)

/-- What Grenlar could not write to a die's stacks while it was fenced follows: held events, notify lines that were to be copied,
and the device fields of the others (log entry 81). -/
def State.catchUp (s : State) : State :=
  s.queues.foldl (fun u p =>
    let u := match mfind p.1 u.queues with
      | some q => if q.lineOwed then (u.setQueue p.1 { q with lineOwed := false }).copyLine { q with lineOwed := false } else u.mirror q
      | none => u
    u.flushHeld p.1 16) s

/-- The requests of a cluster's own that the engine of cluster (c + 8) mod 32 has not begun come back to its engine (R307,
R333). -/
def State.bringBack (s : State) (c : Nat) : State :=
  let o := (c + 8) % 32
  let e := s.engine o
  let own := fun (r : PReq) => engineOf s r == c
  let rest := (e.reqs ++ e.wait).filter fun r => !own r
  let s := s.setEngine o { e with reqs := rest.take 64, wait := rest.drop 64 }
  ((e.reqs ++ e.wait).filter own).foldl (fun u r => u.call r) s

/-- Step 5: the die is up again, its slots are free, and its engines serve its clusters. -/
def execDieReadmit (die : Nat) (s : State) : Out :=
  .next (if mget 0 s.dev.dies die = 2 then
      let s := (s.updDev fun d =>
        { d with dies := mdel die d.dies, fenced := d.fenced.filter fun p => dieOf p.1 != die }).catchUp.slotFreed die
      ((dieClusters die).foldl State.bringBack s).dieState die 3
    else s)

/-- The words registered to some cores become lost, and the cores' L1s are gone (R132). -/
def State.loseCores (s : State) (cores : List Nat) : State :=
  let s := (s.caches.owner.filter fun p => cores.contains p.2).foldl (fun u p => u.loseWord p.1) s
  { s with caches := { s.caches with l1 := s.caches.l1.filter fun p => !cores.contains (p.1 / 2 ^ 64) } }

/-- The teams of some cores are gone with them: each ends with a FAULT event of DATA_LOST (log entry 23). -/
def State.loseTeams (s : State) (cores : List Nat) : State :=
  (s.teams.filter fun t => t.2.held && cores.contains t.2.core).foldl (fun u t => u.faultTeam t.1 .dataLost 0 0) s

/-- A die is reset without write-back, or one core is fenced off (R132, R334). -/
def execDieResetWithoutQuiesce (die : Nat) (core : Option Nat) (s : State) : Out :=
  .next (match core with
    | some c =>
      if c < 256 then
        ((s.loseCores [c]).loseTeams [c]).updDev fun d => { d with fenced := mset c true d.fenced }
      else s
    | none =>
      if 4 ≤ die ∨ mget 0 s.dev.dies die = 2 then s
      else
        let s := (s.queues.filter fun p => (p.2.resident.map Prod.fst) == some die).foldl (fun u p => u.makeOut p.1) s
        let s := s.updDev fun d => { d with dies := mset die 1 d.dies }
        let s := (dieClusters die).foldl (fun u c => (u.updRun c fun r => { r with status := .failed }).conclude c) s
        let s := (dieClusters die).foldl (fun u c => u.moveRequests c) s
        let s := (((s.loseCores (dieCores die)).loseTeams (dieCores die)).emptyHomes die).clearDie die
        (s.updDev fun d => { d with dies := mset die 2 d.dies }).dieState die 2)

/-! ### Firmware and attestation (R335, R336) -/

/-- The whole contents of a firmware image, which its signatures cover: its security version, its granule table, and the rest
(R287, R335; the manual gives no layout: DESIGN CHOICE, log entry 12). -/
def fwContents (f : Firmware) : List Byte :=
  leBytes 8 f.svn ++ leBytes 8 f.granules.length ++ (f.granules.flatMap fun p => leBytes 8 p.1 ++ leBytes 8 p.2) ++ f.body

/-- The first check that an image fails: 1 Ed25519, 2 ML-DSA-65, 3 rollback; 0 none. -/
def firmwareFault (svnMin : Nat) (f : Firmware) : Nat :=
  if !Config.ed25519Verifies (fwContents f) f.sigE then 1
  else if !Config.mldsaVerifies (fwContents f) f.sigM then 2
  else if f.svn < svnMin then 3 else 0

/-- FW_STAGE: a good image waits for the next device reset; FIRMWARE tells how it went. Log entry 58. -/
def execFwStage (fw : Firmware) (s : State) : Out :=
  .next (
    let e := firmwareFault s.dev.svnMin fw
    if e = 0 then ((s.updDev fun d => { d with staged := some fw }).deviceEvent 0x18 0 0).answerCmd 0
    else (s.deviceEvent 0x18 1 e).answerCmd 1)

/-- The capacity report (R337; log entry 26): cores, rows of each lane set, slices, bank groups of each stack, and modules
of each boundary that serve, as 32-bit numbers. -/
def State.capacity (s : State) : List Byte :=
  let ns := [256 - s.sparedIn 1 0 256] ++
    ((List.range 4096).map fun i => s.laneRows (i / 16) (i % 16)) ++ [384 - s.sparedIn 3 0 384] ++
    ((List.range 8).map fun i => 64 - s.sparedIn 4 (64 * i) 64) ++
    ((List.range 4).map fun i => 48 - s.sparedIn 5 (48 * i) 48)
  ns.flatMap fun n => leBytes 4 n

/-- The granule table, a byte for each granule (R287; log entry 26). -/
def State.granuleReport (s : State) : List Byte := (List.range 512).map fun g => BitVec.ofNat 8 (s.gmode g)

/-- ENUMERATE assigns the node number; its report ends in the granule table. -/
def execEnumerate (node : Nat) (s : State) : Out :=
  .next (if 0xFFFF ≤ node then s.answerCmd 3
    else (s.updDev fun d => { d with node := BitVec.ofNat 16 node }).answerCmd 0
      (leBytes 8 Config.partNumber.toNat ++ leBytes 16 Config.capMask.toNat ++ s.capacity ++ s.granuleReport))

/-- ATTEST signs a report on the running image with both identity keys, whose certificates the device holds
(`Config.identityCert`). -/
def execAttest (nonce : List Byte) (s : State) : Out :=
  .next (if 32 < nonce.length then s.answerCmd 1
    else
      let r := nonce ++ leBytes 48 (Config.sha384 (fwContents s.dev.fw)).toNat ++ leBytes 4 s.dev.fw.svn ++
        leBytes 16 Config.capMask.toNat ++ s.capacity
      s.answerCmd 0 (r ++ Config.identitySign 0 r ++ Config.identitySign 1 r))

/-- The mode that a firmware's granule table gives a granule. -/
def fwMode (f : Firmware) (g : Nat) : Nat := ((f.granules.find? fun p => p.1 == g).map Prod.snd).getD (gmodeDefault g)

/-- Firmware refuses a granule table in which the eight granules of one segment are not all GMODE 0 or all other modes
(R287). -/
def granulesOk (f : Firmware) : Bool :=
  (f.granules.all fun p => p.1 < 512 && p.2 ≤ 3) &&
    (List.range 64).all fun i =>
      let ms := (List.range 8).map fun st => fwMode f (64 * st + i)
      (ms.all fun m => m == 0) || ms.all fun m => m != 0

/-- The granule table in force under a firmware: its own, or the default where it refuses that (R287). -/
def granuleTable (f : Firmware) : Map Nat :=
  if f.granules.isEmpty || !granulesOk f then []
  else (List.range 512).filterMap fun g => if fwMode f g = gmodeDefault g then none else some (g, fwMode f g)

/-- Device reset (R287, R305, R327, R335, R343): the state of reset, in which memory, the spare units, the clock and the
firmware remain (log entry 25); a staged image is put in place, which fixes the granule table, and one that fails leaves the
device in recovery. -/
def execDeviceReset (s : State) : Out :=
  let fw := s.dev.staged.getD s.dev.fw
  .next { State.reset with
    agenda := s.agenda, tick := s.tick, nextId := s.nextId, mem := s.mem, scrubs := s.scrubs,
    caches := { bad := s.caches.bad.filter fun p => p.1 < 2 ^ 53 },
    dev := { State.reset.dev with
      time := s.dev.time, spared := s.dev.spared, rowsOut := s.dev.rowsOut, replace := s.dev.replace, fw := fw,
      svnMin := s.dev.svnMin, granules := granuleTable fw,
      frames := s.dev.frames, recovery := firmwareFault s.dev.svnMin fw ≠ 0 } }

/-! ### Tables that the host writes (R256, R326 to R329) -/

def execDeviceQueue (qid : Nat) (s : State) : Out :=
  .next (s.command fun s =>
    if (mfind qid s.queues).isSome then (s.updDev fun d => { d with devq := some qid }).answerCmd 0 else s.answerCmd 6)

def execAperture (i : Nat) (ap : Aperture) (s : State) : Out :=
  .next (s.command fun s =>
    if 8 ≤ i ∨ 0xFFFE < ap.node ∨ ap.base % 65536 ≠ 0 ∨ 2 ^ 52 ≤ ap.base ∨ ap.size % 65536 ≠ 0 ∨ ap.size = 0 ∨
        2 ^ 48 < ap.size then s.answerCmd 3
    else (s.updDev fun d => { d with apertures := mset i ap d.apertures }).answerCmd 0)

def execImportWrite (i : Nat) (entry : ImportEntry) (s : State) : Out :=
  .next (s.command fun s =>
    if 64 ≤ i ∨ 0xFFFF < entry.node ∨ 2 < entry.home ∨ 1023 < entry.loc ∨ entry.home ≠ 2 ∧ entry.loc ≠ 0 ∨
        11 < bits entry.loc 3 0 + bits entry.loc 7 4 ∨
        2 ^ 52 < entry.base + entry.size then s.answerCmd 3
    else (s.updDev fun d => { d with imports := mset i entry d.imports }).answerCmd 0)

/-- COLSET defines a collective set that no operation uses; its members' COLs count from the first. -/
def execColset (set : Nat) (cs : CollectiveSet) (s : State) : Out :=
  .next (s.command fun s =>
    if 4095 < set ∨ cs.nodes.length < 2 ∨ 256 < cs.nodes.length ∨ cs.nodes.any fun n => 0xFFFF < n then s.answerCmd 3
    else if s.groups.any fun p => p.2.ops.any fun o => match o.kind with
        | .engine e => e.code == 3 && e.arg 4 == set
        | _ => false then s.answerCmd 2
    else (s.updDev fun d => { d with
        colsets := mset set cs d.colsets, colCount := d.colCount.filter fun p => p.1 / 256 != set,
        colLate := mdel set d.colLate }).answerCmd 0)

/-! ### Scrub (R296, R338) -/

/-- A frame lies in a stretch. -/
def inFrame (pa len a : Nat) : Bool := pa ≤ a && a < pa + len

/-- The scrub table of a unit: its scratchpad's, or its stack's (log entry 27); and the entries it has. -/
def State.scrubTable (s : State) (pa : Nat) : Nat × Nat :=
  if scratchBase ≤ pa then (8 + (pa - scratchBase) / 2 ^ 22, 64) else (s.stackOf pa, 1024)

/-- Entries for units, each the lowest free one of its table; `used`: the units that have one. None where a table is full. -/
def State.scrubEntries (s : State) (used : List (Nat × Nat)) : List Nat → Option (List (Nat × Nat))
  | [] => some []
  | a :: as =>
    let t := s.scrubTable a
    let taken := (used.filter fun u => (s.scrubTable u.2).1 == t.1).map Prod.fst
    match (List.range t.2).find? fun n => !taken.contains n with
    | some n => (s.scrubEntries ((n, a) :: used) as).map fun us => (n, a) :: us
    | none => none

/-- A frame of 64-KiB units that exists. -/
def scrubFrame (pa units : Nat) : Bool :=
  pa % 65536 == 0 && 1 ≤ units &&
    (isHbm (pa + units * 65536 - 1) ||
      scratchBase ≤ pa && (pa - scratchBase) / 2 ^ 22 < 256 && (pa - scratchBase) % 2 ^ 22 + units * 65536 ≤ 2 ^ 22)

/-- The registrations, lines, slice words, and marks of lost and of uncorrectable words of a frame go, without write-back. -/
def State.dropFrame (s : State) (pa len : Nat) : State :=
  let out := fun a => !inFrame pa len (paOf a)
  { s with
    caches := { s.caches with
      l1 := s.caches.l1.filter fun p => out (p.1 % 2 ^ 64),
      owner := s.caches.owner.filter fun p => out p.1,
      lost := s.caches.lost.filter fun p => out p.1,
      bad := s.caches.bad.filter fun p => out p.1,
      l2 := s.caches.l2.filter fun p => out p.1,
      pinned := s.caches.pinned.filter fun p => out p.1 } }

/-- Units whose last pending bit has cleared give their entries back; a frame with none left sends SCRUB_DONE (R296,
R338). -/
def State.scrubDone (s : State) : State :=
  let fs := s.dev.frames.map fun f => (f.1, f.2.filter fun u => s.scrubs.any fun p => inFrame u.2 65536 p.1)
  (fs.filter fun f => f.2.isEmpty).foldl (fun u f => u.deviceEvent 0x19 f.1 0)
    (s.updDev fun d => { d with frames := fs.filter fun f => !f.2.isEmpty })

/-- SCRUB. -/
def execScrub (pa units : Nat) (s : State) : Out :=
  .next (s.command fun s =>
    if !scrubFrame pa units then s.answerCmd 3
    else
      let used := s.dev.frames.flatMap Prod.snd
      match s.scrubEntries used ((List.range units).map fun i => pa + 65536 * i) with
      | none => s.answerCmd 2
      | some us =>
        let len := units * 65536
        if used.any fun u => inFrame pa len u.2 then s.answerCmd 2
        else
          let s := s.dropFrame pa len
          (({ s with scrubs := ((List.range (len / 64)).map fun i => pa + 64 * i).foldl (fun m a => mset a true m) s.scrubs
            } : State).updDev fun d => { d with frames := d.frames ++ [((us.headD (0, 0)).1, us)] }).answerCmd 0)

/-- The scrub engine zeroes a sector whose bit is set. -/
def execScrubSector (unit sector : Nat) (s : State) : Out :=
  .next (if sector < 1024 then (s.settle (unit * 65536 + 64 * sector)).scrubDone else s)

/-! ### What follows a step -/

/-- What the machine goes on to do by itself after a step: messages reach their ports, records whose release is complete end,
teams halted in place whose tenant runs go on, unloads that waited take effect, scrubs are reported, dies that have gone quiet
are fenced, full caches make room, and a device that is shutting down powers down. -/
def State.after (s : State) : State :=
  let s := if s.dev.endpoints.any fun p => !p.2.buf.isEmpty then s.deliverAll else s
  let s := s.finishRecords.resumeDue
  let s := if s.dev.images.any fun p => p.2.unload then s.reapImages else s
  let s := if s.dev.frames.isEmpty then s else s.scrubDone
  let s := (s.dev.dies.filter fun p => p.2 == 1).foldl (fun u p => u.fenceDie p.1) s
  s.trim.powerDown

/-- A management command of a code that is none of R328's is refused with reason 1. -/
def State.otherCommand (s : State) (code : Nat) : State :=
  if 1 ≤ code ∧ code ≤ 0x0B then s else s.command fun s => s.answerCmd 1

/-! ### What the runtime and the repair logic settle by themselves (R23, R52, R298, R337) -/

/-- A unit fails its repair and is spared out, or some rows of a row set are (R23, R337): 1 core, 2 row set, 3 slice, 4 bank
group. -/
def State.spareTurn (s : State) (kind unit rows : Nat) : State :=
  match kind with
  | 1 => if unit < 256 ∧ !s.sparedUnit 1 unit then s.spareOut 1 unit else s
  | 2 =>
    if unit < 4096 ∧ 0 < rows ∧ mget 0 s.dev.rowsOut unit + rows ≤ 384 then
      (s.updDev fun d => { d with rowsOut := mset unit (mget 0 d.rowsOut unit + rows) d.rowsOut }).spareOut 2 unit
    else s
  | 3 => if unit < 384 ∧ !s.sparedUnit 3 unit then s.spareOut 3 unit else s
  | 4 => if unit < 512 ∧ !s.sparedUnit 4 unit then s.spareOut 4 unit else s
  | _ => s

/-- The runtime sets a PARTID's private reserve aside, before any group of the partition has a window in it (R52; log entry
63). -/
def State.setReserve (s : State) (partid base bytes : Nat) : State :=
  if partid < 256 ∧ isHbm (base + bytes) ∧ !(s.teams.any fun t => t.2.partid == partid && t.2.priv != 0) then
    s.updDev fun d => { d with reserve := mset partid (base, bytes) d.reserve }
  else s

/-- The system names the root table of a PARTID's device addresses (R298; log entry 14). -/
def State.setRoot (s : State) (partid root : Nat) : State :=
  if partid < 256 ∧ root % 8192 = 0 ∧ isHbm root then s.updDev fun d => { d with roots := mset partid root d.roots } else s

end Sys2Proof.Machine
end

