-- ==== Sys2Proof/Machine/Sfu.lean ====
section
/-!
DEFINITION. The special-function unit (R197 to R201). A result that the manual bounds but does not fix is the free
value `Config.sfuResult` of operation and input wherever that value meets the bound, and the nearest value otherwise
(log entry 9). RCP, RSQ and SQRT are compared exactly; of EX2, LG2, SIN, COS and TANH the exact value is enclosed between
two numbers so close that no FP32 result lies at the bound between them, and a result must keep the bound from both.
-/

namespace Sys2Proof.Machine

/-! ### Dyadic numbers -/

/-- `m × 2^e`. -/
structure Dy where
  m : Int
  e : Int
  deriving DecidableEq, Repr

/-- The integer that a dyadic number is of units `2^g`, for `g ≤ e`. -/
def Dy.at (x : Dy) (g : Int) : Int := x.m * 2 ^ (x.e - g).toNat

def Dy.add (x y : Dy) : Dy := let g := min x.e y.e; ⟨x.at g + y.at g, g⟩
def Dy.neg (x : Dy) : Dy := ⟨-x.m, x.e⟩
def Dy.sub (x y : Dy) : Dy := x.add y.neg
def Dy.mul (x y : Dy) : Dy := ⟨x.m * y.m, x.e + y.e⟩
def Dy.le (x y : Dy) : Bool := let g := min x.e y.e; x.at g ≤ y.at g
def Dy.abs (x : Dy) : Dy := ⟨x.m.natAbs, x.e⟩
def Dy.pow2 (e : Int) : Dy := ⟨1, e⟩

/-- A finite value as a dyadic number. -/
def Val.dy : Val → Option Dy
  | .fin neg m e => some ⟨signed neg m, e⟩
  | .zero _ => some ⟨0, 0⟩
  | _ => none

/-- A dyadic number as a value; zero takes the sign given. -/
def Dy.val (x : Dy) (zneg : Bool) : Val := if x.m = 0 then .zero zneg else .fin (x.m < 0) x.m.natAbs x.e

/-- The result that a pattern stands for in a comparison with a bound: an infinity stands for 2^128 (R199). -/
def resultDy (w : Nat) : Option Dy :=
  match decodeVal fp32 w with
  | .nan => none
  | .inf neg => some ⟨if neg then -1 else 1, 128⟩
  | x => x.dy

/-- Ulp of FP32 at a positive dyadic number (R118, R199). -/
def ulpExp (y : Dy) : Int := if y.m = 0 then -149 else gridExp 24 (-126) y.m.natAbs 1 y.e

/-- The free result where it meets a bound, else the nearest value. -/
def sfuPick (op : Nat) (x : Word) (ok : Dy → Bool) (nearest : Nat) : Nat :=
  match resultDy (Config.sfuResult op x).toNat with
  | some r => if ok r then (Config.sfuResult op x).toNat else nearest
  | none => nearest

/-- A result within `bound` of a number. -/
def within (y bound r : Dy) : Bool := ((r.sub y).abs).le bound

/-- A result within `bound` of every number from `lo` to `hi`. -/
def between (lo hi bound r : Dy) : Bool := (r.sub lo).le bound && (hi.sub r).le bound

/-- The same for an approximation with an error of at most 2^err. -/
def around (y : Dy) (err : Int) (bound r : Dy) : Bool := between (y.sub (Dy.pow2 err)) (y.add (Dy.pow2 err)) bound r

/-! ### Fixed-point series -/

/-- Fraction bits of the fixed-point approximations. -/
def fx : Nat := 192

/-- ln 2 × 2^192 and 2π × 2^400, rounded to the nearest integer. -/
def ln2Fx : Nat := 4350955369971217654477563090224794165364344896676135745070
def twoPi400 : Nat :=
  16224754493461942477724542702601789038322303200358530407182382075230461810747980997491046721853633630855133559454655152472

/-- Σ t_k with t_0 = one and t_(k+1) = t_k × u / (k + 1): e^u in fixed point. -/
def expSeries : Nat → Nat → Int → Int → Int → Int
  | 0, _, _, _, acc => acc
  | n + 1, k, u, t, acc =>
    let t' := t * u / 2 ^ fx / (k + 1)
    expSeries n (k + 1) u t' (acc + t')

/-- e^u in fixed point for |u| ≤ 1. -/
def expFx (u : Int) : Int := expSeries 48 0 u (2 ^ fx) (2 ^ fx)

/-- Σ t^(2k+1) / (2k+1): atanh t in fixed point. -/
def atanhSeries : Nat → Nat → Int → Int → Int → Int
  | 0, _, _, _, acc => acc
  | n + 1, k, t2, p, acc =>
    let p' := p * t2 / 2 ^ fx
    atanhSeries n (k + 1) t2 p' (acc + p' / (2 * (k + 1) + 1))

def atanhFx (t : Int) : Int := atanhSeries 64 0 (t * t / 2 ^ fx) t t

/-- Alternating series of sine (from t_1 = u) and cosine (from t_0 = one). -/
def trigSeries : Nat → Nat → Int → Int → Int → Int
  | 0, _, _, _, acc => acc
  | n + 1, k, u2, t, acc =>
    let t' := -(t * u2 / 2 ^ fx / ((k + 1) * (k + 2)))
    trigSeries n (k + 2) u2 t' (acc + t')

def sinFx (u : Int) : Int := trigSeries 40 1 (u * u / 2 ^ fx) u u
def cosFx (u : Int) : Int := trigSeries 40 0 (u * u / 2 ^ fx) (2 ^ fx) (2 ^ fx)

/-- A dyadic number in fixed point. -/
def Dy.toFx (x : Dy) : Int :=
  let k := x.e + fx
  if 0 ≤ k then x.m * 2 ^ k.toNat else x.m / 2 ^ (-k).toNat

def ofFx (x : Int) : Dy := ⟨x, -(fx : Int)⟩

/-- Integer square root, by bits from `2^n` down. -/
def isqrtFrom : Nat → Nat → Nat → Nat
  | 0, _, r => r
  | n + 1, x, r => isqrtFrom n x (if (r + 2 ^ n) * (r + 2 ^ n) ≤ x then r + 2 ^ n else r)

/-! ### The functions -/

/-- The nearest FP32 pattern of a dyadic approximation. -/
def nearest32 (y : Dy) (zneg : Bool) : Nat := convert fp32 false (y.val zneg)

/-- 1/x for finite nonzero x. From 1 to 12, where the sums of R276 lie, it is RoundEven(1/x), which that rule has the
kernel's RCP give (DEDUCED, log entry 9). -/
def rcpFin (x : Word) (neg : Bool) (m : Nat) (e : Int) : Nat :=
  let near := (convertFin fp32 .rn false neg 1 m (-e)).1
  -- the exponent of the unit in the last place of 1/x
  let g := gridExp 24 (-126) 1 m (-e)
  let d : Dy := ⟨signed neg m, e⟩
  if m = 2 ^ Nat.log2 m ∧ -126 ≤ -(e + (Nat.log2 m : Int)) ∧ -(e + (Nat.log2 m : Int)) ≤ 127 then near
  else if (⟨1, 0⟩ : Dy).le d && d.le ⟨12, 0⟩ then near
  else sfuPick 0x58 x (fun r => within ⟨1, 0⟩ ((Dy.pow2 g).mul d.abs) (r.mul d)) near

/-- 1/√x for finite positive x: y with y² × x = 1. -/
def rsqFin (x : Word) (m : Nat) (e : Int) : Nat :=
  -- x = m' × 2^(2h); 1/√m' in fixed point
  let odd := e % 2 ≠ 0
  let m' := if odd then 2 * m else m
  let h := (if odd then e - 1 else e) / 2
  let y := isqrtFrom 260 (2 ^ 400 / m') 0
  let yd : Dy := ⟨y, -200 - h⟩
  let near := nearest32 yd false
  let b := (Dy.pow2 (ulpExp yd + 1))
  let xd : Dy := ⟨m, e⟩
  if m' = 2 ^ Nat.log2 m' ∧ Nat.log2 m' % 2 = 0 then near
  else sfuPick 0x59 x (fun r =>
    let lo := r.sub b; let hi := r.add b
    (lo.m ≤ 0 || ((lo.mul lo).mul xd).le ⟨1, 0⟩) && 0 < hi.m && (⟨1, 0⟩ : Dy).le ((hi.mul hi).mul xd)) near

/-- √x correctly rounded, for finite positive x: an integer root with a sticky bit below it. -/
def sqrtFin (m : Nat) (e : Int) : Nat :=
  let odd := e % 2 ≠ 0
  let m' := (if odd then 2 * m else m) * 2 ^ 64
  let h := (if odd then e - 1 else e) / 2 - 32
  let r := isqrtFrom 50 m' 0
  if r * r = m' then (convertFin fp32 .rn false false r 1 h).1
  else (convertFin fp32 .rn false false (2 * r + 1) 1 (h - 1)).1

/-- 2^x for finite nonzero x: exact at integers; beyond the range the overflow and underflow of R199. -/
def ex2Fin (x : Word) (neg : Bool) (m : Nat) (e : Int) : Nat :=
  let d : Dy := ⟨signed neg m, e⟩
  if (⟨128, 0⟩ : Dy).le d then fp32.infBits
  else if d.le ⟨-151, 0⟩ then (if 0 ≤ e ∨ d.m % 2 ^ (-e).toNat = 0 then 0 else
    sfuPick 0x5B x (between ⟨0, 0⟩ (Dy.pow2 (-151)) (Dy.pow2 (-149))) 0)
  else
    let fxd := d.toFx
    let n := fxd / 2 ^ fx
    let fr := fxd % 2 ^ fx
    if 0 ≤ e ∨ d.m % 2 ^ (-e).toNat = 0 then
      (if n ≤ -150 then 0 else (convertFin fp32 .rn false false 1 1 n).1)
    else
      let y : Dy := ⟨expFx (fr * ln2Fx / 2 ^ fx), n - fx⟩
      sfuPick 0x5B x (around y (n - 180) (Dy.pow2 (ulpExp y))) (nearest32 y false)

/-- log2 x for finite positive x: exact at powers of two. -/
def lg2Fin (x : Word) (m : Nat) (e : Int) : Nat :=
  let k := Nat.log2 m
  let n := e + k
  if m = 2 ^ k then convert fp32 false (intVal n false)
  else
    -- m / 2^k = (1 + t) / (1 - t)
    let t := ((m - 2 ^ k : Nat) * 2 ^ fx / (m + 2 ^ k : Nat) : Int)
    let y := ofFx (n * 2 ^ fx + 2 * atanhFx t * 2 ^ fx / ln2Fx)
    let d : Dy := ⟨m, e⟩
    let b := if (⟨1, -1⟩ : Dy).le d && d.le ⟨2, 0⟩ then Dy.pow2 (-22) else Dy.pow2 (ulpExp y + 1)
    sfuPick 0x5C x (around y (-180) b) (nearest32 y false)

/-- x − 2πk with k the nearest integer to x / 2π (R199), 2π held to so many fraction bits that the exact value's place is
fixed: R199 bounds the error, that of its own reduction with 160 bits included, from the exact value at x. -/
def reduce2Pi (d : Dy) : Dy :=
  let tp : Dy := ⟨twoPi400, -400⟩
  let g := min d.e (-400)
  let a := d.at g; let b := tp.at g
  let k := (2 * a + b) / (2 * b)
  let k := if (2 * a + b) % (2 * b) = 0 ∧ k % 2 ≠ 0 then k - 1 else k
  ⟨a - k * b, g⟩

/-- sin x and cos x for finite nonzero x. -/
def trigFin (op : Nat) (x : Word) (neg : Bool) (m : Nat) (e : Int) (f : Int → Int) : Nat :=
  let d : Dy := ⟨signed neg m, e⟩
  let small := d.abs.le ⟨twoPi400, -401⟩
  let r := if small then d else reduce2Pi d
  let y := ofFx (f r.toFx)
  let b := if small then Dy.pow2 (-21) else (Dy.pow2 (-21)).add (Dy.pow2 (-30))
  sfuPick op x
    (if op = 0x5E && r.abs.le (Dy.pow2 (-40)) then
      -- 1 − r²/2 ≤ cos r ≤ 1 − r²/2 + r⁴/16
      let q := r.mul r
      let lo := (⟨1, 0⟩ : Dy).sub ⟨q.m, q.e - 1⟩
      between lo (lo.add ⟨q.m * q.m, 2 * q.e - 4⟩) b
     else around y (-180) b) (nearest32 y neg)

/-- tanh x for finite nonzero x. -/
def tanhFin (x : Word) (neg : Bool) (m : Nat) (e : Int) : Nat :=
  let d : Dy := ⟨m, e⟩
  if (⟨10, 0⟩ : Dy).le d then fp32.sign neg + 0x3F800000
  else
    let small := d.le ⟨1, -12⟩
    let c := (d.mul d).mul d
    -- x − x³/3 from below
    let cube := d.sub ⟨c.m * 2 ^ 64 / 3 + 1, c.e - 64⟩
    let y : Dy :=
      if small then cube
      else
        let u := expFx ((d.toFx * 2) / 32)
        let sq := fun (z : Int) => z * z / 2 ^ fx
        let ex := sq (sq (sq (sq (sq u))))
        ofFx ((ex - 2 ^ fx) * 2 ^ fx / (ex + 2 ^ fx))
    let b := Dy.pow2 (ulpExp y + 1)
    -- x − x³/3 ≤ tanh x ≤ x − x³/3 + x⁵/4
    let hi := if small then let p := (c.mul d).mul d; cube.add ((⟨p.m, p.e - 2⟩ : Dy).add ⟨1, c.e - 64⟩)
      else y.add (Dy.pow2 (-160))
    let lo := if small then cube else y.sub (Dy.pow2 (-160))
    sfuPick 0x5F x (if neg then between hi.neg lo.neg b else between lo hi b) (nearest32 (if neg then y.neg else y) neg)

/-- The result of an SFU operation (R199, R200). -/
def sfuBits (op : Nat) (x : Word) : Nat :=
  let v := decodeVal fp32 x.toNat
  let nan := fp32.nanBits
  let inf := fun n => fp32.sign n + fp32.infBits
  let one := 0x3F800000
  match op with
  | 0x58 => (match v with
    | .nan => nan | .inf n => fp32.sign n | .zero n => inf n | .fin n m e => rcpFin x n m e)
  | 0x59 => (match v with
    | .nan => nan | .inf n => if n then nan else 0 | .zero n => inf n
    | .fin n m e => if n then nan else rsqFin x m e)
  | 0x5A => (match v with
    | .nan => nan | .inf n => if n then nan else inf false | .zero n => fp32.sign n
    | .fin n m e => if n then nan else sqrtFin m e)
  | 0x5B => (match v with
    | .nan => nan | .inf n => if n then 0 else inf false | .zero _ => one | .fin n m e => ex2Fin x n m e)
  | 0x5C => (match v with
    | .nan => nan | .inf n => if n then nan else inf false | .zero _ => inf true
    | .fin n m e => if n then nan else lg2Fin x m e)
  | 0x5D => (match v with
    | .nan => nan | .inf _ => nan | .zero n => fp32.sign n | .fin n m e => trigFin op x n m e sinFx)
  | 0x5E => (match v with
    | .nan => nan | .inf _ => nan | .zero _ => one | .fin n m e => trigFin op x n m e cosFx)
  | _ => (match v with
    | .nan => nan | .inf n => fp32.sign n + one | .zero n => fp32.sign n | .fin n m e => tanhFin x n m e)

/-! ### Issue and landing (R197, R198) -/

/-- Queue an SFU instruction: an entry for each quarter with an executing lane, all of which must be free; D is empty
until they land. -/
def sfuIssue (op : Nat) (f : Fields) (s : State) : State :=
  issue op f (fun _ _ => !isPort f.d.toNat) false true (fun s k ex run =>
    let core := s.coreOf k
    let q := mget [] s.sfu core
    let qs := quartersOf run
    if 32 < q.length + qs.length then .wait s
    else
      let r : Rd := ⟨s.group k, ex, run⟩
      let es := qs.map fun n => ({
        grp := k, d := f.d.toNat, q := n,
        res := (run.filter fun l => quarter l == n).map fun l => (l, ofBits (sfuBits op (r.a f l))) } : SfuEntry)
      let s := popSources s k op f ex
      .done { (s.updGroup k fun g => g.setEmpty f.d.toNat qs true) with sfu := mset core (q ++ es) s.sfu } []) s

def execRcp (f : Fields) (s : State) : Out := .next (sfuIssue 0x58 f s)
def execRsq (f : Fields) (s : State) : Out := .next (sfuIssue 0x59 f s)
def execSqrt (f : Fields) (s : State) : Out := .next (sfuIssue 0x5A f s)
def execEx2 (f : Fields) (s : State) : Out := .next (sfuIssue 0x5B f s)
def execLg2 (f : Fields) (s : State) : Out := .next (sfuIssue 0x5C f s)
def execSin (f : Fields) (s : State) : Out := .next (sfuIssue 0x5D f s)
def execCos (f : Fields) (s : State) : Out := .next (sfuIssue 0x5E f s)
def execTanh (f : Fields) (s : State) : Out := .next (sfuIssue 0x5F f s)

/-- Land an entry's results in its group (R198); those of a group that has ended are discarded (R201). -/
def State.sfuLand (s : State) (e : SfuEntry) : State :=
  match mfind e.grp s.groups with
  | none => s
  | some g => s.setGroup e.grp ((e.res.foldl (fun g p => g.setReg e.d p.1 p.2) g).setEmpty e.d [e.q] false)

/-- The entry may land: its group has met its next instruction, which found D empty (R197), or meets none now. -/
def State.sfuRipe (s : State) (e : SfuEntry) : Bool := !e.fresh || (s.group e.grp).live.isEmpty || !s.runs e.grp

/-- The oldest entry of a core's result queue lands. -/
def execSfuResultLand (core : Nat) (s : State) : Out :=
  .next (match mget [] s.sfu core with
    | [] => s
    | e :: es => if s.sfuRipe e then ({ s with sfu := mput [] s.sfu core es }).sfuLand e else s)

/-- A group meets its next instruction: what it queued before may land from now on (R197). -/
def State.sfuSeen (s : State) (k : Nat) : State :=
  { s with sfu := s.sfu.map fun p => (p.1, p.2.map fun e => if e.grp = k then { e with fresh := false } else e) }

end Sys2Proof.Machine
end

