-- ==== Sys2Proof/Machine/Dispatch.lean ====
section
/-!
DEFINITION. The meaning of every instruction and event: one arm for each constructor, a direct call of its meaning.
-/

namespace Sys2Proof.Machine

def exec (i : Instr) (s : State) : Host.Outcome State Fault Refusal :=
  match i with
  | .nop f => Sys2Proof.Machine.execNop f s
  | .bra f => Sys2Proof.Machine.execBra f s
  | .brc f => Sys2Proof.Machine.execBrc f s
  | .brx f => Sys2Proof.Machine.execBrx f s
  | .call f => Sys2Proof.Machine.execCall f s
  | .ret f => Sys2Proof.Machine.execRet f s
  | .loopb f => Sys2Proof.Machine.execLoopb f s
  | .exit f => Sys2Proof.Machine.execExit f s
  | .yield f => Sys2Proof.Machine.execYield f s
  | .waitc f => Sys2Proof.Machine.execWaitc f s
  | .bar f => Sys2Proof.Machine.execBar f s
  | .barPhaseComplete ctx => Sys2Proof.Machine.execBarPhaseComplete ctx s
  | .gbarSync f => Sys2Proof.Machine.execGbarSync f s
  | .gbarArrive f => Sys2Proof.Machine.execGbarArrive f s
  | .gbarWait f => Sys2Proof.Machine.execGbarWait f s
  | .gbarPhaseComplete gang => Sys2Proof.Machine.execGbarPhaseComplete gang s
  | .twait f => Sys2Proof.Machine.execTwait f s
  | .twaitExpire g => Sys2Proof.Machine.execTwaitExpire g s
  | .movc f => Sys2Proof.Machine.execMovc f s
  | .movcTimelo f => Sys2Proof.Machine.execMovcTimelo f s
  | .movtc f => Sys2Proof.Machine.execMovtc f s
  | .movtcQmap f => Sys2Proof.Machine.execMovtcQmap f s
  | .movtcParkmask f => Sys2Proof.Machine.execMovtcParkmask f s
  | .movtcPart f => Sys2Proof.Machine.execMovtcPart f s
  | .movtcAccst f => Sys2Proof.Machine.execMovtcAccst f s
  | .movtcTc f => Sys2Proof.Machine.execMovtcTc f s
  | .trap f => Sys2Proof.Machine.execTrap f s
  | .tret f => Sys2Proof.Machine.execTret f s
  | .iadd f => Sys2Proof.Machine.execIadd f s
  | .iaddImm f => Sys2Proof.Machine.execIaddImm f s
  | .isub f => Sys2Proof.Machine.execIsub f s
  | .isubImm f => Sys2Proof.Machine.execIsubImm f s
  | .imul f => Sys2Proof.Machine.execImul f s
  | .imulImm f => Sys2Proof.Machine.execImulImm f s
  | .imulh f => Sys2Proof.Machine.execImulh f s
  | .imulhImm f => Sys2Proof.Machine.execImulhImm f s
  | .imin f => Sys2Proof.Machine.execImin f s
  | .iminImm f => Sys2Proof.Machine.execIminImm f s
  | .imax f => Sys2Proof.Machine.execImax f s
  | .imaxImm f => Sys2Proof.Machine.execImaxImm f s
  | .and f => Sys2Proof.Machine.execAnd f s
  | .andImm f => Sys2Proof.Machine.execAndImm f s
  | .or f => Sys2Proof.Machine.execOr f s
  | .orImm f => Sys2Proof.Machine.execOrImm f s
  | .xor f => Sys2Proof.Machine.execXor f s
  | .xorImm f => Sys2Proof.Machine.execXorImm f s
  | .andn f => Sys2Proof.Machine.execAndn f s
  | .andnImm f => Sys2Proof.Machine.execAndnImm f s
  | .shl f => Sys2Proof.Machine.execShl f s
  | .shlImm f => Sys2Proof.Machine.execShlImm f s
  | .shr f => Sys2Proof.Machine.execShr f s
  | .shrImm f => Sys2Proof.Machine.execShrImm f s
  | .sar f => Sys2Proof.Machine.execSar f s
  | .sarImm f => Sys2Proof.Machine.execSarImm f s
  | .rot f => Sys2Proof.Machine.execRot f s
  | .rotImm f => Sys2Proof.Machine.execRotImm f s
  | .iabs f => Sys2Proof.Machine.execIabs f s
  | .mov f => Sys2Proof.Machine.execMov f s
  | .popc f => Sys2Proof.Machine.execPopc f s
  | .clz f => Sys2Proof.Machine.execClz f s
  | .brev f => Sys2Proof.Machine.execBrev f s
  | .movi f => Sys2Proof.Machine.execMovi f s
  | .iaddc f => Sys2Proof.Machine.execIaddc f s
  | .isubb f => Sys2Proof.Machine.execIsubb f s
  | .imad f => Sys2Proof.Machine.execImad f s
  | .imadw f => Sys2Proof.Machine.execImadw f s
  | .icmp f => Sys2Proof.Machine.execIcmp f s
  | .sel f => Sys2Proof.Machine.execSel f s
  | .lea f => Sys2Proof.Machine.execLea f s
  | .bfe f => Sys2Proof.Machine.execBfe f s
  | .bfi f => Sys2Proof.Machine.execBfi f s
  | .bytx f => Sys2Proof.Machine.execBytx f s
  | .fadd f => Sys2Proof.Machine.execFadd f s
  | .fsub f => Sys2Proof.Machine.execFsub f s
  | .fmul f => Sys2Proof.Machine.execFmul f s
  | .ffma f => Sys2Proof.Machine.execFfma f s
  | .fmin f => Sys2Proof.Machine.execFmin f s
  | .fmax f => Sys2Proof.Machine.execFmax f s
  | .fcmp f => Sys2Proof.Machine.execFcmp f s
  | .fclass f => Sys2Proof.Machine.execFclass f s
  | .frnd f => Sys2Proof.Machine.execFrnd f s
  | .cvt f => Sys2Proof.Machine.execCvt f s
  | .f2i f => Sys2Proof.Machine.execF2i f s
  | .i2f f => Sys2Proof.Machine.execI2f f s
  | .pack f => Sys2Proof.Machine.execPack f s
  | .unpk f => Sys2Proof.Machine.execUnpk f s
  | .bscl f => Sys2Proof.Machine.execBscl f s
  | .duadd f => Sys2Proof.Machine.execDuadd f s
  | .dumul f => Sys2Proof.Machine.execDumul f s
  | .dufma f => Sys2Proof.Machine.execDufma f s
  | .dumax f => Sys2Proof.Machine.execDumax f s
  | .rcp f => Sys2Proof.Machine.execRcp f s
  | .rsq f => Sys2Proof.Machine.execRsq f s
  | .sqrt f => Sys2Proof.Machine.execSqrt f s
  | .ex2 f => Sys2Proof.Machine.execEx2 f s
  | .lg2 f => Sys2Proof.Machine.execLg2 f s
  | .sin f => Sys2Proof.Machine.execSin f s
  | .cos f => Sys2Proof.Machine.execCos f s
  | .tanh f => Sys2Proof.Machine.execTanh f s
  | .sfuResultLand core => Sys2Proof.Machine.execSfuResultLand core s
  | .vote f => Sys2Proof.Machine.execVote f s
  | .shfl f => Sys2Proof.Machine.execShfl f s
  | .mred f => Sys2Proof.Machine.execMred f s
  | .matchLanes f => Sys2Proof.Machine.execMatchLanes f s
  | .scan f => Sys2Proof.Machine.execScan f s
  | .tred f => Sys2Proof.Machine.execTred f s
  | .part f => Sys2Proof.Machine.execPart f s
  | .ld f => Sys2Proof.Machine.execLd f s
  | .ldFx f => Sys2Proof.Machine.execLdFx f s
  | .loadDataReturn g op q reply => Sys2Proof.Machine.execLoadDataReturn g op q reply s
  | .st f => Sys2Proof.Machine.execSt f s
  | .prf f => Sys2Proof.Machine.execPrf f s
  | .amo f => Sys2Proof.Machine.execAmo f s
  | .cas f => Sys2Proof.Machine.execCas f s
  | .atomicAck g op n reply => Sys2Proof.Machine.execAtomicAck g op n reply s
  | .fence f => Sys2Proof.Machine.execFence f s
  | .acq f => Sys2Proof.Machine.execAcq f s
  | .rel f => Sys2Proof.Machine.execRel f s
  | .acqr f => Sys2Proof.Machine.execAcqr f s
  | .invr f => Sys2Proof.Machine.execInvr f s
  | .wbr f => Sys2Proof.Machine.execWbr f s
  | .registrationGrant core pa => Sys2Proof.Machine.execRegistrationGrant core pa s
  | .lineFill core pa => Sys2Proof.Machine.execLineFill core pa s
  | .l1Evict core pa => Sys2Proof.Machine.execL1Evict core pa s
  | .tld f => Sys2Proof.Machine.execTld f s
  | .tst f => Sys2Proof.Machine.execTst f s
  | .tmov f => Sys2Proof.Machine.execTmov f s
  | .mma f => Sys2Proof.Machine.execMma f s
  | .mmaComplete g op => Sys2Proof.Machine.execMmaComplete g op s
  | .accz f => Sys2Proof.Machine.execAccz f s
  | .accwin f => Sys2Proof.Machine.execAccwin f s
  | .accrd f => Sys2Proof.Machine.execAccrd f s
  | .accadd f => Sys2Proof.Machine.execAccadd f s
  | .accld f => Sys2Proof.Machine.execAccld f s
  | .accst f => Sys2Proof.Machine.execAccst f s
  | .clasp f => Sys2Proof.Machine.execClasp f s
  | .claspExchange g h => Sys2Proof.Machine.execClaspExchange g h s
  | .claspTimeout g => Sys2Proof.Machine.execClaspTimeout g s
  | .cpy f => Sys2Proof.Machine.execCpy f s
  | .cpyRequestApplied g op => Sys2Proof.Machine.execCpyRequestApplied g op s
  | .gath f => Sys2Proof.Machine.execGath f s
  | .scat f => Sys2Proof.Machine.execScat f s
  | .col f => Sys2Proof.Machine.execCol f s
  | .collectiveJoin set remote => Sys2Proof.Machine.execCollectiveJoin set remote s
  | .collectiveTimeout x => Sys2Proof.Machine.execCollectiveTimeout x s
  | .bnk f => Sys2Proof.Machine.execBnk f s
  | .atwStart g op => Sys2Proof.Machine.execAtwStart g op s
  | .engineOpComplete g op => Sys2Proof.Machine.execEngineOpComplete g op s
  | .boini f => Sys2Proof.Machine.execBoini f s
  | .boarr f => Sys2Proof.Machine.execBoarr f s
  | .bowait f => Sys2Proof.Machine.execBowait f s
  | .kqcfg f => Sys2Proof.Machine.execKqcfg f s
  | .kqpush f => Sys2Proof.Machine.execKqpush f s
  | .kqtake f => Sys2Proof.Machine.execKqtake f s
  | .kqtakePort f => Sys2Proof.Machine.execKqtakePort f s
  | .kqsteal f => Sys2Proof.Machine.execKqsteal f s
  | .kqstat f => Sys2Proof.Machine.execKqstat f s
  | .kqWaiterServed g => Sys2Proof.Machine.execKqWaiterServed g s
  | .pctr f => Sys2Proof.Machine.execPctr f s
  | .pdec f => Sys2Proof.Machine.execPdec f s
  | .evnt f => Sys2Proof.Machine.execEvnt f s
  | .tlbinv f => Sys2Proof.Machine.execTlbinv f s
  | .accspl f => Sys2Proof.Machine.execAccspl f s
  | .accfil f => Sys2Proof.Machine.execAccfil f s
  | .issueChoice core ls => Sys2Proof.Machine.execIssueChoice core ls s
  | .groupEnd g => Sys2Proof.Machine.execGroupEnd g s
  | .watchdog ctx => Sys2Proof.Machine.execWatchdog ctx s
  | .packedRowStallSave ctx => Sys2Proof.Machine.execPackedRowStallSave ctx s
  | .tailWrite qid new => Sys2Proof.Machine.execTailWrite qid new s
  | .notifyForward qid => Sys2Proof.Machine.execNotifyForward qid s
  | .recordRead qid => Sys2Proof.Machine.execRecordRead qid s
  | .fenceWrite pa => Sys2Proof.Machine.execFenceWrite pa s
  | .markerStart qid => Sys2Proof.Machine.execMarkerStart qid s
  | .markerEnd qid => Sys2Proof.Machine.execMarkerEnd qid s
  | .teamPlace launch grant => Sys2Proof.Machine.execTeamPlace launch grant s
  | .enq kind inst => Sys2Proof.Machine.execEnq kind inst s
  | .pick part => Sys2Proof.Machine.execPick part s
  | .tick part => Sys2Proof.Machine.execTick part s
  | .block qid => Sys2Proof.Machine.execBlock qid s
  | .wake qid => Sys2Proof.Machine.execWake qid s
  | .migr kind inst key => Sys2Proof.Machine.execMigr kind inst key s
  | .mwaitExpire cluster q key => Sys2Proof.Machine.execMwaitExpire cluster q key s
  | .tileTaskDispatch cluster q => Sys2Proof.Machine.execTileTaskDispatch cluster q s
  | .groupHalt g => Sys2Proof.Machine.execGroupHalt g s
  | .contextSave ctx => Sys2Proof.Machine.execContextSave ctx s
  | .contextRestore ctx grant => Sys2Proof.Machine.execContextRestore ctx grant s
  | .messageArrive ep src elems => Sys2Proof.Machine.execMessageArrive ep src elems s
  | .remoteAccessArrive req => Sys2Proof.Machine.execRemoteAccessArrive req s
  | .windowBoundLost node => Sys2Proof.Machine.execWindowBoundLost node s
  | .windowOrderRestore node => Sys2Proof.Machine.execWindowOrderRestore node s
  | .linkDown port => Sys2Proof.Machine.execLinkDown port s
  | .linkUp port peer => Sys2Proof.Machine.execLinkUp port peer s
  | .streamTimeout node => Sys2Proof.Machine.execStreamTimeout node s
  | .moduleRetrain boundary mod repaired => Sys2Proof.Machine.execModuleRetrain boundary mod repaired s
  | .softError kind unit addr corrected => Sys2Proof.Machine.execSoftError kind unit addr corrected s
  | .syncReceived offset => Sys2Proof.Machine.execSyncReceived offset s
  | .syncHoldover => Sys2Proof.Machine.execSyncHoldover s
  | .syncLost => Sys2Proof.Machine.execSyncLost s
  | .wlenApply => Sys2Proof.Machine.execWlenApply s
  | .thermalThrottle temp => Sys2Proof.Machine.execThermalThrottle temp s
  | .thermalShutdown temp => Sys2Proof.Machine.execThermalShutdown temp s
  | .deviceReset => Sys2Proof.Machine.execDeviceReset s
  | .scrubSector unit sector => Sys2Proof.Machine.execScrubSector unit sector s
  | .enumerate node => Sys2Proof.Machine.execEnumerate node s
  | .loadImage req => Sys2Proof.Machine.execLoadImage req s
  | .unloadImage image => Sys2Proof.Machine.execUnloadImage image s
  | .queueCreate req => Sys2Proof.Machine.execQueueCreate req s
  | .queueEnable qid => Sys2Proof.Machine.execQueueEnable qid s
  | .queueDisable qid => Sys2Proof.Machine.execQueueDisable qid s
  | .deviceQueue qid => Sys2Proof.Machine.execDeviceQueue qid s
  | .aperture n ap => Sys2Proof.Machine.execAperture n ap s
  | .importWrite n entry => Sys2Proof.Machine.execImportWrite n entry s
  | .colset set cs => Sys2Proof.Machine.execColset set cs s
  | .wlen ns => Sys2Proof.Machine.execWlen ns s
  | .dieReset die => Sys2Proof.Machine.execDieReset die s
  | .dieReadmit die => Sys2Proof.Machine.execDieReadmit die s
  | .fwStage fw => Sys2Proof.Machine.execFwStage fw s
  | .attest nonce => Sys2Proof.Machine.execAttest nonce s
  | .scrub pa units => Sys2Proof.Machine.execScrub pa units s
  | .msgepDefine req => Sys2Proof.Machine.execMsgepDefine req s
  | .msgepRemove ep => Sys2Proof.Machine.execMsgepRemove ep s
  | .partitionWrite core part w => Sys2Proof.Machine.execPartitionWrite core part w s
  | .tileTaskBindingWrite cluster q w => Sys2Proof.Machine.execTileTaskBindingWrite cluster q w s
  | .policyControlWrite die field tenant value => Sys2Proof.Machine.execPolicyControlWrite die field tenant value s
  | .storeAcknowledged id => Sys2Proof.Machine.execStoreAcknowledged id s
  | .heldRemoteStoreSend g => Sys2Proof.Machine.execHeldRemoteStoreSend g s
  | .fabricTakesPortElements g port n => Sys2Proof.Machine.execFabricTakesPortElements g port n s
  | .eheadWrite qid head => Sys2Proof.Machine.execEheadWrite qid head s
  | .dieResetWithoutQuiesce die core => Sys2Proof.Machine.execDieResetWithoutQuiesce die core s
  | .thermalNormal temp => Sys2Proof.Machine.execThermalNormal temp s
  | .powerCapSet watts => Sys2Proof.Machine.execPowerCapSet watts s
  | .hardwareStridePrefetch core pa => Sys2Proof.Machine.execHardwareStridePrefetch core pa s

end Sys2Proof.Machine
end

