-- ==== Sys2Proof/Machine/Fetch.lean ====
section
/-!
DEFINITION. Fetching the instruction at a group's issue PC (R57, R58), what a step adds around an instruction (time, the
allowance of a policy routine), and placing an instruction where it is fetched next.
-/

namespace Sys2Proof.Machine

/-- What a fetch gives: an instruction and its length, or a trap of every lane at the issue PC with an address. -/
inductive Fetched where
  | instr (i : Instr)
  | trap (c : Cause) (addr : Option Nat)
  deriving DecidableEq, Repr

/-- A word of an instruction, fetched under CheckAccess through its page's home (R58). Log entry 59. -/
def State.fetchWord (s : State) (k va : Nat) : Except (Cause × Nat) Word :=
  match s.checkAccess (s.who k) .fetch va 1 anyHome none with
  | .error c => .error (c, va)
  | .ok l => match s.routeGot (l.ha va) l.route with
    | .word w => .ok w
    | .lost c => .error (c, va)

/-- Consecutive words, the first failure first. -/
def State.fetchWords (s : State) (k va : Nat) : Nat → Except (Cause × Nat) (List Word)
  | 0 => .ok []
  | n + 1 => match s.fetchWord k va with
    | .error e => .error e
    | .ok w => match s.fetchWords k (va + 4) n with
      | .error e => .error e
      | .ok ws => .ok (w :: ws)

/-- What decoding gives as what a fetch gives. -/
def fetchedOf (d : Decoded) : Fetched :=
  match d with
  | .ok i _ => .instr i
  | .bad c _ => .trap c none
  | .short => .trap .illegalOp none

/-- The instruction at the issue PC of a group. -/
def State.fetch (s : State) (k : Nat) : Fetched :=
  let pc := (s.group k).issuePc.toNat
  if isPolicy k then
    match (s.engine (clusterOfEngine k)).run with
    | some r => fetchedOf (decode (wordBytes ((r.code.drop (pc / 4)).take 5)))
    | none => .trap .illegalOp none
  else if pc % 4 ≠ 0 then .trap .misaligned (some pc)
  else match s.fetchWord k pc with
    | .error (c, a) => .trap c (some a)
    | .ok w => match s.fetchWords k pc (instrLen w / 4) with
      | .error (c, a) => .trap c (some a)
      | .ok ws => fetchedOf (decode (wordBytes ws))

/-- The pages of an instruction are recorded as accessed (R45): that of its first word, and that of its last. -/
def State.touchFetch (s : State) (k : Nat) : State :=
  let pc := (s.group k).issuePc.toNat
  if isPolicy k || pc % 4 != 0 then s
  else match s.fetchWord k pc with
    | .error _ => s
    | .ok w =>
      let t := s.touchPages k [pc] false
      let last := pc + instrLen w - 4
      match s.fetchWord k last with
      | .error _ => t
      | .ok _ => t.touchPages k [last] false

/-- Every lane at the issue PC takes a trap of the fetch or of checks 1 to 4 (R58, R70). Where the group waits at queue homes its
requests are withdrawn, and the lanes already served have passed the instruction (R273). -/
def State.fetchTrap (s : State) (k : Nat) (c : Cause) (addr : Option Nat) : State :=
  let s := (s.touchFetch k).updGroup k Group.unpark
  let t := if c = .notPresent then s else s.kqWithdraw k
  if (t.group k).issuePc ≠ (s.group k).issuePc then t
  else t.takeTrap k ((t.group k).atIssue.map fun l => ⟨l, c, addr⟩)

/-- A group has an instruction to issue. -/
def State.canIssue (s : State) (k : Nat) : Bool :=
  !(s.group k).cand.isEmpty &&
    if isPolicy k then
      match (s.engine (clusterOfEngine k)).run with
      | some r => r.status == .running
      | none => false
    else (mfind k s.groups).isSome && s.runs k

/-- What comes with an instruction: a policy routine pays for it, none where its allowance does not cover it (R310, R311);
a group has fetched it from its pages, and has met its next instruction (R45, R197). -/
def State.charge (s : State) (k : Nat) (i : Instr) : Option State :=
  if isPolicy k then
    let c := clusterOfEngine k
    match (s.engine c).run with
    | none => none
    | some r =>
      let n := r.cost + meshCost ((opOf i).getD 0)
      if r.allow < n then none else some (s.updRun c fun r => { r with cost := n })
  else some ((s.touchFetch k).sfuSeen k)

/-- A routine that reaches its allowance is stopped (R311). -/
def State.overrun (s : State) (k : Nat) : State := s.policyFault k

/-- A group's waits that are measured in core cycles: for a row (R23), and in the CLASP bridge (R245). -/
def Group.passCycles (g : Group) (n : Nat) : Group :=
  { g with
    rowWait := g.rowWait.map fun x => x + n,
    wait := { g.wait with clasp := g.wait.clasp.map fun x => { x with cycles := x.cycles + n } } }

/-- Time passes in a step: device time, a count of 64 bits (R4), and core cycles, by free amounts (log entry 3); watchdogs
count for teams that hold slots and are neither halted nor saved (R22); and what the new time brings happens. -/
def State.passTime (s : State) : State :=
  let n := Config.elapsedCycles s.tick
  State.onTime { s with
    tick := s.tick + 1,
    dev := { s.dev with time := (s.dev.time + Config.elapsedNs s.tick) % 2 ^ 64 },
    teams := s.teams.map fun p => if p.2.busy then (p.1, { p.2 with watch := p.2.watch + n }) else p,
    groups := s.groups.map fun p =>
      if p.2.rowWait.isSome || p.2.wait.clasp.isSome then (p.1, p.2.passCycles n) else p }

/-- The engine whose routine has ended (R306, R311). -/
def State.ended (s : State) : Option Nat :=
  (s.engines.find? fun p => match p.2.run with
    | some r => r.status != .running
    | none => false).map Prod.fst

/-! ### Placing an instruction -/

/-- Write the words of an instruction where a page holds them. -/
def State.placeWords (s : State) (l : Leaf) (va : Nat) : List Word → State
  | [] => s
  | w :: ws =>
    (match l.route with
     | .cached => s.homeWrite (l.ha va) 15#4 w
     | _ => s.ctlWrite (l.ha va) 15#4 w).placeWords l (va + 4) ws

/-- The first page of text of the machine that `bootTeam` starts: virtual address, and a leaf that can be read and
fetched from. -/
def bootVa : Nat := 0x10000
def bootLeaf : BitVec 128 := 0x1004B#128

/-- A machine with nothing running gets one team of a system context on core 0 with every resource a group can have, whose
text page is in its cluster's TLB: what a placement, in the model's stead, would have left (log entry 28). -/
def State.bootTeam (s : State) : State :=
  let t : Team := { sys := true, regs := 120, tiles := 16, accs := 8, gang := s.nextId }
  let s := s.setTeam 1 t
  let s := s.setGroup 64 (.launched t 0 bootVa 0 0 0 0 s.nextId s.tick)
  let s := s.placeAccs 64
  { s with
    cur := 64, nextId := s.nextId + 1, gangs := mset t.gang { teams := [1] } s.gangs,
    caches := { s.caches with
      tlb := mset 0 (mget [] s.caches.tlb 0 ++
        [{ ctx := 1, va := bootVa, size := 16, leaf := bootLeaf, leafAddr := 0 }]) s.caches.tlb } }

/-- The page from which the current group fetches twenty bytes at its issue PC. -/
def State.fetchPage (s : State) : Option (Leaf × Nat) :=
  let k := s.cur
  let pc := (s.group k).issuePc.toNat
  if s.canIssue k && !isPolicy k && pc % 4 == 0 then
    match s.checkAccess (s.who k) .fetch pc 1 anyHome none with
    | .ok l => if pc % 2 ^ l.size + maxLen ≤ 2 ^ l.size ∧ l.route ≠ .remote ∧ !s.down (l.ha pc) ∧
        !((List.range 5).any fun i => s.isLost (l.ha (pc + 4 * i))) then some (l, pc) else none
    | .error _ => none
  else none

/-- The machine with an instruction's words where the next step fetches them. -/
def State.placeFetch (s : State) (ws : List Word) : State :=
  let s := { s with agenda := [], caches := { s.caches with cut := none } }
  match s.fetchPage with
  | some (l, pc) => s.placeWords l pc ws
  | none =>
    let s := s.bootTeam
    match s.fetchPage with
    | some (l, pc) => s.placeWords l pc ws
    | none => s

end Sys2Proof.Machine
end

