-- ==== Sys2Proof/Machine/Sched.lean ====
section
/-!
DEFINITION. What a step does around an instruction: which of the machine's own events is due, the choice of the next
lane set, and the turns of the agenda (log entries 2 and 29).
-/

namespace Sys2Proof.Machine

/-! ### Events that are due -/

/-- A quarter of a load can land now: its words have come, or lie at a controller or scratchpad of this device. -/
def slotDue (sl : Slot) : Bool := sl.val.isSome || sl.route == .controller || sl.route == .scratch

/-- What an outstanding operation may do next. -/
def opDue (k : Nat) (o : Op) : List Instr :=
  if o.done then []
  else match o.kind with
    | .load ls _ qs =>
      (qs.filter fun q => ls.all fun x => quarter x.lane != q || x.slots.all slotDue).map fun q =>
        .loadDataReturn k o.id q []
    | .tile .. => if o.kind.slots.all slotDue then [.loadDataReturn k o.id 0 []] else []
    | .atomic _ _ _ _ its _ =>
      ((List.range its.length).zip its).filterMap fun p =>
        if p.2.done || p.2.route == .remote then none else some (.atomicAck k o.id p.1 none)
    | .mma _ => [.mmaComplete k o.id]
    | .engine e =>
      if !e.started then [.atwStart k o.id]
      else
        (if e.code = 0 then [.cpyRequestApplied k o.id] else if e.code = 3 then [.collectiveJoin (e.arg 4) []] else []) ++
          (if e.code = 3 then [.collectiveTimeout ⟨e.arg 4, []⟩] else []) ++ [.engineOpComplete k o.id]

/-- What a group may do by itself. -/
def State.groupDue (s : State) (k : Nat) (g : Group) : List Instr :=
  let t := s.teamOf k
  g.ops.flatMap (opDue k) ++
    (if g.wait.twait.any fun n => n ≤ s.dev.time then [.twaitExpire k] else []) ++
    (if g.wait.kq.isSome then [.kqWaiterServed k] else []) ++
    (if t.haltReq && !g.halted then [.groupHalt k] else []) ++
    (if s.groupOver k then [.groupEnd k] else []) ++
    (if g.hold.isSome then [.heldRemoteStoreSend k] else []) ++
    (if g.wait.clasp.any fun x => g.ctl.cltmo != 0#32 && g.ctl.cltmo.toNat ≤ x.cycles then [.claspTimeout k] else []) ++
    (if g.wait.clasp.isSome then (s.groups.filter fun p => p.2.wait.clasp.isSome && p.1 != k).map fun p => .claspExchange k p.1
     else [])

/-- What a team may do by itself. -/
def State.teamDue (s : State) (ctx : Nat) (t : Team) : List Instr :=
  (if t.st == .running then [.barPhaseComplete ctx, .gbarPhaseComplete t.gang, .watchdog ctx] else []) ++
    (if t.st == .running && (s.groupsOf ctx).any (fun k => 65536 ≤ (s.group k).rowWait.getD 0) then
      [.packedRowStallSave ctx] else []) ++
    (if t.st == .halted && (t.park || t.nopack) then [.contextSave ctx] else [])

/-- What device time brings: a staged window length, the loss of synchronisation, and the end of the stores that are held
for a node without a route (R328, R330, R332). -/
def State.timeDue (s : State) : List Instr :=
  (if s.dev.wlenNext.isSome && s.dev.wlenAt ≤ s.dev.time then [.wlenApply] else []) ++
    (if s.dev.sync == 0 && s.dev.lastSync + 2000000000 ≤ s.dev.time then [.syncHoldover] else []) ++
    (if s.dev.sync == 1 && s.dev.holdAt + 60000000000 ≤ s.dev.time then [.syncLost] else []) ++
    (((s.caches.flights.filter fun p => p.2.route == .remote && !p.2.atom).map fun p => p.2.node).eraseDups.filter fun n =>
      s.cutOff n && s.cutAt n + 10000000 ≤ s.dev.time).map fun n => .streamTimeout n

/-- The decision of a request. -/
def requestDue (r : PReq) : Instr :=
  match r.point with
  | 1 => .enq r.kind r.inst
  | 2 => .pick r.inst
  | 3 => .tick r.inst
  | 4 => .block r.inst
  | 5 => .wake r.inst
  | _ => .migr r.kind r.inst r.key.toNat

/-- What a virtual queue may do by itself. -/
def State.queueDue (s : State) (qid : Nat) (q : VQueue) : List Instr :=
  (if q.fwd.isEmpty then [] else [.notifyForward qid]) ++
    (if q.stopped = 0 ∧ q.resident.isSome ∧ q.ridx ≠ q.tail then [.recordRead qid] else []) ++
    match s.launches.find? fun p => p.2.qid == qid && p.2.kind == 2 with
    | some (_, r) => [if r.st == .waiting then .markerStart qid else .markerEnd qid]
    | none => []

/-- What an enabled partition asks of its policy engine: a source, or a new slice. -/
def State.partDue (s : State) (p : Nat) : List Instr :=
  if partEn (s.part p) then
    (if (mfind p s.picks).isNone && !(s.sources p).isEmpty then [.pick p] else []) ++ [.tick p]
  else []

/-- Every event of the machine itself that may happen now. -/
def State.due (s : State) : List Instr :=
  (s.sfu.filterMap fun p => if p.2.isEmpty then none else some (.sfuResultLand p.1)) ++
    (s.caches.l1.filterMap fun p =>
      if p.2.st == .p then some (.registrationGrant (p.1 / 2 ^ 64) (p.1 % 2 ^ 64)) else none) ++
    (s.caches.miss.map fun p => .lineFill (p.1 / 2 ^ 64) (p.1 % 2 ^ 64)) ++
    ((s.caches.flights.filter fun p => !p.2.held).map fun p => .storeAcknowledged p.1) ++
    ((s.groups.filter fun p => !isPolicy p.1).flatMap fun p => s.groupDue p.1 p.2) ++
    (s.orphans.flatMap fun p => opDue 0 p.2.2) ++
    (s.teams.flatMap fun p => s.teamDue p.1 p.2) ++
    (s.late.map fun p => .heldRemoteStoreSend p.1) ++
    ((s.fences.take 1).map fun p => .fenceWrite p.1) ++ s.timeDue ++
    (s.engines.filterMap fun p => match p.2.run, p.2.reqs with
      | none, r :: _ => some (requestDue r)
      | _, _ => none) ++
    (s.queues.flatMap fun p => s.queueDue p.1 p.2) ++
    (s.kqs.flatMap fun p => (s.migrDue p.1).map fun r => .mwaitExpire (p.1 / 64) (p.1 % 64) r.key.toNat) ++
    (s.partitions.flatMap fun p => s.partDue p.1) ++
    ((s.picks.filter fun p => 64 ≤ p.2).map fun p => .tileTaskDispatch (clusterOf (p.1 / 8)) (p.2 % 64))

/-- What a turn leaves, once the registers that left a shared row have rows of their own: where a group finds none it
stalls, and the turn has not been (R23). -/
def State.orRow (s t : State) : State × Bool :=
  match t.unpack with
  | (u, none) => (u, true)
  | (_, some j) => (s.rowStall j, false)

/-- The machine goes on by itself: one due event, each in its turn. -/
def State.progress (s : State) : State :=
  let ds := s.due
  let s := { s with turn := s.turn + 1 }
  match ds[s.turn % ds.length]? with
  | some i => match exec i s with
    | .next t => (s.orRow t).1
    | _ => s
  | none => s

/-! ### The next issue -/

/-- The places that issue: lane sets, and policy engines after them. -/
def engineTurn : Nat := 2 ^ 20
def State.turnOf (s : State) (k : Nat) : Nat := if isPolicy k then engineTurn + clusterOfEngine k else s.laneSet k

/-- The places that have something to issue, or to try again. -/
def State.turns (s : State) : List Nat :=
  (s.groups.filter fun p => if isPolicy p.1 then s.canIssue p.1 else s.runnable p.1).map fun p => s.turnOf p.1

/-- The least number of a list above a bound, or the least of all. -/
def nextAfter (n : Nat) (xs : List Nat) : Option Nat :=
  let least := fun (ys : List Nat) => ys.foldl (fun (m : Option Nat) y => match m with
    | none => some y
    | some x => some (min x y)) none
  (least (xs.filter fun x => n < x)).or (least xs)

/-- The slots of a lane set are tried again. -/
def State.unblock (s : State) (ls : Nat) : State := { s with blocked := s.blocked.filter fun k => s.laneSet k != ls }

/-- A lane set's turn: it chooses among the slots that are not known to stall; where all are, they are tried again. -/
def State.laneTurn (s : State) (ls : Nat) : State := (if (s.readyIn ls).isEmpty then s.unblock ls else s).choose ls

/-- Each lane set and policy engine issues in turn. -/
def State.chooseNext (s : State) : State :=
  match nextAfter (s.turnOf s.cur) s.turns with
  | some n => if engineTurn ≤ n then { s with cur := policyBase + (n - engineTurn) } else s.laneTurn n
  | none => s

/-- What a group's issue leaves: a group that finds no row for a register that left a shared one stalls at the instruction
(R23). -/
def State.issued (s t : State) : State :=
  let x := s.orRow t
  if x.2 then x.1 else x.1.stall

/-- A group's next instruction is stalled: its issue, tried now, would stall (R21). -/
def State.stalls (s : State) (k : Nat) : Bool :=
  let s := { s with cur := k, stalled := false }
  match s.fetch k with
  | .trap .. => false
  | .instr i => match s.charge k i with
    | none => false
    | some u => match exec i u with
      | .next t => (u.issued t).stalled
      | _ => false

/-- A slot that stalled and whose next instruction is stalled no more is eligible again (R21). -/
def State.unstall (s : State) : State := { s with blocked := s.blocked.filter s.stalls }

/-- The other slots of a group's lane set that are eligible (R21). -/
def State.rivals (s : State) (k : Nat) : List Nat :=
  if isPolicy k then [] else (s.eligible (s.laneSet k)).filter fun j => j != k && !s.stalls j

/-- A group that has just yielded owes an issue to every other eligible slot of its lane set (R20). -/
def State.noteYield (s : State) (k : Nat) : State :=
  let g := s.group k
  if g.yielded && g.owes.isEmpty then
    let os := s.rivals k
    s.updGroup k fun g => if os.isEmpty then { g with yielded := false } else { g with owes := os }
  else s

/-- The issue is counted for the choices to come (R20, R21). `es`: the other slots that were eligible. -/
def State.counted (s : State) (k : Nat) (es : List Nat) : State :=
  if isPolicy k || (mfind k s.groups).isNone then s
  else if s.stalled then s.countStall k else s.countIssue k es

/-- After an issue of a group: what follows a step; a group found stalled is passed by until its stall ends, another slot of
its lane set has issued, or all have stalled; the machine goes on by itself after a stall, and in every sixteenth step; the next place
issues. -/
def State.finish (s : State) (k : Nat) (es : List Nat) : State :=
  let s := ((s.counted k es).unstall.noteYield k).after
  let stalled := s.stalled
  let s := if stalled then { s with stalled := false, blocked := k :: s.blocked } else s.unblock (s.laneSet k)
  let s := if stalled || s.tick % 16 == 0 then s.progress.after else s
  s.unstall.chooseNext

/-- The current place has nothing to issue. -/
def State.idle (s : State) : State := s.progress.after.unstall.chooseNext

/-- A turn of the agenda: an event of the opcode table, one that must wait for a row coming again after the others; a silent
movement of the caches (R290, R291, R294); or what the runtime and the repair logic settle by themselves. -/
def takeTurn (t : Turn) (s : State) : Out :=
  match t with
  | .event i =>
    if (opOf i).isSome then .next s
    else match exec i s with
      | .next u =>
        let x := s.orRow u
        .next (if x.2 then x.1.after.unstall else { x.1 with agenda := x.1.agenda ++ [t] })
      | o => o
  | .tlbEvict cluster i =>
    .next { s with
      caches := { s.caches with
        tlb := mset cluster ((mget [] s.caches.tlb cluster).eraseIdx i) s.caches.tlb } }
  | .l2Evict addr => .next (if addr < 2 ^ 53 then s.writeBack addr else s)
  | .retire line => .next (s.retireLine line)
  | .reserve partid base bytes => .next (s.setReserve partid base bytes)
  | .root partid root => .next (s.setRoot partid root)
  | .spare kind unit rows => .next (s.spareTurn kind unit rows)
  | .overflow ctx pages => .next (s.setOver ctx pages)
  | .command code => .next (s.otherCommand code)

/-- The current group, or policy engine, issues one instruction. -/
def issueStep (s : State) : Out :=
  let k := s.cur
  let es := s.unstall.rivals k
  if !s.canIssue k then .next s.idle
  else match s.fetch k with
    | .trap c a => .next ((s.fetchTrap k c a).finish k es)
    | .instr i => match s.charge k i with
      | none => .next ((s.overrun k).finish k es)
      | some s => match exec i s with
        | .next t => .next ((s.issued t).finish k es)
        | o => o

end Sys2Proof.Machine
end

