-- ==== Sys2Proof/Machine/Step.lean ====
section
/-!
DEFINITION. One step: a watchdog that has run out pre-empts its team, and time passes; then a routine that has ended is concluded, or the agenda's next turn is taken, or the
current group issues one instruction. A device that is off does nothing but be reset.
-/

namespace Sys2Proof.Machine

/-- How a step begins. -/
def State.begin (s : State) : State := s.watchdogs.passTime

def step (s : State) : Host.Outcome State Fault Refusal :=
  let s := s.begin
  match s.agenda with
  | t :: ts => if s.dev.off && t != .event .deviceReset then .next { s with agenda := ts } else takeTurn t { s with agenda := ts }
  | [] =>
    if s.dev.off then .next s
    else match s.ended with
      | some c => .next (s.conclude c)
      | none => issueStep s

/-- `s` with the instruction whose bits are `w` where the next step fetches. -/
def State.withFetchWord (s : State) (nbits w : Nat) : State := s.placeFetch (toWords (leBytes maxLen (w % 2 ^ nbits)))

end Sys2Proof.Machine
end

