-- ==== Sys2Proof/Safety.lean ====
section
/-!
DEFINITION. The terms in which claims are stated: what a run never leaves, when an instruction issues and executes, and
what an instruction that works on registers does to its group.
-/

namespace Sys2Proof.Machine

/-! ### What a run never leaves -/

/-- Memory is in canonical form: addresses strictly rising, no entry that an unlisted address reads as. -/
def State.Inv (s : State) : Prop := Memory.wf s.mem = true

/-! ### When an instruction executes -/

/-- The current group and its team. -/
def State.g (s : State) : Group := s.group s.cur
def State.t (s : State) : Team := s.teamOf s.cur

/-- The lanes that execute an instruction: those at the issue PC that its guards let pass (R9, R65). -/
def State.exLanes (s : State) (op : Nat) (f : Fields) : List Nat := executing s.g op f

/-- The instruction of the current group meets no trap and no wait before it executes (R69): some lane executes; checks
5 to 8 find no cause; the full bits, tiles and ports that it needs are ready, its destinations are full (R25, R26, R28,
R31); and no lane at the issue PC meets a load mark (R215). `legal`: the instruction's own part of check 8. -/
structure Issues (s : State) (op : Nat) (f : Fields) (legal : Team → Group → Bool) (fx : Bool) : Prop where
  lanes  : s.exLanes op f ≠ []
  fields : checkFields s.t s.g (isPolicy s.cur) op f (legal s.t s.g) = none
  ready  : unmet s.g op f fx = []
  dst    : dstReady s.g (quartersOf (s.exLanes op f)) op f = true
  marks  : ∀ l ∈ s.g.atIssue, markedIn s.g op f fx (s.exLanes op f) l = none

/-- No condition of its own. -/
def always : Team → Group → Bool := fun _ _ => true

/-! ### What it does to its group -/

/-- The PC of a lane after an instruction of some length that does not branch (R18): the lanes at the issue PC, those
that the guards exclude among them, move past it. -/
def Group.nextPc (g : Group) (len l : Nat) : BitVec 64 :=
  if l ∈ g.atIssue then g.pcOf l + BitVec.ofNat 64 len else g.pcOf l

/-- `g'` is `g` after an instruction: `out r l` is what register `r` of lane `l` receives, if anything (a write clears its
mark, R215); `pc l` is lane `l`'s PC; the park bits clear where every live lane was parked (R17); nothing else of the
group changes. -/
structure GroupStep (g g' : Group) (out : Nat → Nat → Option Word) (pc : Nat → BitVec 64) : Prop where
  regs  : ∀ r l, l < 32 → g'.reg r l = (out r l).getD (g.reg r l)
  marks : ∀ r l, l < 32 → g'.markOf r l = if (out r l).isSome then none else g.markOf r l
  pcs   : ∀ l, g'.pcOf l = pc l
  park  : g'.park = g.unpark.park
  rest  : { g' with regs := g.regs, marks := g.marks, pc := g.pc, park := g.park } = g

/-- The lanes of `ex` receive `v` in register `d`. -/
def oneReg (d : Nat) (ex : List Nat) (v : Nat → Word) (r l : Nat) : Option Word := if r = d ∧ l ∈ ex then some (v l) else none

/-- The lanes of `ex` receive `v` in the pair `d`. -/
def onePair (d : Nat) (ex : List Nat) (v : Nat → BitVec 64) (r l : Nat) : Option Word :=
  if l ∈ ex then (if r = d then some (lo32 (v l)) else if r = d + 1 then some (hi32 (v l)) else none) else none

/-- Nothing is written. -/
def noReg (_ _ : Nat) : Option Word := none

/-- What an executing lane reads of an instruction's operands. -/
def State.rd (s : State) (op : Nat) (f : Fields) : Rd := ⟨s.g, s.exLanes op f, s.exLanes op f⟩

/-- What an instruction finds: the park bits of R17 settled. -/
def State.opened (s : State) : State := s.updGroup s.cur Group.unpark

/-- The lanes at the issue PC that the guards exclude. -/
def State.excluded (s : State) (op : Nat) (f : Fields) : List Nat := s.g.atIssue.filter fun l => !(s.exLanes op f).contains l

/-- A or B names port `q` as a source (R27). -/
def namesPort (op : Nat) (f : Fields) (q : Nat) : Bool :=
  (shapeOf op f.sub.toNat).a.isSrc && f.a.toNat == 120 + q ||
    bIsReg f && (shapeOf op f.sub.toNat).b.isSrc && f.b.toNat == 120 + q

/-- A port after `n` lanes have each taken an element, where the instruction names it (R28). -/
def Group.portAfter (g : Group) (op : Nat) (f : Fields) (n q : Nat) : Port :=
  if namesPort op f q then { g.port q with elems := (g.port q).elems.drop n } else g.port q

/-- What an executing lane reads, once the park bits are settled. -/
def State.rdo (s : State) (op : Nat) (f : Fields) : Rd := ⟨s.opened.group s.cur, s.exLanes op f, s.exLanes op f⟩

/-- `g'` is `g` after an instruction that issues operation `o`, which will write the registers `regs` in the quarters
`qs`: those registers become empty there (R25, R39), the lanes at the issue PC move past the instruction, and nothing
else of the group changes. -/
structure OpStep (g g' : Group) (o : Op) (regs qs : List Nat) (len : Nat) : Prop where
  ops     : g'.ops = g.ops ++ [o]
  empties : ∀ r q, q < 4 → g'.emptyIn r q = if r ∈ regs ∧ q ∈ qs then true else g.emptyIn r q
  pcs     : ∀ l, g'.pcOf l = g.nextPc len l
  park    : g'.park = g.unpark.park
  rest    : { g' with ops := g.ops, empties := g.empties, pc := g.pc, park := g.park } = g

/-- `s` with the lanes of an instruction moved on: those that the guards exclude, then those that executed (R18). -/
def State.moveOn (s : State) (t : State) (op : Nat) (f : Fields) : State :=
  (t.pass s.cur (s.excluded op f) (formLen f.form)).pass s.cur (s.exLanes op f) (formLen f.form)

/-- The lanes that an instruction names, in ascending order, each with the access that its checks let pass after the lines
that the lanes before it hold; none raises (R12, R46, R214). -/
def State.accesses (s : State) (op : Nat) (f : Fields) (priv : Bool) (kind : AKind) (w : Nat) (xs : List Access) : Prop :=
  s.opened.accessAll s.cur (s.rdo op f) f priv kind w (s.exLanes op f) = (xs, [])

/-- Stores into L1s do not change where an address of a group lies: its page is in the TLB, or cached with an L1 line whose tag
agrees with it (R293, R294). -/
def State.fixedPlace (s : State) (k va : Nat) : Prop :=
  ∀ (l1 : Map L1Word) (n : Nat),
    ({ s with nextId := n, caches := { s.caches with l1 := l1 } } : State).place k va = s.place k va

/-- A word that is memory and nothing else: in no device window and no residency table (R303, R313), and in no NOTIFY line,
whatever the caches hold (R299). -/
structure State.plain (s : State) (a : Nat) : Prop where
  window    : isWindow a = false
  residency : inResidency a = false
  notify    : ∀ u : State, u.queues = s.queues → u.dev = s.dev → u.notifyQueue a = none

/-- The accumulators `is` of the executing lanes' quarters are the group's own, no MMA into them is under way (for an
instruction that is no MMA, `fills` false), and those that are read hold no uncorrectable error (R234, R236, R297). -/
structure State.accsReady (s : State) (op : Nat) (f : Fields) (is : List Nat) (fills reads : Bool) : Prop where
  owned : s.claims s.cur is (quartersOf (s.exLanes op f)) = []
  free  : fills = false → s.g.mmaOn is = false
  good  : reads = true → ∀ q ∈ quartersOf (s.exLanes op f), ∀ i ∈ is, (s.acc s.t.core q (s.g.acc + i)).bad = false

/-- `t` is `s` with accumulator `p` of a core changed by `v` in some of its units, and nothing else changed (R33). -/
structure AccStep (s t : State) (core p : Nat) (qs : List Nat) (v : Nat → Acc → Acc) : Prop where
  accs : ∀ c q j, q < 4 → j < 8 → t.acc c q j = if c = core ∧ j = p ∧ q ∈ qs then v q (s.acc c q j) else s.acc c q j
  rest : { t with accs := s.accs } = s

/-- The 64-byte descriptor `d` at `va` that a group operation names, read (R248): its page admits it, no earlier access of
the group to it must come first, the L1 has room for its line (R293), and no word of it is lost; `u` is the state after the
read. -/
structure State.descriptor (s : State) (op : Nat) (f : Fields) (va : Nat) (d : List Byte) (u : State) : Prop where
  addr : (s.rdo op f).groupAddr f = some va
  page : ∃ l, s.opened.checkAccess (s.opened.who s.cur) .load va 64 anyHome none = .ok l
  free : ∀ w ∈ s.opened.rangeWords s.cur va 64, s.opened.loadBusy s.cur w.1 = false
  room : s.opened.readStuck s.cur va 64 = false
  read : (s.opened.touchAll s.cur [va] false).readRange s.cur va 64 = (d, none, u)

/-- An engine is about to decide a request: the request's cluster, its die up, is idle, and the request heads its buffer
(R306, R307). -/
structure State.asked (s : State) (r : PReq) (c : Nat) (rs : List PReq) : Prop where
  home : engineOf s r = c
  up   : mget 0 s.dev.dies (dieOfCluster c) = 0
  idle : (s.engine c).run = none
  head : (s.engine c).reqs = r :: rs

/-- `s` with the head of an engine's buffer taken, and the first waiting request entered (R307). -/
def State.taken (s : State) (c : Nat) (rs : List PReq) : State :=
  s.setEngine c { s.engine c with reqs := rs ++ (s.engine c).wait.take 1, wait := (s.engine c).wait.drop 1 }

/-- An instruction names no port: A, B and D are registers (R27, R171). -/
abbrev noPorts (op : Nat) (f : Fields) : Prop := queueFed op f = false ∧ isPort f.d.toNat = false

/-! ### The register instructions that compute D -/

/-- The instructions that compute one register from their operands in each lane: OP, fields, own condition of check 8, and
the value (R173 to R176, R178 to R182, R186 to R196). -/
structure Alu where
  op    : Nat
  f     : Fields
  legal : Bool
  val   : Rd → Nat → Word

/-- The row of an instruction that takes A and B. -/
def Alu.two (op : Nat) (f : Fields) (v : Word → Word → Word) : Alu := ⟨op, f, true, fun r l => v (r.a f l) (r.b op f l)⟩
def Alu.one (op : Nat) (f : Fields) (v : Word → Word) : Alu := ⟨op, f, true, fun r l => v (r.a f l)⟩
def Alu.fp2 (op : Nat) (f : Fields) (v : Nat → Nat → Nat) : Alu := .two op f fun a b => ofBits (v a.toNat b.toNat)
def Alu.fp1 (op : Nat) (f : Fields) (v : Nat → Nat) : Alu := .one op f fun a => ofBits (v a.toNat)
def Alu.pred (op : Nat) (f : Fields) (p : Rd → Nat → Bool) : Alu :=
  ⟨op, f, bitE f, fun r l => setBit (r.g.reg f.d.toNat l) f.e.toNat (p r l)⟩
def Alu.duo (op : Nat) (f : Fields) (v : Nat → Nat → Nat → Nat) : Alu :=
  ⟨op, f, true, fun r l => duoRes f v (r.a f l) (r.b op f l) (r.c f l)⟩

/-- The register instructions (59 rows of the opcode table). -/
def aluOf : Instr → Option Alu
  | .iadd f => some (.two 0x20 f (iaddRes f.sub.toNat))
  | .iaddImm f => some (.two 0xC0 f (iaddRes 0))
  | .isub f => some (.two 0x21 f (isubRes f.sub.toNat))
  | .isubImm f => some (.two 0xC1 f (isubRes 0))
  | .imul f => some (.two 0x24 f fun a b => a * b)
  | .imulImm f => some (.two 0xC4 f fun a b => a * b)
  | .imulh f => some (.two 0x25 f (imulhRes f.sub.toNat))
  | .imulhImm f => some (.two 0xC5 f (imulhRes 0))
  | .imin f => some (.two 0x28 f (iminRes f.sub.toNat))
  | .iminImm f => some (.two 0xC8 f (iminRes 0))
  | .imax f => some (.two 0x29 f (imaxRes f.sub.toNat))
  | .imaxImm f => some (.two 0xC9 f (imaxRes 0))
  | .and f => some (.two 0x30 f fun a b => a &&& b)
  | .andImm f => some (.two 0xD0 f fun a b => a &&& b)
  | .or f => some (.two 0x31 f fun a b => a ||| b)
  | .orImm f => some (.two 0xD1 f fun a b => a ||| b)
  | .xor f => some (.two 0x32 f fun a b => a ^^^ b)
  | .xorImm f => some (.two 0xD2 f fun a b => a ^^^ b)
  | .andn f => some (.two 0x33 f fun a b => a &&& ~~~b)
  | .andnImm f => some (.two 0xD3 f fun a b => a &&& ~~~b)
  | .shl f => some (.two 0x34 f shlRes)
  | .shlImm f => some (.two 0xD4 f shlRes)
  | .shr f => some (.two 0x35 f shrRes)
  | .shrImm f => some (.two 0xD5 f shrRes)
  | .sar f => some (.two 0x36 f sarRes)
  | .sarImm f => some (.two 0xD6 f sarRes)
  | .rot f => some (.two 0x37 f rotRes)
  | .rotImm f => some (.two 0xD7 f rotRes)
  | .iabs f => some (.one 0x2A f iabsRes)
  | .mov f => some (.one 0x2E f fun a => a)
  | .popc f => some (.one 0x3A f popcRes)
  | .clz f => some (.one 0x3B f clzRes)
  | .brev f => some (.one 0x3C f brevRes)
  | .movi f => some ⟨0x2F, f, true, fun r l => r.b 0x2F f l⟩
  | .imad f => some ⟨0x26, f, true, fun r l => r.a f l * r.b 0x26 f l + r.c f l⟩
  | .icmp f => some (.pred 0x2B f fun r l => icmp f.sub.toNat (r.a f l) (r.b 0x2B f l))
  | .sel f => some ⟨0x2C, f, bitE f, fun r l => if (r.c f l).getLsbD f.e.toNat then r.a f l else r.b 0x2C f l⟩
  | .bfe f => some (.two 0x38 f (bfeRes f.sub.toNat))
  | .bfi f => some ⟨0x39, f, true, fun r l => bfiRes (r.a f l) (r.b 0x39 f l) (r.c f l)⟩
  | .bytx f => some ⟨0x3D, f, true, fun r l => bytxRes f.sub.toNat (r.a f l) (r.b 0x3D f l) (r.c f l)⟩
  | .fadd f => some (.fp2 0x40 f (faddBits fp32))
  | .fsub f => some (.fp2 0x41 f (fsubBits fp32))
  | .fmul f => some (.fp2 0x42 f (fmulBits fp32))
  | .ffma f => some ⟨0x43, f, true, fun r l =>
      ofBits (ffmaBits fp32 (r.a f l).toNat (r.b 0x43 f l).toNat (r.c f l).toNat)⟩
  | .fmin f => some (.fp2 0x44 f (fminmaxBits fp32 false (f.sub == 1#8)))
  | .fmax f => some (.fp2 0x45 f (fminmaxBits fp32 true (f.sub == 1#8)))
  | .fcmp f => some (.pred 0x46 f fun r l => fcmp f.sub.toNat (r.a f l).toNat (r.b 0x46 f l).toNat)
  | .fclass f => some (.fp1 0x47 f fun a => 2 ^ fclass a)
  | .frnd f => some (.fp1 0x48 f (frndBits (rmOf f.sub.toNat)))
  | .cvt f => some (.fp1 0x4D f (cvtBits f.sub.toNat))
  | .f2i f => some ⟨0x4E, f, true, fun r l => f2iRes (f.sub.getLsbD 3) (rmOf (f.sub.toNat % 8)) (r.a f l).toNat⟩
  | .i2f f => some ⟨0x4F, f, true, fun r l => ofBits (i2fBits (f.sub == 1#8) (r.a f l))⟩
  | .pack f => some ⟨0x50, f, true, fun r l =>
      ofBits (packBits f.sub.toNat (r.a f l).toNat (r.g.reg f.d.toNat l).toNat)⟩
  | .unpk f => some (.fp1 0x51 f (unpkBits f.sub.toNat))
  | .bscl f => some (.fp1 0x52 f (bsclBits f.sub.toNat))
  | .duadd f => some (.duo 0x49 f fun a b _ => faddBits (duoFmt f) a b)
  | .dumul f => some (.duo 0x4A f fun a b _ => fmulBits (duoFmt f) a b)
  | .dufma f => some (.duo 0x4B f (ffmaBits (duoFmt f)))
  | .dumax f => some (.duo 0x4C f fun a b _ => fminmaxBits (duoFmt f) true (f.sub.getLsbD 2) a b)
  | _ => none

/-! ### The SFU and cross-lane instructions -/

/-- The SFU instructions: OP. -/
def sfuOf : Instr → Option (Nat × Fields)
  | .rcp f => some (0x58, f) | .rsq f => some (0x59, f) | .sqrt f => some (0x5A, f) | .ex2 f => some (0x5B, f)
  | .lg2 f => some (0x5C, f) | .sin f => some (0x5D, f) | .cos f => some (0x5E, f) | .tanh f => some (0x5F, f)
  | _ => none

/-- The cross-lane instructions with one result and a status bit: OP, result and status. -/
def laneOf : Instr → Option (Nat × Fields × (Rd → Nat → Word) × (Rd → Nat → Bool))
  | .vote f => some (0x60, f, voteRes f, fun r l => r.status 0x60 f l)
  | .matchLanes f => some (0x63, f, matchRes f, fun r l => r.status 0x63 f l)
  | .scan f => some (0x64, f, scanRes f, fun r l => r.status 0x64 f l)
  | .tred f => some (0x65, f, tredRes f, fun r l => r.status 0x65 f l)
  | _ => none

/-- What D and then bit E of C receive: `v` in D of the lanes `ex`, the status in the bit, C's other bits (D's new ones
where C is D) kept (R202). -/
def withStatus (g : Group) (d c e : Nat) (ex : List Nat) (v : Nat → Word) (st : Nat → Bool) (x l : Nat) : Option Word :=
  if x = c ∧ l ∈ ex then some (setBit (if c = d then v l else g.reg c l) e (st l)) else oneReg d ex v x l

/-! ### Branches -/

/-- The PC of a lane after a branch of the lanes `ex`: its target in those, past the instruction in the others at the
issue PC. -/
def Group.branchPc (g : Group) (ex : List Nat) (len : Nat) (t : Nat → BitVec 64) (l : Nat) : BitVec 64 :=
  if l ∈ ex then t l else g.nextPc len l

end Sys2Proof.Machine
end

