-- ==== Sys2Proof/Certificates/Slice0/Obligations.lean ====
section
/-!
DEFINITION. The statements about the machine. Each docstring says STATED with the rule it formalises, or DERIVED with the
rules it rests on; where a clause rests on the model's own choice it names the log entry.
-/

open Sys2Proof Sys2Proof.Machine

/-! ### Encodings and the step -/

/-- DERIVED (R22, R57, R58, R69): a step begins with the watchdogs whose counts have reached their limits, which pre-empt, and
with time. Where the bytes at the issue PC of the current group then decode to an instruction, the step is that instruction's
meaning on the state in which the fetch is recorded, followed by what a step adds around an issue: a stall of a group that
finds no row, the group's yield, the events that follow, the machine's own progress and the choice of the next lane set, for
which the slots that could have issued instead are noted (log entries 2, 3, 19, 29, 66). The second part says the same of a
policy routine, whose words its engine holds and which pays for the instruction. -/
def Obligations.StepRunsDecoded : Prop :=
  (∀ (s : State), s.begin = s.watchdogs.passTime) ∧
  (∀ (s : State) (i : Instr) (n : Nat) (w : Word) (ws : List Word),
    let u := s.begin
    u.agenda = [] → u.dev.off = false → u.ended = none → u.canIssue u.cur = true → isPolicy u.cur = false →
    (u.group u.cur).issuePc.toNat % 4 = 0 →
    u.fetchWord u.cur (u.group u.cur).issuePc.toNat = .ok w →
    u.fetchWords u.cur (u.group u.cur).issuePc.toNat (instrLen w / 4) = .ok ws →
    decode (wordBytes ws) = .ok i n →
    let p := (u.touchFetch u.cur).sfuSeen u.cur
    step s = match Machine.exec i p with
      | .next t => .next ((p.issued t).finish u.cur (u.unstall.rivals u.cur))
      | o => o) ∧
  (∀ (s : State) (i : Instr) (n : Nat) (r : PRun) (p : State),
    let u := s.begin
    u.agenda = [] → u.dev.off = false → u.ended = none → u.canIssue u.cur = true → isPolicy u.cur = true →
    (u.engine (clusterOfEngine u.cur)).run = some r →
    decode (wordBytes ((r.code.drop ((u.group u.cur).issuePc.toNat / 4)).take 5)) = .ok i n →
    u.charge u.cur i = some p →
    step s = match Machine.exec i p with
      | .next t => .next ((p.issued t).finish u.cur (u.unstall.rivals u.cur))
      | o => o)

/-- DERIVED (R59, R63, R64; the words of the manual's own examples in "Instruction formats" and "Asynchronous engine
instructions"): words written out in the manual decode to the instructions they stand for. -/
def Obligations.DecodeWords : Prop :=
  decodeWords [0x02020C80#32] = .ok (.iadd { form := .b3, d := 3#7, a := 1#7, b := 2#7 }) 4 ∧
  decodeWords [0x00020C81#32, 0x00010000#32, 0#32] =
    .ok (.iadd { form := .b3L, d := 3#7, a := 1#7, lit := 0x10000#64 }) 12 ∧
  decodeWords [0xFFFA0004#32] = .ok (.bra { form := .bj, off := 0x7FFD#15 }) 4 ∧
  decodeWords [0x02020B50#32] = .ok (.shlImm { form := .bi, d := 2#7, a := 1#7, imm := 2#8 }) 4 ∧
  decodeWords [0x02180E5A#32, 0x00C00000#32, 0x000FE07F#32] =
    .ok (.boarr { form := .x, d := 3#7, a := 12#7, b := 2#7, wb := 3#5 }) 12 ∧
  decodeWords [0x00140252#32, 0x00404000#32, 0x000FE07F#32] = .ok (.bnk { form := .x, a := 10#7, sub := 1#8, wb := 1#5 }) 12 ∧
  decodeWords [0x05141A46#32, 0x00C04000#32, 0x000FE07F#32] =
    .ok (.gath { form := .x, d := 6#7, a := 10#7, b := 5#7, sub := 1#8, wb := 3#5 }) 12

/-- DERIVED (R57, R59, R63, R64, R69): decoding the bytes of an encoded instruction gives the instruction back with its
length, whatever follows it in memory: every operand at every value that the encoding admits, for all 146 encoded rows. -/
def Obligations.DecodeEncode : Prop :=
  ∀ (i : Instr) (bs : List Byte), wf i = true →
    decode (wordBytes (encode i) ++ bs) = .ok i (4 * (encode i).length)

/-- DERIVED (R57, R63, R69): no word is read loosely: where words decode to an instruction, they are the words that it
encodes to, all of them, and the instruction is well formed. -/
def Obligations.EncodeDecode : Prop :=
  ∀ (ws : List Word) (i : Instr) (n : Nat), decodeWords ws = .ok i n →
    encode i = ws ∧ n = 4 * ws.length ∧ wf i = true

/-! ### Checks, traps and stalls -/

/-- DERIVED (R69, R70, R77, R78, R74): the checks that do not depend on a lane trap every lane at the issue PC, before
the guards are looked at: a policy instruction (PCTR, PDEC, EVNT) in a group of a team raises ILLEGAL_CTX; a privileged
one (TLBINV, ACCSPL, ACCFIL) in a user context PRIV_OP; FENCE, REL, ACQ and ACQR with a scope field above 5
SCOPE_INVALID. -/
def Obligations.ChecksTrapEveryLane : Prop :=
  ∀ (s : State) (f : Fields), s.g.atIssue ≠ [] → isPolicy s.cur = false →
    (Machine.exec (.pctr f) s = .next (s.opened.trapAll s.cur .illegalCtx) ∧
     Machine.exec (.pdec f) s = .next (s.opened.trapAll s.cur .illegalCtx) ∧
     Machine.exec (.evnt f) s = .next (s.opened.trapAll s.cur .illegalCtx)) ∧
    (s.t.sys = false →
     Machine.exec (.tlbinv f) s = .next (s.opened.trapAll s.cur .privOp) ∧
     Machine.exec (.accspl f) s = .next (s.opened.trapAll s.cur .privOp) ∧
     Machine.exec (.accfil f) s = .next (s.opened.trapAll s.cur .privOp)) ∧
    (5 < bits f.sub.toNat 2 0 →
     Machine.exec (.fence f) s = .next (s.opened.trapAll s.cur .scopeInvalid) ∧
     Machine.exec (.rel f) s = .next (s.opened.trapAll s.cur .scopeInvalid) ∧
     Machine.exec (.acq f) s = .next (s.opened.trapAll s.cur .scopeInvalid) ∧
     Machine.exec (.acqr f) s = .next (s.opened.trapAll s.cur .scopeInvalid))

/-- DERIVED (R12, R133, R162, R163): where a trap goes to the group's handler, each raising lane receives the cause, its own
PC and, where it has one, its faulting address, and goes to TVEC; HMASK becomes the raising lanes and H becomes 1; a release
that the group was waiting in is begun anew after the handler, and what it waits for at queue homes is dropped; the other lanes, and everything else of the machine, are
unchanged. -/
def Obligations.TrapEntersHandler : Prop :=
  ∀ (s : State) (k : Nat) (rs : List Raised) (r : Raised) (b : Nat),
    isPolicy k = false → trapCause rs = some r → (s.group k).h = false →
    r.cause ∉ [Cause.notPresent, .accClaim, .preempt, .watchdog] →
    r.cause.routeBit = some b → (s.group k).ctl.troute.getLsbD b = true →
    (∀ x ∈ rs, x.lane < 32) →
    ∃ g', s.takeTrap k rs = s.setGroup k g' ∧ g'.h = true ∧
      (∀ l, l < 32 → (laneBit g'.hmask l = true ↔ l ∈ rs.map Raised.lane)) ∧
      (∀ l, g'.pcOf l = if l ∈ rs.map Raised.lane then ((s.group k).pcOf l).extractLsb' 32 32 ++ (s.group k).ctl.tvec
        else (s.group k).pcOf l) ∧
      (∀ l, mget 0 g'.tcause l = if l ∈ rs.map Raised.lane then BitVec.ofNat 8 r.cause.code
        else mget 0 (s.group k).tcause l) ∧
      (∀ l, mget 0 g'.tepc l = if l ∈ rs.map Raised.lane then ((s.group k).pcOf l).setWidth 32
        else mget 0 (s.group k).tepc l) ∧
      (∀ l, (∀ x ∈ rs, x.lane = l → x.addr = none) → mget 0 g'.taddr l = mget 0 (s.group k).taddr l) ∧
      (∀ x ∈ rs, ∀ a, x.addr = some a → (∀ y ∈ rs, y.lane = x.lane → y = x) →
        mget 0 g'.taddr x.lane = BitVec.ofNat 57 a) ∧
      g'.wait = { (s.group k).wait with relAt := none, kq := none } ∧
      { g' with pc := (s.group k).pc, tcause := (s.group k).tcause, tepc := (s.group k).tepc, wait := (s.group k).wait,
                taddr := (s.group k).taddr, hmask := (s.group k).hmask, h := (s.group k).h } = s.group k

/-- DERIVED (R12, R43, R75, R163, R166, R279, R302, R314, R19): The causes that go to the system. NOT_PRESENT leaves each
raising lane's address in TADDR, and the system maps the page, parks the team or ends it (log entry 11); ACC_CLAIM leaves
the group as it stands: the claim is resolved where it is raised, which is the model's reading (log entry 48); PREEMPT
halts the group; WATCHDOG ends the team; a user-routable cause whose TROUTE bit is 0 ends the team with a FAULT event
naming the cause, the address and the PC of the lowest raising lane, and while H is 1 every user-routable cause does so as
DOUBLE_TRAP. A policy routine that traps ends without a decision. Ending a team with a FAULT event removes the team, all
its groups, what the SFU queues hold for them and its TLB entries; a context without a team is left as it stands. -/
def Obligations.SystemCauses : Prop :=
  ((∀ (s : State) (k : Nat) (rs : List Raised) (r : Raised), isPolicy k = false → trapCause rs = some r →
    let pc := (((s.group k).pcOf r.lane).setWidth 32 : Word).toNat
    let u := s.setGroup k ((s.group k).noteAddrs rs)
    (r.cause = .notPresent →
      (s.takeTrap k rs = u ∨ s.takeTrap k rs = (u.parkTeam (ctxOf k)).haltGroup k ∨
        s.takeTrap k rs = u.faultTeam (ctxOf k) .notPresent (r.addr.getD 0) pc) ∧
      (∀ x ∈ rs, ∀ a, x.lane < 32 → x.addr = some a → (∀ y ∈ rs, y.lane = x.lane → y = x) →
        mget 0 (u.group k).taddr x.lane = BitVec.ofNat 57 a) ∧
      { u.group k with taddr := (s.group k).taddr } = s.group k) ∧
    (r.cause = .accClaim → s.takeTrap k rs = s) ∧
    (r.cause = .preempt → s.takeTrap k rs = s.haltGroup k) ∧
    (r.cause = .watchdog → s.takeTrap k rs = s.faultTeam (ctxOf k) .watchdog 0 pc) ∧
    (r.cause ∉ [Cause.notPresent, .accClaim, .preempt, .watchdog] →
      ((s.group k).h = true → s.takeTrap k rs = s.faultTeam (ctxOf k) .doubleTrap (r.addr.getD 0) pc) ∧
      ((s.group k).h = false → (∀ b, r.cause.routeBit = some b → (s.group k).ctl.troute.getLsbD b = false) →
        s.takeTrap k rs = s.faultTeam (ctxOf k) r.cause (r.addr.getD 0) pc))) ∧
  (∀ (s : State) (k : Nat) (rs : List Raised) (r : Raised) (p : PRun), isPolicy k = true → trapCause rs = some r →
    (s.engine (clusterOfEngine k)).run = some p →
    s.takeTrap k rs = s.setEngine (clusterOfEngine k)
      { s.engine (clusterOfEngine k) with run := some { p with status := .failed } })) ∧
  (∀ (s : State) (ctx : Nat) (c : Cause) (addr pc : Nat),
    (mfind ctx s.teams = none → s.faultTeam ctx c addr pc = s) ∧
    (∀ t, mfind ctx s.teams = some t →
      let u := s.faultTeam ctx c addr pc
      mfind ctx u.teams = none ∧ (∀ k, isPolicy k = false → ctxOf k = ctx → mfind k u.groups = none) ∧
        (∀ core e, e ∈ mget [] u.sfu core → isPolicy e.grp = false → (mfind e.grp s.groups).isSome = true → ctxOf e.grp ≠ ctx) ∧
        ∀ cl e, e ∈ mget [] u.caches.tlb cl → e.ctx ≠ ctx))

/-- DERIVED (R9, R25, R26, R28, R31, R69, R70, R203): an instruction of which a needed register, tile or port is not ready and
whose wait bit says wait, or whose destination is not full, changes nothing but that the issue is noted as stalled; one whose
wait bit is clear traps every lane at the issue PC (FE_EMPTY, QUEUE_EMPTY or QUEUE_FULL, the first in check 9's order A, B, C,
E, the guards, a port named as D). Registers are examined in the quarters, and ports for the number, of the lanes at the issue
PC that no ready guard excludes, which are the executing lanes where the guards are ready. That reading of R25 beside R70
(checks are made before the guards are evaluated) is the model's: log entry 35. Said of every register instruction that
computes D. -/
def Obligations.NotReadyWaitsOrTraps : Prop :=
  (∀ (g : Group) (op : Nat) (f : Fields) (l : Nat),
    (ownGuards op = false → (l ∈ expected g op f ↔ l ∈ g.atIssue ∧
      ∀ gd ∈ [f.g0, f.g1], guardPass g gd l = true ∨ g.emptyIn gd.reg.toNat (quarter l) = true)) ∧
    ((∀ r ∈ guardRegs f, ∀ l ∈ g.atIssue, g.emptyIn r (quarter l) = false) → expected g op f = executing g op f)) ∧
  ∀ (i : Instr) (a : Alu) (s : State), aluOf i = some a → s.g.atIssue ≠ [] →
    checkFields s.t s.g (isPolicy s.cur) a.op a.f a.legal = none →
    let ex := expected s.g a.op a.f
    let missing := (allNeeds s.g a.op a.f false ex).filter fun n => !n.met s.g (quartersOf ex) ex.length
    (∀ c, missing.findSome? Need.trap = some c → Machine.exec i s = .next (s.opened.trapAll s.cur c)) ∧
    (missing.findSome? Need.trap = none →
      (missing ≠ [] ∨ dstReady s.g (quartersOf (s.exLanes a.op a.f)) a.op a.f = false) →
      Machine.exec i s = .next { s with stalled := true })

/-- DERIVED (R65, R215): where guards that are ready exclude every lane at the issue PC and no guard is marked, the lanes move past
the instruction and nothing else happens. Said of every register instruction that computes D. -/
def Obligations.GuardedOff : Prop :=
  ∀ (i : Instr) (a : Alu) (s : State), aluOf i = some a → s.g.atIssue ≠ [] →
    checkFields s.t s.g (isPolicy s.cur) a.op a.f a.legal = none →
    (∀ n ∈ needs a.op a.f false, n.met s.g [] 0 = true) → expected s.g a.op a.f = [] →
    (∀ l ∈ s.g.atIssue, markedIn s.g a.op a.f false [] l = none) →
    ∃ g', Machine.exec i s = .next (s.setGroup s.cur g') ∧ GroupStep s.g g' noReg (s.g.nextPc (formLen a.f.form))

/-! ### Integer, floating-point and conversion instructions -/

/-- DERIVED (R9, R18, R24, R65, R171, R173 to R176, R178 to R182, R184 to R196): completion, result and frame of the 59
register instructions that compute one register: IADD, ISUB, IMUL, IMULH, IMIN, IMAX, AND, OR, XOR, ANDN, SHL, SHR, SAR,
ROT and their immediate rows, IABS, MOV, POPC, CLZ, BREV, MOVI, IMAD, ICMP, SEL, BFE, BFI, BYTX, FADD, FSUB, FMUL, FFMA,
FMIN, FMAX, FCMP, FCLASS, FRND, CVT, F2I, I2F, PACK, UNPK, BSCL, DUADD, DUMUL, DUFMA, DUMAX. Where the instruction issues
and names no port, the machine goes on: D of every executing lane is the value of `aluOf`, the lanes at the issue PC move
past the instruction, and every other register, lane, flag bit, group, and all of memory, are unchanged. -/
def Obligations.RegisterInstructions : Prop :=
  ∀ (i : Instr) (a : Alu) (s : State), aluOf i = some a → Issues s a.op a.f (fun _ _ => a.legal) false →
    noPorts a.op a.f →
    ∃ g', Machine.exec i s = .next (s.setGroup s.cur g') ∧
      GroupStep s.g g' (oneReg a.f.d.toNat (s.exLanes a.op a.f) (a.val (s.rd a.op a.f))) (s.g.nextPc (formLen a.f.form))

/-- DERIVED (R27, R28, R171, R184, R25): The same instructions with D a port: the executing lanes' values, in lane order,
are one message appended to the port's elements to send; elements of the ports that A and B name are taken; no register
changes. The same instructions with a port as a source and a register D (queue-fed moves): the elements are taken, D
becomes empty in the quarters of the executing lanes, and one uncounted operation holds the values until they land; no
register changes yet. -/
def Obligations.PortsAndQueueFed : Prop :=
  (∀ (i : Instr) (a : Alu) (s : State), aluOf i = some a → Issues s a.op a.f (fun _ _ => a.legal) false →
    isPort a.f.d.toNat = true →
    ∃ g', Machine.exec i s = .next (s.setGroup s.cur g') ∧
      (∀ q, g'.port q =
        let p := s.g.portAfter a.op a.f (s.exLanes a.op a.f).length q
        if a.f.d.toNat = 120 + q then { p with out := p.out ++ [(s.exLanes a.op a.f).map (a.val (s.rd a.op a.f))] } else p) ∧
      (∀ l, g'.pcOf l = s.g.nextPc (formLen a.f.form) l) ∧ g'.park = s.g.unpark.park ∧
      { g' with ports := s.g.ports, pc := s.g.pc, park := s.g.park } = s.g) ∧
  (∀ (i : Instr) (a : Alu) (s : State), aluOf i = some a → Issues s a.op a.f (fun _ _ => a.legal) false →
    queueFed a.op a.f = true → isPort a.f.d.toNat = false →
    ∃ g', Machine.exec i s = .next { s.setGroup s.cur g' with nextId := s.nextId + 1 } ∧
      (∀ q, g'.port q = s.g.portAfter a.op a.f (s.exLanes a.op a.f).length q) ∧
      (let ls := (s.exLanes a.op a.f).map fun l => (⟨l, 0, [], .known [(a.f.d.toNat, a.val (s.rd a.op a.f) l)]⟩ : LaneLoad)
       g'.ops = s.g.ops ++
        [{ id := s.nextId, cls := 6, kind := .load ls [a.f.d.toNat] (quartersOf (s.exLanes a.op a.f)) }]) ∧
      (∀ r q, q < 4 → g'.emptyIn r q =
        if r = a.f.d.toNat ∧ q ∈ quartersOf (s.exLanes a.op a.f) then true else s.g.emptyIn r q) ∧
      (∀ l, g'.pcOf l = s.g.nextPc (formLen a.f.form) l) ∧ g'.park = s.g.unpark.park ∧
      { g' with ports := s.g.ports, ops := s.g.ops, empties := s.g.empties, pc := s.g.pc, park := s.g.park } = s.g)

/-- DERIVED (R173, R174, R178, R176, R181, R179, R188): The results of integer arithmetic as integers: IADD and ISUB wrap,
or under .sat clamp to the signed range; IMULH is the high half of the exact signed or unsigned product; IMIN and IMAX are
one of the operands and bound both; IABS of the most negative word is itself; IMADW adds the exact 64-bit product. Shifts
by their whole count, also of 32 and more; rotation by the count modulo 32; a field that BFE extracts and BFI inserts lies
within the word; under .s BFE's field is read as two's complement, and an empty field is 0. POPC, CLZ and BREV bit by bit:
POPC is the number of set bits; CLZ is the number of leading zero bits; BREV exchanges bit i with bit 31 − i. ICMP's ten
comparisons, as signed and unsigned integers; FCMP's ordered comparisons are false and its unordered ones true where an
operand is NaN. -/
def Obligations.IntegerValues : Prop :=
  ((∀ a b : Word, iaddRes 0 a b = a + b ∧ isubRes 0 a b = a - b ∧
    (iaddRes 1 a b).toInt = max (-2 ^ 31) (min (2 ^ 31 - 1) (a.toInt + b.toInt)) ∧
    (isubRes 1 a b).toInt = max (-2 ^ 31) (min (2 ^ 31 - 1) (a.toInt - b.toInt))) ∧
  (∀ a b : Word, (imulhRes 0 a b).toInt = a.toInt * b.toInt / 2 ^ 32 ∧ (imulhRes 1 a b).toNat = a.toNat * b.toNat / 2 ^ 32) ∧
  (∀ a b : Word, (iminRes 0 a b).toInt = min a.toInt b.toInt ∧ (iminRes 1 a b).toNat = min a.toNat b.toNat ∧
    (imaxRes 0 a b).toInt = max a.toInt b.toInt ∧ (imaxRes 1 a b).toNat = max a.toNat b.toNat) ∧
  (∀ a : Word, (iabsRes a).toNat = a.toInt.natAbs) ∧
  (∀ (a b : Word) (c : BitVec 64),
    (imadwRes 1 a b c).toNat = (a.toNat * b.toNat + c.toNat) % 2 ^ 64 ∧
    (imadwRes 0 a b c).toInt = (a.toInt * b.toInt + c.toInt).bmod (2 ^ 64))) ∧
  ((∀ a b : Word, (shlRes a b).toNat = a.toNat * 2 ^ b.toNat % 2 ^ 32 ∧ (shrRes a b).toNat = a.toNat / 2 ^ b.toNat ∧
    (sarRes a b).toInt = a.toInt / 2 ^ b.toNat ∧
    rotRes a b = (a <<< (b.toNat % 32) ||| a >>> (32 - b.toNat % 32))) ∧
  (∀ a b : Word, (bfeRes 0 a b).toNat = a.toNat / 2 ^ (b.toNat % 256) % 2 ^ fieldLen b ∧
    fieldLen b + min (b.toNat % 256) 32 ≤ 32 ∧
    let x := a.toNat / 2 ^ (b.toNat % 256) % 2 ^ fieldLen b
    (fieldLen b = 0 → bfeRes 1 a b = 0#32) ∧
      (0 < fieldLen b → (bfeRes 1 a b).toInt = if 2 * x < 2 ^ fieldLen b then (x : Int) else x - 2 ^ fieldLen b)) ∧
  (∀ (a b c : Word) (i : Nat), i < 32 → (bfiRes a b c).getLsbD i =
    if b.toNat % 256 ≤ i ∧ i < b.toNat % 256 + fieldLen b then a.getLsbD (i - b.toNat % 256) else c.getLsbD i)) ∧
  ((∀ a : Word, (popcRes a).toNat = ((List.range 32).map fun i => a.toNat / 2 ^ i % 2).sum) ∧
  (∀ a : Word, a.toNat < 2 ^ (32 - (clzRes a).toNat) ∧ (a ≠ 0#32 → 2 ^ (31 - (clzRes a).toNat) ≤ a.toNat)) ∧
  (∀ (a : Word) (i : Nat), i < 32 → (brevRes a).getLsbD i = a.getLsbD (31 - i))) ∧
  ((∀ a b : Word,
    (icmp 0 a b = true ↔ a = b) ∧ (icmp 1 a b = true ↔ a ≠ b) ∧
    (icmp 2 a b = true ↔ a.toInt < b.toInt) ∧ (icmp 3 a b = true ↔ a.toInt ≤ b.toInt) ∧
    (icmp 4 a b = true ↔ b.toInt < a.toInt) ∧ (icmp 5 a b = true ↔ b.toInt ≤ a.toInt) ∧
    (icmp 6 a b = true ↔ a.toNat < b.toNat) ∧ (icmp 7 a b = true ↔ a.toNat ≤ b.toNat) ∧
    (icmp 8 a b = true ↔ b.toNat < a.toNat) ∧ (icmp 9 a b = true ↔ b.toNat ≤ a.toNat)) ∧
  (∀ a b : Nat, (decodeVal fp32 a).isNan = true ∨ (decodeVal fp32 b).isNan = true →
    fcmp 0 a b = false ∧ fcmp 1 a b = false ∧ fcmp 2 a b = false ∧ fcmp 3 a b = false ∧ fcmp 4 a b = false ∧
    fcmp 5 a b = false ∧ fcmp 6 a b = true ∧ fcmp 7 a b = false ∧ fcmp 8 a b = true))

/-- DERIVED (R177, R178, R183): IADDC and ISUBB complete with the sum or difference modulo 2^32 in D and then the carry or
borrow out in bit E of C; where D is C, the written D supplies the other bits; where they name no port, nothing else
changes. IMADW and LEA complete with their 64-bit result in the pair D of every executing lane; where they name no port,
nothing else changes. -/
def Obligations.PairsAndCarries : Prop :=
  (∀ (s : State) (f : Fields) (sub : Bool) (op : Nat) (i : Instr),
    (sub = false ∧ op = 0x22 ∧ i = .iaddc f ∨ sub = true ∧ op = 0x23 ∧ i = .isubb f) →
    Issues s op f (fun _ _ => bitE f) false → noPorts op f →
    let r := s.rd op f
    let cin := fun l => ((r.c f l).getLsbD f.e.toNat).toNat
    let v := fun l => if sub then word ((r.a f l).toNat - (r.b op f l).toNat - cin l)
      else word ((r.a f l).toNat + (r.b op f l).toNat + cin l)
    let out := fun l => if sub then decide (((r.a f l).toNat - (r.b op f l).toNat - cin l : Int) < 0)
      else decide (2 ^ 32 ≤ (r.a f l).toNat + (r.b op f l).toNat + cin l)
    ∃ g', Machine.exec i s = .next (s.setGroup s.cur g') ∧
      GroupStep s.g g'
        (fun x l =>
          if x = f.c.toNat ∧ l ∈ s.exLanes op f then
            some (setBit (if f.c = f.d then v l else s.g.reg f.c.toNat l) f.e.toNat (out l))
          else oneReg f.d.toNat (s.exLanes op f) v x l)
        (s.g.nextPc (formLen f.form))) ∧
  (∀ (s : State) (f : Fields),
    (Issues s 0x27 f always false → queueFed 0x27 f = false →
      ∃ g', Machine.exec (.imadw f) s = .next (s.setGroup s.cur g') ∧
        GroupStep s.g g' (onePair f.d.toNat (s.exLanes 0x27 f) fun l =>
          imadwRes f.sub.toNat ((s.rd 0x27 f).a f l) ((s.rd 0x27 f).b 0x27 f l) (s.g.pair f.c.toNat l))
          (s.g.nextPc (formLen f.form))) ∧
    (Issues s 0x2D f (fun _ _ => f.e.toNat < 8) false → queueFed 0x2D f = false →
      ∃ g', Machine.exec (.lea f) s = .next (s.setGroup s.cur g') ∧
        GroupStep s.g g' (onePair f.d.toNat (s.exLanes 0x2D f) fun l =>
          s.g.pair f.a.toNat l + (if f.form = .xL then f.lit else ((s.rd 0x2D f).b 0x2D f l).signExtend 64) <<< f.e.toNat)
          (s.g.nextPc (formLen f.form))))

/-- DERIVED (R27, R28, R171, R177, R178, R183): the forms of IADDC, ISUBB, IMADW and LEA that name ports. With a port as a
source and a register D, the elements are taken, D (or the pair D) becomes empty in the executing quarters and one uncounted
operation holds the values: those that the instruction computes, with the carry in bit E where D is C. IADDC and ISUBB with D
a port push the executing lanes' values as one message. Where D is not C, bit E of C receives the carry at once, which is the
model's choice for a queue-fed form (log entry 92); nothing else changes. -/
def Obligations.QueueFedPairsAndCarries : Prop :=
  ∀ (s : State) (f : Fields),
    (∀ (sub : Bool) (op : Nat) (i : Instr), (sub = false ∧ op = 0x22 ∧ i = .iaddc f ∨ sub = true ∧ op = 0x23 ∧ i = .isubb f) →
      Issues s op f (fun _ _ => bitE f) false →
      let r := s.rd op f
      let ex := s.exLanes op f
      let cin := fun l => ((r.c f l).getLsbD f.e.toNat).toNat
      let v := fun l => if sub then word ((r.a f l).toNat - (r.b op f l).toNat - cin l)
        else word ((r.a f l).toNat + (r.b op f l).toNat + cin l)
      let out := fun l => if sub then decide (((r.a f l).toNat - (r.b op f l).toNat - cin l : Int) < 0)
        else decide (2 ^ 32 ≤ (r.a f l).toNat + (r.b op f l).toNat + cin l)
      let carry := fun x l => if x = f.c.toNat ∧ l ∈ ex ∧ f.c ≠ f.d then
        some (setBit (s.g.reg f.c.toNat l) f.e.toNat (out l)) else none
      (queueFed op f = true → isPort f.d.toNat = false →
        ∃ g', Machine.exec i s = .next { s.setGroup s.cur g' with nextId := s.nextId + 1 } ∧
          (∀ q, g'.port q = s.g.portAfter op f ex.length q) ∧
          (∀ x l, l < 32 → g'.reg x l = (carry x l).getD (s.g.reg x l) ∧
            g'.markOf x l = if (carry x l).isSome then none else s.g.markOf x l) ∧
          OpStep { s.g with ports := g'.ports, regs := g'.regs, marks := g'.marks } g'
            { id := s.nextId, cls := 6, kind := .load (ex.map fun l => ⟨l, 0, [],
                .known [(f.d.toNat, if f.c = f.d then setBit (v l) f.e.toNat (out l) else v l)]⟩) [f.d.toNat]
                (quartersOf ex) }
            [f.d.toNat] (quartersOf ex) (formLen f.form)) ∧
      (isPort f.d.toNat = true →
        ∃ g', Machine.exec i s = .next (s.setGroup s.cur g') ∧
          (∀ q, g'.port q =
            let p := s.g.portAfter op f ex.length q
            if f.d.toNat = 120 + q then { p with out := p.out ++ [ex.map v] } else p) ∧
          GroupStep { s.g with ports := g'.ports } g' carry (s.g.nextPc (formLen f.form)))) ∧
    (∀ (op : Nat) (i : Instr) (legal : Bool) (v : Nat → BitVec 64),
      (op = 0x27 ∧ i = .imadw f ∧ legal = true ∧ v = (fun l =>
          imadwRes f.sub.toNat ((s.rd 0x27 f).a f l) ((s.rd 0x27 f).b 0x27 f l) (s.g.pair f.c.toNat l)) ∨
        op = 0x2D ∧ i = .lea f ∧ legal = decide (f.e.toNat < 8) ∧ v = fun l => s.g.pair f.a.toNat l +
          (if f.form = .xL then f.lit else ((s.rd 0x2D f).b 0x2D f l).signExtend 64) <<< f.e.toNat) →
      Issues s op f (fun _ _ => legal) false → queueFed op f = true →
      let ex := s.exLanes op f
      ∃ g', Machine.exec i s = .next { s.setGroup s.cur g' with nextId := s.nextId + 1 } ∧
        (∀ q, g'.port q = s.g.portAfter op f ex.length q) ∧
        OpStep { s.g with ports := g'.ports } g'
          { id := s.nextId, cls := 6, kind := .load (ex.map fun l => ⟨l, 0, [],
              .known [(f.d.toNat, lo32 (v l)), (f.d.toNat + 1, hi32 (v l))]⟩) [f.d.toNat, f.d.toNat + 1] (quartersOf ex) }
          [f.d.toNat, f.d.toNat + 1] (quartersOf ex) (formLen f.form))

/-! ### SFU and cross-lane instructions -/

/-- DERIVED (R25, R28, R197, R198, R201): RCP, RSQ, SQRT, EX2, LG2, SIN, COS and TANH issue when the core's result queue
of 32 entries has room for one entry per quarter with an executing lane: each entry holds its quarter's lanes with their
results, oldest first, D becomes empty in those quarters, the elements of a port named as A are taken, and no register
changes until an entry lands. Where the queue has no room the instruction waits. SFU_RESULT_LAND: once its group has met
its next instruction, or meets none, the oldest entry of a core's result queue leaves it, its lanes receive their results
(their marks clear), and D becomes full in its quarter; nothing else changes. Before that, and with an empty queue,
nothing happens; the results of a group that has ended are discarded. -/
def Obligations.SfuInstructions : Prop :=
  (∀ (i : Instr) (op : Nat) (f : Fields) (s : State), sfuOf i = some (op, f) →
    Issues s op f (fun _ _ => !isPort f.d.toNat) false →
    let ex := s.exLanes op f
    let q := mget [] s.sfu (s.coreOf s.cur)
    (32 < q.length + (quartersOf ex).length → Machine.exec i s = .next s.opened.stall) ∧
    (q.length + (quartersOf ex).length ≤ 32 →
    ∃ g', Machine.exec i s = .next
        { s.setGroup s.cur g' with
          sfu := mset (s.coreOf s.cur)
            (q ++ (quartersOf ex).map fun n =>
              { grp := s.cur, d := f.d.toNat, q := n,
                res := (ex.filter fun l => quarter l == n).map fun l =>
                  (l, BitVec.ofNat 32 (sfuBits op ((s.rd op f).a f l))) }) s.sfu } ∧
      (∀ r n, n < 4 → g'.emptyIn r n = if r = f.d.toNat ∧ n ∈ quartersOf ex then true else s.g.emptyIn r n) ∧
      (∀ n, g'.port n = s.g.portAfter op f ex.length n) ∧
      (∀ l, g'.pcOf l = s.g.nextPc (formLen f.form) l) ∧ g'.park = s.g.unpark.park ∧
      { g' with ports := s.g.ports, empties := s.g.empties, pc := s.g.pc, park := s.g.park } = s.g)) ∧
  ((∀ (s : State) (core : Nat), mget [] s.sfu core = [] → Machine.exec (.sfuResultLand core) s = .next s) ∧
  ∀ (s : State) (core : Nat) (e : SfuEntry) (es : List SfuEntry), mget [] s.sfu core = e :: es →
    (e.fresh = true → (s.group e.grp).live ≠ [] → s.runs e.grp = true →
      Machine.exec (.sfuResultLand core) s = .next s) ∧
    (e.fresh = false ∨ (s.group e.grp).live = [] ∨ s.runs e.grp = false →
    (mfind e.grp s.groups = none →
      Machine.exec (.sfuResultLand core) s = .next { s with sfu := mput [] s.sfu core es }) ∧
    ((mfind e.grp s.groups).isSome = true → e.q < 4 → (e.res.map Prod.fst).Nodup → (∀ x ∈ e.res, x.1 < 32) →
    ∃ g', Machine.exec (.sfuResultLand core) s = .next { s.setGroup e.grp g' with sfu := mput [] s.sfu core es } ∧
      (∀ x ∈ e.res, g'.reg e.d x.1 = x.2 ∧ g'.markOf e.d x.1 = none) ∧
      (∀ r l, l < 32 → (r ≠ e.d ∨ l ∉ e.res.map Prod.fst) →
        g'.reg r l = (s.group e.grp).reg r l ∧ g'.markOf r l = (s.group e.grp).markOf r l) ∧
      (∀ r n, n < 4 → g'.emptyIn r n = if r = e.d ∧ n = e.q then false else (s.group e.grp).emptyIn r n) ∧
      { g' with regs := (s.group e.grp).regs, marks := (s.group e.grp).marks, empties := (s.group e.grp).empties } =
        s.group e.grp)))

/-- DERIVED (R202 to R206, R208 to R210, R202, R207, R203, R205): VOTE, SHFL, MATCH, SCAN and TRED complete: every
executing lane receives its result in D and the status of its named lanes in bit E of C; all sources are read before any
lane is written; nothing else changes. SHFL's sources are examined in the quarters of its source lanes too (R203), which
`Issues` asks with the rest. MRED completes with its reduction in D, the mask of the lane's class in D+1, and the status
in bit E of C, whose other bits are the new ones where C is D or D+1; nothing else changes. VOTE over the participating
lanes of the lane's tile: .all is 1 exactly when every one of them has a nonzero A, .any when some has, .uni when all or
none have; .ballot's bit j says that lane j participates and its A is nonzero; .cnt counts them. -/
def Obligations.CrossLaneInstructions : Prop :=
  ((∀ (i : Instr) (op : Nat) (f : Fields) (v : Rd → Nat → Word) (st : Rd → Nat → Bool) (s : State),
    laneOf i = some (op, f, v, st) → Issues s op f (fun _ _ => bitE f) false →
    ∃ g', Machine.exec i s = .next (s.setGroup s.cur g') ∧
      GroupStep s.g g' (withStatus s.g f.d.toNat f.c.toNat f.e.toNat (s.exLanes op f) (v (s.rd op f)) (st (s.rd op f)))
        (s.g.nextPc (formLen f.form))) ∧
  (∀ (f : Fields) (s : State), Issues s 0x61 f (fun _ _ => bitE f) false →
    ∃ g', Machine.exec (.shfl f) s = .next (s.setGroup s.cur g') ∧
      GroupStep s.g g' (withStatus s.g f.d.toNat f.c.toNat f.e.toNat (s.exLanes 0x61 f) (shflRes f (s.rd 0x61 f))
        (shflStatus f (s.rd 0x61 f))) (s.g.nextPc (formLen f.form)))) ∧
  (∀ (f : Fields) (s : State), Issues s 0x62 f (fun _ _ => bitE f) false →
    let new := onePair f.d.toNat (s.exLanes 0x62 f) (mredRes f (s.rd 0x62 f))
    ∃ g', Machine.exec (.mred f) s = .next (s.setGroup s.cur g') ∧
      GroupStep s.g g'
        (fun x l => if x = f.c.toNat ∧ l ∈ s.exLanes 0x62 f then
            some (setBit ((new x l).getD (s.g.reg x l)) f.e.toNat ((s.rd 0x62 f).status 0x62 f l))
          else new x l)
        (s.g.nextPc (formLen f.form))) ∧
  (∀ (r : Rd) (f : Fields) (l : Nat),
    let p := r.part 0x60 f l
    (f.sub = 0#8 → (voteRes f r l = 1#32 ↔ ∀ j ∈ p, r.g.reg f.a.toNat j ≠ 0#32)) ∧
    (f.sub = 1#8 → (voteRes f r l = 1#32 ↔ ∃ j ∈ p, r.g.reg f.a.toNat j ≠ 0#32)) ∧
    (f.sub = 2#8 → (voteRes f r l = 1#32 ↔
      (∀ j ∈ p, r.g.reg f.a.toNat j ≠ 0#32) ∨ ∀ j ∈ p, r.g.reg f.a.toNat j = 0#32)) ∧
    (f.sub = 3#8 → ∀ j, j < 32 → ((voteRes f r l).getLsbD j = true ↔ j ∈ p ∧ r.g.reg f.a.toNat j ≠ 0#32)) ∧
    (f.sub = 4#8 → voteRes f r l = BitVec.ofNat 32 (p.filter fun j => r.g.reg f.a.toNat j != 0#32).length))

/-- STATED (R211): PART accepts SUB 0x01 to 0x05 only (another value is ILLEGAL_SUB) and uses D only. Where some lane
executes, PART becomes SUB for the whole group and each executing lane's D receives the mask of its new tile,
(2^size − 1) × 2^base(l); where the guards exclude every lane it changes nothing; MOVTC to index 0x0C writes the same
register and no mask. -/
def Obligations.PartInstruction : Prop :=
  (∀ f : Fields, f.form = .x → ((1 ≤ f.sub.toNat ∧ f.sub.toNat ≤ 5) ↔ subOk 0x66 f.sub.toNat = true) ∧
    (subOk 0x66 f.sub.toNat = false → decodeCheck 0x66 f false = some .illegalSub) ∧
    (decodeCheck 0x66 f false = none → f.a = 0#7 ∧ f.b = 0#7 ∧ f.c = 0#7 ∧ f.e = 0#7)) ∧
  (∀ (f : Fields) (s : State), Issues s 0x66 f always false → 1 ≤ f.sub.toNat → f.sub.toNat ≤ 5 →
    let n := 2 ^ f.sub.toNat
    ∃ g', Machine.exec (.part f) s = .next (s.setGroup s.cur g') ∧
      GroupStep { s.g with ctl := { s.g.ctl with part := f.sub.setWidth 32 } } g'
        (oneReg f.d.toNat (s.exLanes 0x66 f) fun l => BitVec.ofNat 32 ((2 ^ n - 1) * 2 ^ (n * (l / n))))
        (s.g.nextPc (formLen f.form))) ∧
  (∀ (f : Fields) (s : State), gate s s.cur 0x66 f always false = .go s.g.atIssue [] → s.exLanes 0x66 f = [] →
    markRaises s.g 0x66 f false s.g.atIssue [] = [] →
    ∃ g', Machine.exec (.part f) s = .next (s.setGroup s.cur g') ∧ GroupStep s.g g' noReg (s.g.nextPc (formLen f.form))) ∧
  (∀ (f : Fields) (s : State), f.imm = 0x0C#8 → Issues s 0x10 f (fun _ _ => ctlWritable 0x0C) false →
    let w := s.g.reg f.a.toNat (lowest (s.exLanes 0x10 f))
    1 ≤ w.toNat → w.toNat ≤ 5 →
    ∃ g', Machine.exec (.movtcPart f) s = .next (s.setGroup s.cur g') ∧
      GroupStep { s.g with ctl := { s.g.ctl with part := w } } g' noReg (s.g.nextPc (formLen f.form)))

/-! ### Control instructions -/

/-- DERIVED (R18, R62, R152, R11, R153): NOP advances; BRA goes to its PC plus four times its signed word offset, or to
its literal; BRC sends the lanes whose guards pass by OFF21 words and the others past itself; CALL writes the address
after itself to its link pair and goes to its target; nothing else changes. BRX and RET send each executing lane to the
address in its pair A, where every such address is below 2^57; BRX with D nonzero also writes the address after itself to
the link pair D; nothing else changes. LOOPB: a lane whose counter plus one does not exceed CNT counts up and goes back
BOFF words; another lane's counter becomes 0 and it falls through; nothing else changes. -/
def Obligations.BranchInstructions : Prop :=
  (∀ (s : State) (f : Fields),
    (Issues s 0x00 f always false →
      ∃ g', Machine.exec (.nop f) s = .next (s.setGroup s.cur g') ∧ GroupStep s.g g' noReg (s.g.nextPc (formLen f.form))) ∧
    (Issues s 0x01 f always false →
      ∃ g', Machine.exec (.bra f) s = .next (s.setGroup s.cur g') ∧
        GroupStep s.g g' noReg (s.g.branchPc (s.exLanes 0x01 f) (formLen f.form) fun l =>
          if f.form = .bjL then f.lit else BitVec.ofInt 64 ((s.g.pcOf l).toNat + 4 * f.off.toInt))) ∧
    (Issues s 0x02 f always false →
      ∃ g', Machine.exec (.brc f) s = .next (s.setGroup s.cur g') ∧
        GroupStep s.g g' noReg (s.g.branchPc (s.exLanes 0x02 f) (formLen f.form) fun l =>
          if passes s.g f l then BitVec.ofInt 64 ((s.g.pcOf l).toNat + 4 * (f.b ++ f.a ++ f.d : BitVec 21).toInt)
          else s.g.pcOf l + 12#64)) ∧
    (Issues s 0x04 f (fun t _ => linkOk t f.d.toNat) false →
      ∃ g', Machine.exec (.call f) s = .next (s.setGroup s.cur g') ∧
        GroupStep s.g g'
          (onePair f.d.toNat (s.exLanes 0x04 f) fun l => s.g.pcOf l + BitVec.ofNat 64 (formLen f.form))
          (s.g.branchPc (s.exLanes 0x04 f) (formLen f.form) fun l =>
            if f.form = .bjL then f.lit else BitVec.ofInt 64 ((s.g.pcOf l).toNat + 4 * f.off.toInt)))) ∧
  (∀ (s : State) (f : Fields),
    (Issues s 0x03 f (fun t _ => f.d == 0#7 || linkOk t f.d.toNat) false →
      (∀ l ∈ s.exLanes 0x03 f, (s.g.pair f.a.toNat l).toNat < 2 ^ 57) →
      ∃ g', Machine.exec (.brx f) s = .next (s.setGroup s.cur g') ∧
        GroupStep s.g g'
          (if f.d = 0#7 then noReg
           else onePair f.d.toNat (s.exLanes 0x03 f) fun l => s.g.pcOf l + BitVec.ofNat 64 (formLen f.form))
          (s.g.branchPc (s.exLanes 0x03 f) (formLen f.form) fun l => s.g.pair f.a.toNat l)) ∧
    (Issues s 0x05 f always false → (∀ l ∈ s.exLanes 0x05 f, (s.g.pair f.a.toNat l).toNat < 2 ^ 57) →
      ∃ g', Machine.exec (.ret f) s = .next (s.setGroup s.cur g') ∧
        GroupStep s.g g' noReg
          (s.g.branchPc (s.exLanes 0x05 f) (formLen f.form) fun l => s.g.pair f.a.toNat l))) ∧
  (∀ (s : State) (f : Fields),
    Issues s 0x0E f (fun t _ => loopCnt f ≤ 4095 && loopOff f != 0 && f.d.toNat < t.regs) false →
    let again := fun l => decide ((s.g.reg f.d.toNat l).toNat + 1 ≤ loopCnt f)
    ∃ g', Machine.exec (.loopb f) s = .next (s.setGroup s.cur g') ∧
      GroupStep s.g g'
        (oneReg f.d.toNat (s.exLanes 0x0E f) fun l => if again l then s.g.reg f.d.toNat l + 1#32 else 0#32)
        (s.g.branchPc (s.exLanes 0x0E f) (formLen f.form) fun l =>
          if again l then BitVec.ofInt 64 ((s.g.pcOf l).toNat - 4 * (loopOff f : Int)) else s.g.pcOf l + 12#64))

/-- DERIVED (R17, R18, R22, R154, R166, R215, R156, R159, R249): EXIT, in a group with no recorded failure, sets the
executing lanes' PCs to all ones, clears their park bits and takes them out of HMASK (H clears with the last of them);
YIELD moves the executing lanes on, sets their park bits and resets the team's watchdog count, unless it has reached its
limit (R22). No register changes. WAITC, with no failure of its class recorded, completes when the class counter is at
most its number and waits before; TWAIT completes when device time has reached the target of every executing lane (window
number times WLEN, or the value in ns), and waits before. The lanes move on and nothing else changes. TWAIT_EXPIRE makes a
group whose target device time has reached eligible again. -/
def Obligations.ExitYieldAndWaits : Prop :=
  (∀ (s : State) (f : Fields), isPolicy s.cur = false →
    (Issues s 0x06 f always false → s.g.fails = [] →
      ∃ g', Machine.exec (.exit f) s = .next (s.setGroup s.cur g') ∧
        (∀ l, g'.pcOf l = s.g.branchPc (s.exLanes 0x06 f) (formLen f.form) (fun _ => exitedPC) l) ∧
        g'.park = s.g.unpark.park &&& ~~~(maskOf (s.exLanes 0x06 f)) ∧
        g'.hmask = s.g.hmask &&& ~~~(maskOf (s.exLanes 0x06 f)) ∧ g'.h = (s.g.h && g'.hmask != 0#32) ∧
        { g' with pc := s.g.pc, park := s.g.park, hmask := s.g.hmask, h := s.g.h } = s.g) ∧
    (Issues s 0x07 f always false →
      ∃ g', Machine.exec (.yield f) s = .next ((s.setGroup s.cur g').updTeam (ctxOf s.cur) fun t =>
          { t with watch := if s.wdogOf t ≤ t.watch then t.watch else 0 }) ∧
        (∀ l, g'.pcOf l = s.g.nextPc (formLen f.form) l) ∧
        g'.park = s.g.unpark.park ||| maskOf (s.exLanes 0x07 f) ∧
        { g' with pc := s.g.pc, park := s.g.park, yielded := s.g.yielded } = s.g)) ∧
  (∀ (s : State) (f : Fields),
    (Issues s 0x08 f (fun _ _ => f.a.toNat ≤ 5 && f.imm.toNat ≤ 63) false →
      (∀ p ∈ s.g.fails, p.1 ≠ f.a.toNat) →
      (s.g.count f.a.toNat ≤ f.imm.toNat →
        ∃ g', Machine.exec (.waitc f) s = .next (s.setGroup s.cur g') ∧
          GroupStep s.g g' noReg (s.g.nextPc (formLen f.form))) ∧
      (f.imm.toNat < s.g.count f.a.toNat → Machine.exec (.waitc f) s = .next s.opened.stall)) ∧
    (Issues s 0x0B f always false →
      let ex := s.exLanes 0x0B f
      let due := fun l => (if f.form = .xL then f.lit.toNat else (s.g.pair f.b.toNat (laneB f ex l)).toNat) *
        (if f.sub = 0#8 then s.dev.wlen else 1)
      ((∀ l ∈ ex, due l ≤ s.dev.time) →
        ∃ g', Machine.exec (.twait f) s = .next (s.setGroup s.cur g') ∧
          GroupStep { s.g with wait := { s.g.wait with twait := none } } g' noReg (s.g.nextPc (formLen f.form))) ∧
      ((∃ l ∈ ex, s.dev.time < due l) →
        ∃ n, s.dev.time < n ∧ (∀ l ∈ ex, due l ≤ n) ∧ (∃ l ∈ ex, due l = n) ∧
          Machine.exec (.twait f) s =
            .next (s.opened.updGroup s.cur fun g => { g with wait := { g.wait with twait := some n } }).stall)) ∧
    (∀ k, (∀ n, (s.group k).wait.twait = some n → n ≤ s.dev.time →
        Machine.exec (.twaitExpire k) s = .next { s with blocked := s.blocked.filter fun x => x != k }) ∧
      ((∀ n, (s.group k).wait.twait = some n → s.dev.time < n) → Machine.exec (.twaitExpire k) s = .next s)))

/-- DERIVED (R133, R134, R157, R215, R158): BAR, in a group with no recorded failure. Where the group has not arrived and
its release is complete, it arrives with its count; the phase completes, and with it the BAR, where some arrival's count
is the number of arrivals or less, or is 0 and every group of the team has arrived; otherwise the group waits. A group
that has arrived goes on once the phase has completed. BAR_PHASE_COMPLETE completes a phase that awaits no further
arrival, and does nothing to another. The phase moves on by one, its arrivals are none, and the lanes move on. The gang
barrier, in a group with no recorded failure. .arrive and .sync, in a group that owes no arrival of this phase and whose
release at dev completes, note the group's arrival; where every group of every team of the gang has arrived, the phase
moves on and its arrivals are none. .arrive then moves on; .sync does where the phase has completed, and otherwise waits
as .wait does. .wait, and .sync once it has arrived, complete where no arrival is owed or its phase has completed: as an
acquire at dev, the core's V words are dropped; before that they wait, also while the group's own loads are outstanding,
which is the model's reading of R134 (log entry 45). GBAR_PHASE_COMPLETE completes a phase in which every group has
arrived, and does nothing to another. -/
def Obligations.Barriers : Prop :=
  ((∀ (s : State) (f : Fields), isPolicy s.cur = false → Issues s 0x09 f (fun _ _ => f.imm.toNat ≤ 64) false →
    s.g.fails = [] →
    let arr := s.t.barArr ++ [f.imm.toNat]
    let met := ∃ n ∈ arr, if n = 0 then ∀ k ∈ s.groupsOf (ctxOf s.cur), k = s.cur ∨
      (s.group k).wait.barAt = some s.t.barPhase else n ≤ arr.length
    (s.g.wait.barAt = none → s.relTeamReady s.cur = true → met →
      ∃ g', Machine.exec (.bar f) s = .next ((s.setGroup s.cur g').updTeam (ctxOf s.cur) fun t =>
          { t with barPhase := t.barPhase + 1, barArr := [] }) ∧
        GroupStep s.g g' noReg (s.g.nextPc (formLen f.form))) ∧
    (s.g.wait.barAt = none → s.relTeamReady s.cur = true → ¬ met →
      Machine.exec (.bar f) s = .next ((s.opened.updGroup s.cur fun g =>
        { g with wait := { g.wait with barAt := some s.t.barPhase } }).updTeam (ctxOf s.cur) fun t =>
          { t with barArr := arr }).stall) ∧
    (s.g.wait.barAt = none → s.relTeamReady s.cur = false → Machine.exec (.bar f) s = .next s.opened.stall) ∧
    (∀ p, s.g.wait.barAt = some p →
      (p < s.t.barPhase → ∃ g', Machine.exec (.bar f) s = .next (s.setGroup s.cur g') ∧
        GroupStep { s.g with wait := { s.g.wait with barAt := none } } g' noReg (s.g.nextPc (formLen f.form))) ∧
      (s.t.barPhase ≤ p → Machine.exec (.bar f) s = .next s.opened.stall))) ∧
  (∀ (s : State) (ctx : Nat), let t := mget {} s.teams ctx
    let met := ∃ n ∈ t.barArr, if n = 0 then ∀ k ∈ s.groupsOf ctx, (s.group k).wait.barAt = some t.barPhase
      else n ≤ t.barArr.length
    (met → Machine.exec (.barPhaseComplete ctx) s =
      .next (s.updTeam ctx fun t => { t with barPhase := t.barPhase + 1, barArr := [] })) ∧
    (¬ met → Machine.exec (.barPhaseComplete ctx) s = .next s))) ∧
  ((∀ (s : State) (f : Fields), Issues s 0x0A f always false → s.g.fails = [] →
    let gang := s.t.gang
    let x := mget {} s.gangs gang
    let arr := x.arrived ++ [s.cur]
    let met := ∀ c ∈ x.teams, ∀ k ∈ s.groupsOf c, k ∈ arr
    let done := { s.g.wait with gbarOwed := none, gbarAt := none }
    (s.g.wait.gbarOwed ≠ some x.phase → s.relTeamReady s.cur = true →
      s.pWords (s.coreOf s.cur) (s.g.wait.relAt.getD s.nextId) = false →
      (met → ∃ g',
        (Machine.exec (.gbarArrive f) s = .next { s.setGroup s.cur g' with
            gangs := mset gang { x with phase := x.phase + 1, arrived := [] } s.gangs } ∧
          GroupStep { s.g with wait := { s.g.wait with relAt := none, gbarOwed := some x.phase } } g' noReg
            (s.g.nextPc (formLen f.form)))) ∧
      (¬ met → ∃ g',
        (Machine.exec (.gbarArrive f) s = .next { s.setGroup s.cur g' with
            gangs := mset gang { x with arrived := arr } s.gangs } ∧
          GroupStep { s.g with wait := { s.g.wait with relAt := none, gbarOwed := some x.phase } } g' noReg
            (s.g.nextPc (formLen f.form)))) ∧
      (s.g.wait.gbarAt = none → met → ∃ g',
        Machine.exec (.gbarSync f) s = .next (({ s.setGroup s.cur g' with
            gangs := mset gang { x with phase := x.phase + 1, arrived := [] } s.gangs } : State).acquire s.cur 4) ∧
          GroupStep { s.g with wait := { done with relAt := none } } g' noReg (s.g.nextPc (formLen f.form))) ∧
      (s.g.wait.gbarAt = none → ¬ met →
        Machine.exec (.gbarSync f) s = .next ({ s.opened.updGroup s.cur (fun g =>
            { g with wait := { g.wait with relAt := none, gbarOwed := some x.phase, gbarAt := some x.phase } }) with
              gangs := mset gang { x with arrived := arr } s.gangs } : State).stall)) ∧
    (s.g.wait.gbarOwed = some x.phase ∨ s.relTeamReady s.cur = false ∨
        s.pWords (s.coreOf s.cur) (s.g.wait.relAt.getD s.nextId) = true →
      Machine.exec (.gbarArrive f) s = .next (s.opened.relWait s.cur 4).stall ∧
      (s.g.wait.gbarAt = none → Machine.exec (.gbarSync f) s = .next (s.opened.relWait s.cur 4).stall)) ∧
    ((∀ p, s.g.wait.gbarOwed = some p → p < x.phase) → s.g.loading = false →
      ∃ g', Machine.exec (.gbarWait f) s = .next ((s.setGroup s.cur g').acquire s.cur 4) ∧
        (s.g.wait.gbarAt ≠ none → Machine.exec (.gbarSync f) s = .next ((s.setGroup s.cur g').acquire s.cur 4)) ∧
        GroupStep { s.g with wait := done } g' noReg (s.g.nextPc (formLen f.form))) ∧
    ((∃ p, s.g.wait.gbarOwed = some p ∧ x.phase ≤ p) ∨ s.g.loading = true →
      Machine.exec (.gbarWait f) s = .next s.opened.stall ∧
      (s.g.wait.gbarAt ≠ none → Machine.exec (.gbarSync f) s = .next s.opened.stall))) ∧
  (∀ (s : State) (gang : Nat), let x := mget {} s.gangs gang
    let met := x.arrived ≠ [] ∧ ∀ c ∈ x.teams, ∀ k ∈ s.groupsOf c, k ∈ x.arrived
    (met → Machine.exec (.gbarPhaseComplete gang) s =
      .next { s with gangs := mset gang { x with phase := x.phase + 1, arrived := [] } s.gangs }) ∧
    (¬ met → Machine.exec (.gbarPhaseComplete gang) s = .next s)))

/-! ### Control registers and traps -/

/-- DERIVED (R4, R14, R15, R35, R36, R37, R39, R160, R167): MOVC completes in a group of a team and in a policy routine: below
index 0x40, D of every executing lane receives the control register that IMM8 names, as `ctlValue` reads it once the park bits
are settled, and nothing else changes, but that reading TIMELO latches the upper half of device time for TIMEHI; from 0x40 on,
where the routine may read the counter, D receives its value, and where it may not, or none exists, the routine ends without a
decision. The last part gives the value of every index of R37 (0x11, the lanes that have exited, is log entry 68; an
accumulator's flags, log entry 42). -/
def Obligations.ControlReads : Prop :=
  (∀ (s : State) (f : Fields), Issues s 0x0F f (fun _ _ => ctlReadable f.imm.toNat || 0x40 ≤ f.imm.toNat) false →
    (f.imm.toNat < 0x40 →
      ∃ g', Machine.exec (.movc f) s = .next (s.setGroup s.cur g') ∧
        Machine.exec (.movcTimelo f) s = .next (s.setGroup s.cur g') ∧
        GroupStep
          (if f.imm = 0x09#8 then { s.g with ctl := { s.g.ctl with timehi := BitVec.ofNat 32 (s.dev.time / 2 ^ 32) } }
            else s.g)
          g' (oneReg f.d.toNat (s.exLanes 0x0F f) fun l => ctlValue s.opened s.cur f.imm.toNat l)
          (s.g.nextPc (formLen f.form))) ∧
    (0x40 ≤ f.imm.toNat →
      (∀ w, s.opened.ownCounter s.cur f.imm.toNat = some w →
        ∃ g', Machine.exec (.movc f) s = .next (s.setGroup s.cur g') ∧
          GroupStep s.g g' (oneReg f.d.toNat (s.exLanes 0x0F f) fun _ => w) (s.g.nextPc (formLen f.form))) ∧
      (s.opened.ownCounter s.cur f.imm.toNat = none → isPolicy s.cur = true →
        Machine.exec (.movc f) s =
          .next ((s.opened.pass s.cur (s.excluded 0x0F f) (formLen f.form)).policyFault s.cur)))) ∧
  (∀ (s : State) (l : Nat), isPolicy s.cur = false →
    let v := fun i => ctlValue s s.cur i l
    let n := fun i => (v i).toNat
    let wid := s.t.wid + 32 * (s.cur % 64) + l
    n 0x00 = l % 2 ^ 32 ∧ n 0x01 = s.cur % 64 ∧ n 0x02 = s.t.core % 2 ^ 32 ∧ n 0x03 = s.t.core / 8 % 2 ^ 32 ∧
    n 0x04 = s.t.core / 64 % 2 ^ 32 ∧ n 0x05 = s.dev.node.toNat ∧ n 0x06 = wid % 2 ^ 32 ∧ n 0x07 = wid / 2 ^ 32 % 2 ^ 32 ∧
    v 0x08 = s.t.widf ∧ n 0x09 = s.dev.time % 2 ^ 32 ∧ v 0x0A = s.g.ctl.timehi ∧
    n 0x0B = s.dev.time / s.dev.wlen % 2 ^ 32 ∧ v 0x0C = s.g.ctl.part ∧ v 0x0D = s.g.ctl.prio ∧ v 0x0E = s.g.ctl.qmap ∧
    (∀ j, j < 32 → ((v 0x10).getLsbD j = true ↔ j ∈ s.g.atIssue)) ∧
    (∀ j, j < 32 → ((v 0x11).getLsbD j = true ↔ s.g.pcOf j = exitedPC)) ∧
    v 0x12 = s.g.park ∧ v 0x13 = s.g.ctl.tvec ∧ n 0x14 = (mget 0 s.g.tcause l).toNat ∧ v 0x15 = mget 0 s.g.tepc l ∧
    n 0x17 * 2 ^ 32 + n 0x16 = (mget 0 s.g.taddr l).toNat ∧ v 0x18 = s.g.ctl.troute ∧ v 0x19 = s.g.ctl.cltmo ∧
    (s.t.accs ≤ 8 → ∀ k, k < 8 →
      (v 0x1A).getLsbD k = (decide (k < s.t.accs) && (s.acc s.t.core (quarter l) (s.g.acc + k)).inx) ∧
      (v 0x1A).getLsbD (8 + k) = (decide (k < s.t.accs) && (s.acc s.t.core (quarter l) (s.g.acc + k)).ovf)) ∧
    pair64 (v 0x1B) (v 0x1C) = s.g.pcOf l ∧ v 0x1D = s.g.ctl.msgloc ∧ v 0x1E = s.g.ctl.msgdst ∧
    (∀ k, k < 16 → v (0x20 + k) = mget 0 s.g.ctl.tc k) ∧
    (∀ k, k < 6 → n (0x30 + k) = (s.g.ops.filter fun o => o.cls == k).length % 2 ^ 32) ∧
    (∀ k, k < 4 → v (0x38 + k) = Config.capMask.extractLsb' (32 * k) 32) ∧
    v 0x3C = s.t.taskKey ∧ pair64 (v 0x3D) (v 0x3E) = s.t.taskPay)

/-- DERIVED (R18, R32, R35, R36, R161, R228, R27, R29, R30): MOVTC takes the value of A in the lowest executing lane. PRIO
(at most 15), TVEC (a multiple of 4), TROUTE (26 bits), CLTMO, MSGLOC (12 bits) and MSGDST (28 bits) receive it; TCk,
where it keeps the limits of R32 and its INT3 rows are whole (R228, log entry 80), with tile k's resolved type (0 where
TYPE is 15) and its scale slots reset; PARKMASK as the bits of lanes that have not exited. TCAUSE and TEPC receive each
executing lane's own value, where those keep their layouts. The lanes move on, and nothing else changes. MOVTC ACCST: in
every quarter with an executing lane, the INX and OVF flags of the accumulators that the group owns in that quarter's unit
become bits k and 8 + k of the value of its lowest executing lane, without an ACC_CLAIM where an accumulator holds other
contents, which is the model's reading (log entry 42); no other accumulator state and no register changes. MOVTC QMAP with
a value of kinds 0 to 4, where every port whose binding it changes has no outstanding operation and no unsent element, and
at most one of them becomes of kind 4, the endpoint that MSGLOC names being free and of the team's PARTID: the changed
ports are discarded and the endpoints that they held released; the port of kind 4 takes that endpoint and the destination
of MSGDST; QMAP receives the value; nothing else changes. Where the endpoint is not free, be it that a port which the
write changes holds it, every executing lane raises ILLEGAL_OPND. -/
def Obligations.ControlWrites : Prop :=
  (∀ (s : State) (f : Fields), Issues s 0x10 f (fun _ _ => ctlWritable f.imm.toNat) false →
    let ex := s.exLanes 0x10 f
    let w := s.g.reg f.a.toNat (lowest ex)
    let c := s.g.ctl
    (∀ (i : BitVec 8) (ok : Prop) (c' : Ctl), f.imm = i → ok →
      (i, ok, c') ∈ ([(0x0D#8, w.toNat ≤ 15, { c with prio := w }), (0x13#8, w.toNat % 4 = 0, { c with tvec := w }),
        (0x18#8, w.toNat < 2 ^ 26, { c with troute := w }), (0x19#8, True, { c with cltmo := w }),
        (0x1D#8, w.toNat < 2 ^ 12, { c with msgloc := w }), (0x1E#8, w.toNat < 2 ^ 28, { c with msgdst := w })] :
          List (BitVec 8 × Prop × Ctl)) →
      ∃ g', Machine.exec (.movtc f) s = .next (s.setGroup s.cur g') ∧
        GroupStep { s.g with ctl := c' } g' noReg (s.g.nextPc (formLen f.form))) ∧
    (f.imm = 0x14#8 → (∀ l ∈ ex, (s.g.reg f.a.toNat l).toNat < 256) →
      ∃ g', Machine.exec (.movtc f) s = .next (s.setGroup s.cur g') ∧
        (∀ l, mget 0 g'.tcause l = if l ∈ ex then (s.g.reg f.a.toNat l).setWidth 8 else mget 0 s.g.tcause l) ∧
        GroupStep { s.g with tcause := g'.tcause } g' noReg (s.g.nextPc (formLen f.form))) ∧
    (f.imm = 0x15#8 → (∀ l ∈ ex, (s.g.reg f.a.toNat l).toNat % 4 = 0) →
      ∃ g', Machine.exec (.movtc f) s = .next (s.setGroup s.cur g') ∧
        (∀ l, mget 0 g'.tepc l = if l ∈ ex then s.g.reg f.a.toNat l else mget 0 s.g.tepc l) ∧
        GroupStep { s.g with tepc := g'.tepc } g' noReg (s.g.nextPc (formLen f.form))) ∧
    (∀ k, k < 16 → f.imm.toNat = 0x20 + k → w.extractLsb' 14 18 = 0#18 →
      ¬ (9 ≤ (w.extractLsb' 0 4).toNat ∧ (w.extractLsb' 0 4).toNat ≤ 14) →
      ((w.extractLsb' 4 6).toNat + 1) * (16 * ((w.extractLsb' 10 4).toNat + 1)) ≤ 4096 →
      ((w.extractLsb' 0 4).toNat = 2 → ((w.extractLsb' 10 4).toNat + 1) % 3 = 0) →
      ∃ g', Machine.exec (.movtcTc f) s = .next (s.setGroup s.cur g') ∧ g'.ctl = { c with tc := mput 0 c.tc k w } ∧
        (∀ j, g'.tile j = if j = k then
            { s.g.tile k with rt := if (w.extractLsb' 0 4).toNat = 15 then 0 else (w.extractLsb' 0 4).toNat, slots := [] }
          else s.g.tile j) ∧
        GroupStep { s.g with ctl := g'.ctl, tiles := g'.tiles } g' noReg (s.g.nextPc (formLen f.form))) ∧
    (f.imm = 0x12#8 →
      ∃ g', Machine.exec (.movtcParkmask f) s = .next (s.setGroup s.cur g') ∧
        (∀ l, l < 32 → laneBit g'.park l = (w.getLsbD l && s.g.pcOf l != exitedPC)) ∧
        (∀ l, g'.pcOf l = s.g.nextPc (formLen f.form) l) ∧ { g' with pc := s.g.pc, park := s.g.park } = s.g)) ∧
  (∀ (s : State) (f : Fields), f.imm = 0x1A#8 → Issues s 0x10 f (fun _ _ => true) false →
    let ex := s.exLanes 0x10 f
    let v := fun q => s.g.reg f.a.toNat (lowest (ex.filter fun l => quarter l == q))
    (∀ q ∈ quartersOf ex, (v q).toNat < 2 ^ 16) → s.g.acc + s.t.accs ≤ 8 →
    ∃ (t : State) (g' : Group), Machine.exec (.movtcAccst f) s = .next (t.setGroup s.cur g') ∧ { t with accs := s.accs } = s ∧
      GroupStep s.g g' noReg (s.g.nextPc (formLen f.form)) ∧
      (∀ c q p, q < 4 → p < 8 → t.acc c q p =
        if c = s.t.core ∧ q ∈ quartersOf ex ∧ s.g.acc ≤ p ∧ p < s.g.acc + s.t.accs then
          { s.acc c q p with inx := (v q).getLsbD (p - s.g.acc), ovf := (v q).getLsbD (8 + (p - s.g.acc)) }
        else s.acc c q p)) ∧
  (∀ (s : State) (f : Fields), f.imm = 0x0E#8 → Issues s 0x10 f (fun _ _ => true) false →
    let w := s.g.reg f.a.toNat (lowest (s.exLanes 0x10 f))
    let ch := changedPorts s.g w
    let ep := bits s.g.ctl.msgloc.toNat 11 0
    let kind := fun q => bits w.toNat (4 * q + 2) (4 * q)
    ((∃ q ∈ ch, kind q = 4) → endpointFree s s.cur = false →
      Machine.exec (.movtcQmap f) s =
        .next ((s.opened.pass s.cur (s.excluded 0x10 f) (formLen f.form)).takeTrap s.cur (allOpnd (s.exLanes 0x10 f)))) ∧
    ((∀ q, q < 8 → bits w.toNat (4 * q + 3) (4 * q) ≤ 4) →
    (∀ q ∈ ch, portQuiet s.g q = true) →
    (∀ q ∈ ch, kind q = 4 → endpointFree s s.cur = true ∧
      ∀ q' ∈ ch, (kind q' = 4 → q' = q) ∧ (s.g.port q').local? ≠ some ep) →
    ∃ (t : State) (g' : Group), Machine.exec (.movtcQmap f) s = .next (t.setGroup s.cur g') ∧
      { t with dev := { t.dev with endpoints := s.dev.endpoints } } = s ∧
      (∀ q, g'.port q =
        if q ∈ ch then
          if kind q = 4 then
            { local? := some ep, node := bits s.g.ctl.msgdst.toNat 15 0, dest := bits s.g.ctl.msgdst.toNat 27 16 }
          else {}
        else s.g.port q) ∧
      (∀ e, mfind e t.dev.endpoints = (mfind e s.dev.endpoints).map fun x =>
        match ch.find? fun q => kind q == 4 && e == ep with
        | some q => { x with holder := some (8 * s.cur + q) }
        | none => if ch.any fun q => (s.g.port q).local? == some e then { x with holder := none } else x) ∧
      GroupStep { s.g with ctl := { s.g.ctl with qmap := w }, ports := g'.ports } g' noReg (s.g.nextPc (formLen f.form))))

/-- DERIVED (R133, R162, R163, R165): TRAP raises USER_TRAP in every executing lane: in a group outside its handler whose
TROUTE bit for it is set, those lanes receive the cause and their own PC, H becomes 1, HMASK their mask, and they go to TVEC;
in a group whose TROUTE bit is clear the team ends with a FAULT event, and in one that is in its handler with that of a
DOUBLE_TRAP. -/
def Obligations.TrapInstruction : Prop :=
  ∀ (s : State) (f : Fields) (b : Nat), isPolicy s.cur = false → Issues s 0x0C f always false →
    Cause.routeBit .userTrap = some b →
    let ex := s.exLanes 0x0C f
    let u := s.opened.pass s.cur (s.excluded 0x0C f) (formLen f.form)
    let pc := ((s.g.pcOf (lowest ex)).setWidth 32 : Word).toNat
    (s.g.h = false → s.g.ctl.troute.getLsbD b = true →
      ∃ g', Machine.exec (.trap f) s = .next (s.setGroup s.cur g') ∧ g'.h = true ∧ g'.hmask = maskOf ex ∧
        (∀ l, g'.pcOf l = if l ∈ ex then (s.g.pcOf l).extractLsb' 32 32 ++ s.g.ctl.tvec
          else s.g.nextPc (formLen f.form) l) ∧
        (∀ l, mget 0 g'.tcause l = if l ∈ ex then BitVec.ofNat 8 (Cause.code .userTrap) else mget 0 s.g.tcause l) ∧
        (∀ l, mget 0 g'.tepc l = if l ∈ ex then (s.g.pcOf l).setWidth 32 else mget 0 s.g.tepc l) ∧
        g'.park = s.g.unpark.park ∧ g'.wait = { s.g.wait with relAt := none, kq := none } ∧
        { g' with pc := s.g.pc, park := s.g.park, tcause := s.g.tcause, tepc := s.g.tepc, hmask := s.g.hmask,
                  h := s.g.h, wait := s.g.wait } = s.g) ∧
    (s.g.h = false → s.g.ctl.troute.getLsbD b = false →
      Machine.exec (.trap f) s = .next (u.faultTeam (ctxOf s.cur) .userTrap 0 pc)) ∧
    (s.g.h = true → Machine.exec (.trap f) s = .next (u.faultTeam (ctxOf s.cur) .doubleTrap 0 pc))

/-- STATED (R166): TRET has OP 0x0D and, in form B3, uses no field. In every group that is in its handler (H = 1), each
executing lane's PC becomes bits 63:32 of its PC followed by its TEPC, the executing lanes leave HMASK, and H is 1 exactly
when HMASK is not empty; nothing else changes. With H = 0 every lane at the issue PC traps ILLEGAL_OPND. A lane that exits
leaves HMASK too, and H clears when that empties it. -/
def Obligations.TrapReturn : Prop :=
  (∀ f : Fields, opOf (.tret f) = some 0x0D ∧ (wf (.tret f) = true → f = { form := .b3 })) ∧
  (∀ (s : State) (f : Fields), Issues s 0x0D f (fun _ g => g.h) false →
    ∃ g', Machine.exec (.tret f) s = .next (s.setGroup s.cur g') ∧
      (∀ l, g'.pcOf l = if l ∈ s.exLanes 0x0D f then (s.g.pcOf l).extractLsb' 32 32 ++ mget 0 s.g.tepc l
        else s.g.nextPc (formLen f.form) l) ∧
      (∀ l, l < 32 → laneBit g'.hmask l = (laneBit s.g.hmask l && !(s.exLanes 0x0D f).contains l)) ∧
      (g'.h = true ↔ g'.hmask ≠ 0#32) ∧ g'.park = s.g.unpark.park ∧
      { g' with pc := s.g.pc, park := s.g.park, hmask := s.g.hmask, h := s.g.h } = s.g) ∧
  (∀ (s : State) (f : Fields), isPolicy s.cur = false → s.g.atIssue ≠ [] → s.g.h = false →
    Machine.exec (.tret f) s = .next (s.opened.takeTrap s.cur
      ((s.opened.group s.cur).atIssue.map fun l => ⟨l, .illegalOpnd, none⟩))) ∧
  (∀ (s : State) (f : Fields), isPolicy s.cur = false → Issues s 0x06 f always false → s.g.fails = [] →
    ∃ g', Machine.exec (.exit f) s = .next (s.setGroup s.cur g') ∧
      (∀ l, l < 32 → laneBit g'.hmask l = (laneBit s.g.hmask l && !(s.exLanes 0x06 f).contains l)) ∧
      (g'.hmask = 0#32 → g'.h = false))

/-! ### Memory instructions -/

/-- DERIVED (R25, R39, R52, R78, R129, R213, R214, R216, R217, R293, R312): LD and LD .fx issue where every executing lane's
access passes its checks, no earlier access of the group to those words must come first, and the LD counter and the miss slots
have room: the destination registers become empty in the executing lanes' quarters and one LD operation holds what each lane
waits for (under .fx its element with its scale). Where an earlier access must come first or there is no room, they wait.
Outside the group only the caches, the leaf entries that the walker marks as accessed, the miss counter and the next name
change: no register, and no byte of memory. A lane of LD .fx reads the element at the index that its registers give, of the
page of its address. LD in a policy routine takes its pocket words at once. An instruction that misses lines needs miss slots
for them all, of 256, or all the slots free, and then takes what there are (R229 asks a load of more lines to complete; that
it starts only with every slot free is the model's reading, log entry 93). -/
def Obligations.LoadIssues : Prop :=
  (∀ (s : State) (f : Fields) (xs : List Access), isPolicy s.cur = false → Issues s 0x70 f always false →
    let o := s.opened
    let ex := s.exLanes 0x70 f
    let sz := bits f.sub.toNat 5 3
    s.accesses 0x70 f (isPrivate f) .load (sizeBytes sz) xs →
    let ls := xs.map fun x => (⟨x.lane, x.va, o.loadSlots s.cur (sizeBytes sz) xs x,
      .sized f.d.toNat sz (x.va % 4)⟩ : LaneLoad)
    let sls := ls.flatMap LaneLoad.slots
    let regs := (List.range (sizeRegs sz)).map fun i => f.d.toNat + i
    let u := (o.touchAll s.cur (xs.flatMap Access.words) false).takeMisses s.cur sls
    ((∀ sl ∈ sls, o.loadBusy s.cur sl.addr = false) → o.missRoom (s.coreOf s.cur) sls = true → s.g.countRoom 0 = true →
      ∃ g', Machine.exec (.ld f) s = .next { u.setGroup s.cur g' with nextId := s.nextId + 1 } ∧
        OpStep s.g g' { id := s.nextId, cls := 0, kind := .load ls regs (quartersOf ex) } regs (quartersOf ex)
          (formLen f.form)) ∧
    ((∃ sl ∈ sls, o.loadBusy s.cur sl.addr = true) ∨ o.missRoom (s.coreOf s.cur) sls = false ∨ s.g.countRoom 0 = false →
      Machine.exec (.ld f) s = .next o.stall)) ∧
  (∀ (s : State) (f : Fields) (xs : List (Nat × Nat × ElemAt)), isPolicy s.cur = false → Issues s 0x70 f always false →
    let o := s.opened
    let ex := s.exLanes 0x70 f
    o.sortLanes s.cur (fun t l => t.fxLane s.cur (s.rdo 0x70 f) f l) (fun x => x.2.2.addrs) ex = (xs, []) →
    let ls := xs.map fun x => (⟨x.1, x.2.1, o.elemSlots s.cur x.2.2, .elem f.d.toNat x.2.2.fmt⟩ : LaneLoad)
    let sls := ls.flatMap LaneLoad.slots
    let u := (o.touchAll s.cur (xs.flatMap fun x => x.2.2.addrs) false).takeMisses s.cur sls
    ((∀ sl ∈ sls, o.loadBusy s.cur sl.addr = false) → o.missRoom (s.coreOf s.cur) sls = true → s.g.countRoom 0 = true →
      ∃ g', Machine.exec (.ldFx f) s = .next { u.setGroup s.cur g' with nextId := s.nextId + 1 } ∧
        OpStep s.g g' { id := s.nextId, cls := 0, kind := .load ls [f.d.toNat] (quartersOf ex) } [f.d.toNat] (quartersOf ex)
          (formLen f.form)) ∧
    ((∃ sl ∈ sls, o.loadBusy s.cur sl.addr = true) ∨ o.missRoom (s.coreOf s.cur) sls = false ∨ s.g.countRoom 0 = false →
      Machine.exec (.ldFx f) s = .next o.stall)) ∧
  (∀ (s : State) (k : Nat) (r : Rd) (f : Fields) (l va : Nat) (lf : Leaf) (e : ElemAt),
    pairAddr (r.g.pair f.a.toNat l) = some va → s.checkPage (s.who k) .load va 1 anyHome none false = .ok lf →
    s.elemAt (s.who k) lf va .load ((r.b 0x70 f l).toNat + off14 f) = .ok e → s.fxLane k r f l = .ok (l, va, e)) ∧
  (∀ (s : State) (f : Fields) (a : Nat → Nat) (v : Nat → Word), isPolicy s.cur = true → Issues s 0x70 f always false →
    (∀ l ∈ s.exLanes 0x70 f, s.opened.pocketAt s.cur (s.rdo 0x70 f) f .rdDenied l = .ok (a l) ∧
      s.opened.ctlGot (a l) = .word (v l)) →
    ∃ g', Machine.exec (.ld f) s = .next (s.setGroup s.cur g') ∧
      GroupStep s.g g' (oneReg f.d.toNat (s.exLanes 0x70 f) v) (s.g.nextPc (formLen f.form))) ∧
  (∀ (s : State) (k : Nat) (vas : List Nat) (w : Bool) (sls : List Slot),
    let t := (s.touchAll k vas w).takeMisses k sls
    (∀ a, t.byte a = s.byte a) ∧ { t with caches := s.caches, mem := s.mem, scrubs := s.scrubs, pcnt := s.pcnt } = s) ∧
  (∀ (s : State) (core : Nat) (sls : List Slot) (keys : List Nat),
    (s.missRoom core sls = true ↔ s.missCount core + (s.newMisses core sls).length ≤ 256 ∨ s.missCount core = 0) ∧
    (∀ key, mget false (s.sendMisses core keys).caches.miss key =
      (mget false s.caches.miss key || (keys.take (256 - s.missCount core)).contains key)) ∧
    { s.sendMisses core keys with caches := { (s.sendMisses core keys).caches with miss := s.caches.miss } } = s)

/-- DERIVED (R25, R39, R215, R216, R229, R232): LOAD_DATA_RETURN: where the words of a quarter have come, each lane of the
quarter receives the registers that its words give (with their marks clear), or, where a word is lost, the mark of its
cause on its destinations; the quarter's destinations become full, and with the last quarter the load leaves the LD count
in order; a lane still awaited takes the values of the words that it shares with a lane just written (the model's reading,
log entry 31). The other lanes, registers and groups, and all of memory, are unchanged. The last part is the value: the
byte or halfword at the address, zero- or sign-extended, or the words themselves. LOAD_DATA_RETURN of a TLD without .tr
whose words have all come, and whose runs lie apart: the tile holds the bytes of each run at its place, is full and has no
mark, or, where a word is lost, is full with the mark of the first such word; its resolved type is unchanged; the TLD
leaves the LD count in order; the other tiles, the registers, the other groups and all of memory are unchanged. -/
def Obligations.LoadsLand : Prop :=
  ((∀ (s : State) (k id q : Nat) (o : Op) (ls : List LaneLoad) (regs qs : List Nat) (reply : List (Option Word)),
    ((s.group k).ops.filter fun x => x.id == id) = [o] → o.kind = .load ls regs qs → q ∈ qs → q < 4 →
    (∀ x ∈ (s.group k).ops, x.fail = none) →
    let mine := s.answerLanes (ls.filter fun x => quarter x.lane == q) reply
    (∀ p ∈ mine, ∀ v ∈ p.2, v.isSome = true) → (mine.map fun p => p.1.lane).Nodup → (∀ p ∈ mine, p.1.lane < 32) →
    let words := fun (p : LaneLoad × List (Option Got)) => (p.2.filterMap fun v => v).map Got.toWord
    (∀ p ∈ mine, (p.1.land.dests p.2.length).Nodup) →
    ∃ g', Machine.exec (.loadDataReturn k id q reply) s = .next (s.setGroup k g') ∧
      (∀ p ∈ mine, lostCause (p.2.filterMap (fun v => v)) = none →
        ∀ x ∈ p.1.land.regs (words p), g'.reg x.1 p.1.lane = x.2 ∧ g'.markOf x.1 p.1.lane = none) ∧
      (∀ p ∈ mine, ∀ c, lostCause (p.2.filterMap (fun v => v)) = some c →
        ∀ d ∈ p.1.land.dests p.2.length, g'.markOf d p.1.lane = some ⟨c, p.1.va⟩) ∧
      (∀ r l, l < 32 → (∀ p ∈ mine, p.1.lane = l → r ∉ p.1.land.dests p.2.length) →
        g'.reg r l = (s.group k).reg r l ∧ g'.markOf r l = (s.group k).markOf r l) ∧
      (∀ r n, n < 4 → g'.emptyIn r n = if r ∈ regs ∧ n = q then false else (s.group k).emptyIn r n) ∧
      (let rest := qs.filter fun x => x != q
       g'.ops = retire ((s.group k).ops.map fun x => if x.id == id then
          { x with kind := .load ((ls.filter fun x => quarter x.lane != q).map (LaneLoad.share mine)) regs rest,
                   done := rest.isEmpty }
        else x) []) ∧
      { g' with regs := (s.group k).regs, marks := (s.group k).marks, empties := (s.group k).empties,
                ops := (s.group k).ops } = s.group k) ∧
  (∀ (d off : Nat) (w : Word) (ws : List Word),
    (off < 4 → (Landing.sized d 0 off).regs [w] = [(d, (w.extractLsb' (8 * off) 8).setWidth 32)] ∧
      (Landing.sized d 1 off).regs [w] = [(d, (w.extractLsb' (8 * off) 8).signExtend 32)]) ∧
    (off = 0 ∨ off = 2 → (Landing.sized d 2 off).regs [w] = [(d, (w.extractLsb' (8 * off) 16).setWidth 32)] ∧
      (Landing.sized d 3 off).regs [w] = [(d, (w.extractLsb' (8 * off) 16).signExtend 32)]) ∧
    (∀ sz, 4 ≤ sz → ∀ i x, ((Landing.sized d sz off).regs ws)[i]? = some x ↔ ws[i]?.map (fun w => (d + i, w)) = some x))) ∧
  (∀ (s : State) (k id q : Nat) (o : Op) (t rb : Nat) (ps : List TilePart) (ss : List (Nat × Slot))
    (reply : List (Option Word)),
    ((s.group k).ops.filter fun x => x.id == id) = [o] → o.kind = .tile t ps 0 rb ss →
    (∀ x ∈ (s.group k).ops, x.fail = none) →
    let a := s.answerParts ps reply
    let vs := a.1.flatMap Prod.snd ++ (s.answers (ss.map Prod.snd) a.2).1
    let lost := firstLost ((ps.flatMap TilePart.slots ++ ss.map Prod.snd).zip vs)
    (∀ v ∈ vs, v.isSome = true) → ps.Pairwise (fun x y => x.at_ + x.len ≤ y.at_ ∨ y.at_ + y.len ≤ x.at_) →
    (∀ p ∈ ps, p.va % 4 + p.len ≤ 4 * p.slots.length) →
    ∃ g', Machine.exec (.loadDataReturn k id q reply) s = .next (s.setGroup k g') ∧
      (lost = none → ∀ p ∈ a.1, ∀ i, i < p.1.len → (g'.tile t).byte (p.1.at_ + i) =
        (wordsBytes (p.2.filterMap fun v => v.map Got.toWord)).getD (p.1.va % 4 + i) 0#8) ∧
      (g'.tile t).full = true ∧ (g'.tile t).mark = lost ∧ (g'.tile t).rt = ((s.group k).tile t).rt ∧
      (∀ j, j ≠ t → g'.tile j = (s.group k).tile j) ∧
      g'.ops = retire ((s.group k).ops.map fun x => if x.id == id then { x with done := true } else x) [] ∧
      { g' with tiles := (s.group k).tiles, ops := (s.group k).ops } = s.group k)

/-- DERIVED (R52, R130, R133, R148, R149, R213, R214, R218, R293, R312, R334, R55, R141, R148 to R150, R297, R325): ST
issues where every executing lane's access passes its checks, no earlier access of the group to those words must come
first and the L1 has room; otherwise it waits. It writes no register; lane by lane the lines of its words enter the L1,
lines of a full set making way (the model's reading of R293, log entry 93), and its words (address by R214, bytes by its
size) are stored by `storeLane`. To a cached word (HOME 0 or 2): the word enters the core's L1 as P with the bytes
written, joins the bytes of a P word, or writes an O word in place (the model's reading, log entry 41); other L1 words and
memory are unchanged. To a memory controller, a scratchpad or another device: the store is on its way under a name of its
own, a remote one behind a REL sys held, else with the next number of the model's one stream to its node (log entry 75),
the window and the address that its aperture names in its header, and no byte of memory changes before STORE_ACKNOWLEDGED.
One that names a die in reset is recorded as lost. In a policy routine ST writes its pocket word. STORE_ACKNOWLEDGED of a
store of one word to a memory controller or a scratchpad before which no older store of its group to the word is owed: the
bytes written reach memory, every other byte of memory is unchanged, and the store is owed no more (said of a word that is
memory and nothing else, whose line is not newer in its slice; newer words of the line there go to memory first); one that
names a die in reset, or whose transfer fails past the retry limit, is lost. A store to another device leaves by its
acknowledgement. HELD_REMOTE_STORE_SEND: once the window Nlast + 2 has begun, and no store before that REL sys on a stream
without its bound is owed, the group's held stores that lie behind its earliest REL sys each take the next number of their
stream and the present window, which is then Nlast (those of an ended group likewise); before that, and with nothing held,
nothing happens. -/
def Obligations.StoreInstructions : Prop :=
  ((∀ (s : State) (f : Fields) (xs : List Access), isPolicy s.cur = false → Issues s 0x71 f always false →
    let o := s.opened
    let ex := s.exLanes 0x71 f
    let w := sizeBytes (bits f.sub.toNat 5 3)
    let data := fun l i => s.g.reg (f.b.toNat + i) (laneB f ex l)
    s.accesses 0x71 f (isPrivate f) .store w xs →
    ((∀ x ∈ xs, ∀ a ∈ x.words, o.storeBusy s.cur (o.place s.cur a).1 = false ∧ o.noWay s.cur a = false) →
      Machine.exec (.st f) s = .next (s.moveOn (xs.foldl
        (fun t x => (t.enter s.cur x.words).storeLane s.cur (storeWords x w (data x.lane))) o) 0x71 f)) ∧
    ((∃ x ∈ xs, ∃ a ∈ x.words, o.storeBusy s.cur (o.place s.cur a).1 = true ∨ o.noWay s.cur a = true) →
      Machine.exec (.st f) s = .next o.stall)) ∧
  (∀ (s : State) (k : Nat) (v : Nat × BitVec 4 × Word) (ws : List (Nat × BitVec 4 × Word)),
    let ha := fun (w : Nat × BitVec 4 × Word) => (s.place k w.1).1
    let rt := (s.place k v.1).2
    let node := s.nodeOf (ha v)
    let out := (v :: ws).map fun w => (ha w, w.2)
    let t := s.storeLane k (v :: ws)
    ((∃ w ∈ v :: ws, s.down (ha w) = true) → t = s.recordFail k 6 ⟨.dataLost, v.1⟩) ∧
    ((∀ w ∈ v :: ws, s.down (ha w) = false ∧ ha w < 2 ^ 64) → ((v :: ws).map ha).Nodup →
      (rt = .cached → (∀ w ∈ v :: ws, s.fixedPlace k w.1) →
        (∀ w ∈ v :: ws, ∃ x, t.l1 (s.coreOf k) (ha w) = some x ∧ match s.l1 (s.coreOf k) (ha w) with
          | some y => match y.st with
            | .o => x = { y with val := mergeBytes w.2.1 w.2.2 y.val }
            | .p => x = { y with val := mergeBytes w.2.1 w.2.2 y.val, mask := y.mask ||| w.2.1 }
            | .v => x.st = .p ∧ x.val = mergeBytes w.2.1 w.2.2 0#32 ∧ x.mask = w.2.1
          | none => x.st = .p ∧ x.val = mergeBytes w.2.1 w.2.2 0#32 ∧ x.mask = w.2.1) ∧
        (∀ c h, h < 2 ^ 64 → (c ≠ s.coreOf k ∨ ∀ w ∈ v :: ws, ha w ≠ h) → t.l1 c h = s.l1 c h) ∧
        { t with caches := { t.caches with l1 := s.caches.l1 }, nextId := s.nextId } = s) ∧
      (rt = .controller ∨ rt = .scratch → t = s.launchFlight { grp := k, route := rt, words := out, va := v.1 }) ∧
      (rt = .remote → s.holds k = true ∨ s.heldOf k ≠ [] →
        t = s.launchFlight { grp := k, route := .remote, words := out, va := v.1, node := node, held := true,
                             hdr := s.flit (ha v), gen := (s.group k).relGen }) ∧
      (rt = .remote → s.holds k = false → s.heldOf k = [] →
        let st := mget {} s.dev.streams node
        t = (({ s.setGroup k { s.group k with nlast := some s.window } with
                dev := { s.dev with streams := mset node { st with seq := st.seq + 1 } s.dev.streams } } : State).launchFlight
          { grp := k, route := .remote, words := out, va := v.1, node := node, seq := st.seq,
            hdr := { s.flit (ha v) with seq := BitVec.ofNat 32 st.seq, win := BitVec.ofNat 32 s.window },
            gen := (s.group k).relGen })))) ∧
  (∀ (s : State) (k a : Nat) (x : Aperture), s.apertureOf a = some x →
    (s.holds k = true ↔ s.unacked k (s.group k).relGen = true ∨ ∃ n, (s.group k).hold = some n ∧ s.window < n + 2) ∧
    s.nodeOf a = x.node ∧ (s.flit a).pa = x.base + a % 2 ^ 48 ∧ (s.flit a).dst = BitVec.ofNat 16 x.node ∧
    (s.flit a).src = s.dev.node) ∧
  (∀ (s : State) (k : Nat) (vas : List Nat),
    ((∀ va ∈ vas, ∀ n, n ≤ vas.length → s.crowded (s.coreOf k) (lineOf (s.place k va).1) n = false) →
      s.makeRoom k vas = s) ∧
    s.enter k vas = ((s.touchAll k vas true).makeRoom k vas).touchAll k vas true ∧
    (∀ a, (s.enter k vas).byte a = s.byte a) ∧
    (∀ j q l, ((s.enter k vas).group j).reg q l = (s.group j).reg q l)) ∧
  (∀ (s : State) (fl : Flight), mfind s.nextId (s.launchFlight fl).caches.flights = some fl ∧
    (s.launchFlight fl).mem = s.mem ∧ (s.launchFlight fl).groups = s.groups ∧
    (∀ id, id ≠ s.nextId → mfind id (s.launchFlight fl).caches.flights = mfind id s.caches.flights)) ∧
  (∀ (s : State) (f : Fields) (a : Nat → Nat), isPolicy s.cur = true → Issues s 0x71 f always false →
    (∀ l ∈ s.exLanes 0x71 f, s.opened.pocketAt s.cur (s.rdo 0x71 f) f .wrDenied l = .ok (a l)) →
    Machine.exec (.st f) s = .next (s.moveOn ((s.exLanes 0x71 f).foldl
      (fun t l => t.ctlWrite (a l) 15#4 (s.g.reg f.b.toNat (laneB f (s.exLanes 0x71 f) l))) s.opened) 0x71 f))) ∧
  ((∀ (s : State) (id : Nat) (fl : Flight), mfind id s.caches.flights = some fl → fl.held = false → fl.atom = false →
    (∀ p ∈ s.caches.flights, p.1 < id → ¬ (p.2.grp = fl.grp ∧ p.2.op = fl.op ∧ ∃ w ∈ p.2.words, ∃ v ∈ fl.words, v.1 = w.1) ∧
      ¬ (fl.route = .remote ∧ p.2.route = .remote ∧ p.2.held = false ∧ p.2.node = fl.node ∧ p.2.seq < fl.seq)) →
    (∀ a m w, fl.route ≠ .remote → fl.words = [(a, m, w)] → a % 4 = 0 → s.plain a → s.down a = false → s.cutWord a = false →
      s.isBad a = false → (∀ i, i < 16 → mfind (lineOf a + 4 * i) s.caches.l2 = none) →
      ∃ t, Machine.exec (.storeAcknowledged id) s = .next t ∧
        (∀ x, t.byte x = if x / 4 * 4 = a ∧ m.getLsbD (x % 4) = true then w.extractLsb' (8 * (x % 4)) 8 else s.byte x) ∧
        { t with mem := s.mem, scrubs := s.scrubs, fences := s.fences } =
          { s with caches := { s.caches with flights := mdel id s.caches.flights } }) ∧
    (fl.route ≠ .remote → (∀ w ∈ fl.words, s.down w.1 = false ∧ s.cutWord w.1 = false) →
      let u := s.ctlStores fl.words (s.teamOf fl.grp).sys
      Machine.exec (.storeAcknowledged id) s =
        .next { u with caches := { u.caches with flights := mdel id u.caches.flights } }) ∧
    (fl.route ≠ .remote → (∃ w ∈ fl.words, s.down w.1 = true ∨ s.cutWord w.1 = true) →
      let u := s.storeLost fl
      Machine.exec (.storeAcknowledged id) s =
        .next { u with caches := { u.caches with flights := mdel id u.caches.flights } }) ∧
    (fl.route = .remote → s.cutOff fl.node = false →
      Machine.exec (.storeAcknowledged id) s =
        .next { s with caches := { s.caches with flights := mdel id s.caches.flights } })) ∧
  (∀ (s : State) (k : Nat),
    (s.heldOf k = [] → Machine.exec (.heldRemoteStoreSend k) s = .next s) ∧
    (∀ n, s.lastWindow k = some n → s.window < n + 2 → Machine.exec (.heldRemoteStoreSend k) s = .next s) ∧
    (∀ gen, (∀ p ∈ s.heldOf k, gen ≤ p.2.gen) → (∃ p ∈ s.heldOf k, p.2.gen = gen) → s.unacked k gen = true →
      Machine.exec (.heldRemoteStoreSend k) s = .next s) ∧
    (∀ g gen, s.unacked k gen = false → s.heldOf k ≠ [] → mfind k s.groups = some g → (∀ n, g.nlast = some n → n + 2 ≤ s.window) →
      (∀ p ∈ s.heldOf k, gen ≤ p.2.gen) → (∃ p ∈ s.heldOf k, p.2.gen = gen) →
      Machine.exec (.heldRemoteStoreSend k) s =
        .next ((((s.heldOf k).filter fun p => p.2.gen == gen).foldl (fun t p => t.sendOne p.1 p.2) s).setGroup k
          { g with nlast := some s.window, hold := if gen < g.relGen then some s.window else g.hold })) ∧
    (∀ gen, s.unacked k gen = false → s.heldOf k ≠ [] → mfind k s.groups = none → (∀ n, mfind k s.late = some n → n + 2 ≤ s.window) →
      (∀ p ∈ s.heldOf k, gen ≤ p.2.gen) → (∃ p ∈ s.heldOf k, p.2.gen = gen) →
      let t := ((s.heldOf k).filter fun p => p.2.gen == gen).foldl (fun t p => t.sendOne p.1 p.2) s
      Machine.exec (.heldRemoteStoreSend k) s =
        .next { t with late := if t.heldOf k = [] then mdel k t.late else mset k s.window t.late })) ∧
  (∀ (s : State) (k gen : Nat), s.unacked k gen = true ↔ ∃ p ∈ s.caches.flights, p.2.grp = k ∧ p.2.op = none ∧
    p.2.route = .remote ∧ p.2.held = false ∧ p.2.gen < gen ∧ s.ackOrder p.2.node = true) ∧
  (∀ (s : State) (a : Nat) (m : BitVec 4) (w : Word), a % 4 = 0 → (s.clearSlice a).isBad a = false → ∀ x, (s.ctlWrite a m w).byte x =
    if x / 4 * 4 = a ∧ m.getLsbD (x % 4) = true then w.extractLsb' (8 * (x % 4)) 8 else (s.clearSlice a).byte x) ∧
  (∀ (s : State) (id : Nat) (fl : Flight),
    let st := mget {} s.dev.streams fl.node
    s.sendOne id fl = { s with
      dev := { s.dev with streams := mset fl.node { st with seq := st.seq + 1 } s.dev.streams },
      caches := { s.caches with
        flights := mset id { fl with
          held := false, seq := st.seq,
          hdr := { fl.hdr with seq := BitVec.ofNat 32 st.seq, win := BitVec.ofNat 32 (s.dev.time / s.dev.wlen) } }
          s.caches.flights } }))

/-- DERIVED (R10, R39, R128, R141, R148, R149, R214, R215, R220, R221, R325, R326): AMO and CAS issue where every executing
lane's access passes and no earlier access to those words must come first, nor for a request to another device a hold of REL
sys: lanes that name one word are one request, counted on LD; the destinations of a form that returns a value become empty; a
request to another device is sent with the window and the next number of its stream (one for each target node: the model's
choice, log entry 75). Otherwise they wait. ATOMIC_ACK of a request to a cached word of this device: the home applies the
lanes in ascending order as one write, each lane with a destination receives the value it found; no other word changes. So for
every form: at a controller or a scratchpad the write is made there; a form that returns nothing leaves the registers; a
doubleword is returned in a pair. Another device's answer ends its request, with the value or with its loss. The last parts
are the values: adds sum, an exchange leaves the last operand, one lane of CAS compares and replaces, the first lane finds the
old value, and every operation of AMO on 32 and on 64 bits. -/
def Obligations.AtomicInstructions : Prop :=
  (∀ (s : State) (f : Fields) (i : Instr) (op code : Nat) (wide ret : Bool) (xs : List Access),
    (i, op, code, wide, ret) ∈ [(.amo f, 0x73, bits f.sub.toNat 7 4, f.sub.getLsbD 0, f.sub.getLsbD 2),
      (.cas f, 0x74, 10, f.sub == 1#8, true)] →
    Issues s op f always false →
    let o := s.opened
    let ex := s.exLanes op f
    let val := fun r l => if wide then s.g.pair r l else (s.g.reg r l).setWidth 64
    let b := fun l => val f.b.toNat (laneB f ex l)
    o.accessAll s.cur (s.rdo op f) (if code = 10 then { f with c := 0#7, e := 0#7 } else f) false .atomic
      (if wide then 8 else 4) ex = (xs, []) →
    let its := o.atomItems s.cur wide (fun l => (if code = 10 then val f.c.toNat l else b l, b l)) xs
    let free := (∀ x ∈ its, o.atomBusy s.cur x.addr = false ∧ (wide = true → o.atomBusy s.cur (x.addr + 4) = false) ∧
      (x.route = .remote → o.holds s.cur = false ∧ o.heldOf s.cur = [])) ∧ s.g.countRoom 0 = true
    let regs := if ret then (List.range (if wide then 2 else 1)).map fun i => f.d.toNat + i else []
    let z := (o.touchAll s.cur (xs.flatMap Access.words) true).sendAtoms s.cur its
    (free →
      ∃ g', Machine.exec i s = .next { z.2.setGroup s.cur g' with nextId := z.2.nextId + 1 } ∧
        OpStep (z.2.group s.cur) g'
          { id := z.2.nextId, cls := 0, kind := .atomic code f.d.toNat ret wide z.1 (if ret then quartersOf ex else []) }
          regs (quartersOf ex) (formLen f.form) ∧
        { z.2.group s.cur with nlast := s.g.nlast, park := s.g.park } = s.g ∧ (z.2.group s.cur).park = s.g.unpark.park) ∧
    (¬ free → Machine.exec i s = .next o.stall)) ∧
  (∀ (s : State) (k : Nat) (it : AtomItem) (its : List AtomItem),
    s.sendAtoms k [] = ([], s) ∧
    (it.route ≠ .remote → s.sendAtoms k (it :: its) = (it :: (s.sendAtoms k its).1, (s.sendAtoms k its).2)) ∧
    (it.route = .remote →
      let node := s.nodeOf it.addr
      let st := mget {} s.dev.streams node
      let u := ({ s.setGroup k { s.group k with nlast := some s.window } with
          dev := { s.dev with streams := mset node { st with seq := st.seq + 1 } s.dev.streams } } : State).launchFlight
        { grp := k, route := .remote, words := [], va := it.va, node := node, seq := st.seq,
          hdr := { s.flit it.addr with seq := BitVec.ofNat 32 st.seq, win := BitVec.ofNat 32 s.window },
          gen := (s.group k).relGen, atom := true }
      s.sendAtoms k (it :: its) = ({ it with sent := some s.nextId } :: (u.sendAtoms k its).1, (u.sendAtoms k its).2))) ∧
  (∀ (s : State) (k id i code d : Nat) (o : Op) (its : List AtomItem) (it : AtomItem) (qs : List Nat) (w : Word),
    (s.group k).findOp id = some o → o.kind = .atomic code d true false its qs → its[i]? = some it → it.done = false →
    it.route = .cached → it.wide = false → s.homeRead it.addr = .word w → (∀ x ∈ (s.group k).ops, x.fail = none) →
    (∀ c, s.ownerOf it.addr = some c → ∃ y, s.l1 c it.addr = some y ∧ y.st = .o) → it.addr < 2 ^ 64 → s.pending (paOf it.addr) = false →
    let fin := { it with done := true, lanes := returned code 32 (w.setWidth 64) it.lanes }
    ∃ (t : State) (g' : Group), Machine.exec (.atomicAck k id i none) s = .next (t.setGroup k g') ∧
      t.homeRead it.addr = .word (lo32 (applyLanes code 32 (w.setWidth 64) it.lanes)) ∧
      (∀ a, a < 2 ^ 64 → a ≠ it.addr → t.homeRead a = s.homeRead a) ∧ (∀ a, t.byte a = s.byte a) ∧
      (its = [it] → (it.lanes.map Prod.fst).Nodup → (∀ x ∈ it.lanes, x.1 < 32 ∧ quarter x.1 ∈ qs) →
        ∀ x ∈ fin.lanes, g'.reg d x.1 = lo32 x.2.1 ∧ g'.emptyIn d (quarter x.1) = false) ∧
      { t with caches := s.caches, mem := s.mem, scrubs := s.scrubs } = s) ∧
  (∀ (s : State) (core code : Nat) (it : AtomItem) (v : BitVec 64) (n : Nat), it.route = .remote →
    s.cutOff (s.nodeOf it.addr) = false → it.sent = some n → s.streamOwed (some n) = false →
    let u : State := { s with caches := { s.caches with flights := mdel n s.caches.flights } }
    s.perform core code it none = none ∧
    s.perform core code it (some (some v)) =
      some (u, { it with done := true, lanes := returned code (if it.wide then 64 else 32) v it.lanes }) ∧
    s.perform core code it (some none) = some (u, { it with done := true, lost := some (s.remoteCause it.addr) })) ∧
  (∀ (s : State) (k id i code d : Nat) (wide ret : Bool) (o : Op) (its : List AtomItem) (it : AtomItem) (qs : List Nat)
    (a b : Word),
    (s.group k).findOp id = some o → o.kind = .atomic code d ret wide its qs → its[i]? = some it → it.done = false →
    it.route ≠ .remote → it.wide = wide → s.atomRead it = (.word a, .word b) → (∀ x ∈ (s.group k).ops, x.fail = none) →
    (∀ x ∈ its, x.lost = none) →
    let old := pair64 a b
    let n := if wide then 64 else 32
    ∃ g', Machine.exec (.atomicAck k id i none) s =
        .next ((s.atomWrite (s.coreOf k) it (applyLanes code n old it.lanes)).setGroup k g') ∧
      (its = [it] → (it.lanes.map Prod.fst).Nodup → (∀ x ∈ it.lanes, x.1 < 32 ∧ quarter x.1 ∈ qs) →
        ∀ x ∈ returned code n old it.lanes,
          (wide = false → g'.reg d x.1 = lo32 x.2.1 ∧ g'.emptyIn d (quarter x.1) = false) ∧
          (wide = true → g'.pair d x.1 = x.2.1 ∧ g'.emptyIn d (quarter x.1) = false ∧
            g'.emptyIn (d + 1) (quarter x.1) = false)) ∧
      (qs = [] → (∀ r l, g'.reg r l = (s.group k).reg r l) ∧ ∀ r q, g'.emptyIn r q = (s.group k).emptyIn r q) ∧
      { g' with regs := (s.group k).regs, empties := (s.group k).empties, marks := (s.group k).marks,
                ops := (s.group k).ops } = s.group k) ∧
  (∀ (s : State) (core : Nat) (it : AtomItem) (v : BitVec 64), it.addr + 4 < 2 ^ 64 → it.route = .cached → it.wide = true →
    let t := s.atomWrite core it v
    (s.down it.addr = false → s.cutWord it.addr = false → t.homeRead it.addr = .word (lo32 v)) ∧
    (s.down (it.addr + 4) = false → s.cutWord (it.addr + 4) = false → t.homeRead (it.addr + 4) = .word (hi32 v)) ∧
    (s.pending (paOf it.addr) = false → s.pending (paOf (it.addr + 4)) = false →
      ∀ a, a < 2 ^ 64 → a ≠ it.addr → a ≠ it.addr + 4 → t.homeRead a = s.homeRead a)) ∧
  (∀ (old : BitVec 64) (x : Nat × BitVec 64 × BitVec 64) (xs : List (Nat × BitVec 64 × BitVec 64)) (code w : Nat),
    (applyLanes 0 w old (x :: xs)).toNat = (old.toNat + ((x :: xs).map fun y => y.2.1.toNat).sum) % 2 ^ w % 2 ^ 64 ∧
    (applyLanes 10 w old [x] = if old = x.2.2 then x.2.1 else old) ∧
    ((returned code w old (x :: xs)).map Prod.fst = (x :: xs).map Prod.fst ∧
     (returned code w old (x :: xs)).head? = some (x.1, old, x.2.2)) ∧
    (∀ y : Nat × BitVec 64 × BitVec 64, w ≤ 64 → (applyLanes 8 w old (xs ++ [y])).toNat = y.2.1.toNat % 2 ^ w)) ∧
  (∀ (l code w : Nat) (old b c : BitVec 64), code ≤ 9 → applyLanes code w old [(l, b, c)] = amoOp code w old b) ∧
  (∀ (x y : Word),
    let op := fun code => lo32 (amoOp code 32 (x.setWidth 64) (y.setWidth 64))
    op 0 = x + y ∧ op 1 = (if x.toInt ≤ y.toInt then x else y) ∧ op 2 = (if x.toInt ≤ y.toInt then y else x) ∧
    op 3 = (if x.toNat ≤ y.toNat then x else y) ∧ op 4 = (if x.toNat ≤ y.toNat then y else x) ∧
    op 5 = x &&& y ∧ op 6 = x ||| y ∧ op 7 = x ^^^ y ∧ op 8 = y ∧ op 9 = BitVec.ofNat 32 (faddBits fp32 x.toNat y.toNat)) ∧
  (∀ (x y : BitVec 64),
    let op := fun code => amoOp code 64 x y
    op 0 = x + y ∧ op 1 = (if x.toInt ≤ y.toInt then x else y) ∧ op 2 = (if x.toInt ≤ y.toInt then y else x) ∧
    op 3 = (if x.toNat ≤ y.toNat then x else y) ∧ op 4 = (if x.toNat ≤ y.toNat then y else x) ∧
    op 5 = x &&& y ∧ op 6 = x ||| y ∧ op 7 = x ^^^ y ∧ op 8 = y)

/-! ### Ordering, regions and coherence -/

/-- DERIVED (R133 to R138, R149, R150, R215, R222): in a group with no recorded failure and no overrun owed, REL of a scope
completes where the group's loads have returned, its stores to controllers and scratchpads are acknowledged, at clus or wider
every earlier registration of the core is granted, and at sys no stream under acknowledgement ordering owes one: registers and
memory are unchanged; a release at sys holds the group's later remote stores. Before that it waits. FENCE is REL followed by
an acquire, ACQ an acquire alone, once the group's loads have returned, and waits before (that wait is the model's reading,
log entry 45): at clus or wider exactly the V words of the core's L1 (under .rgn those of the region, of HOME 0 and 2 pages)
are dropped. -/
def Obligations.OrderingInstructions : Prop :=
  (∀ (s : State) (f : Fields), s.g.fails = [] → (bits f.sub.toNat 2 0 = 5 → s.g.overrun = false) →
    let sc := bits f.sub.toNat 2 0
    (∀ t, s.opened.release s.cur sc = some t →
      (Issues s 0x77 f always false → Machine.exec (.rel f) s = .next (s.moveOn t 0x77 f)) ∧
      (Issues s 0x75 f always false → Machine.exec (.fence f) s = .next (s.moveOn (t.acquire s.cur sc) 0x75 f))) ∧
    (s.opened.release s.cur sc = none →
      (Issues s 0x77 f always false → Machine.exec (.rel f) s = .next (s.opened.relWait s.cur sc).stall) ∧
      (Issues s 0x75 f always false → Machine.exec (.fence f) s = .next (s.opened.relWait s.cur sc).stall))) ∧
  (∀ (s : State) (f : Fields), Issues s 0x76 f always false →
    let sc := bits f.sub.toNat 2 0
    (f.sub.getLsbD 3 = false →
      (s.g.loading = false → Machine.exec (.acq f) s = .next (s.moveOn (s.opened.acquire s.cur sc) 0x76 f)) ∧
      (s.g.loading = true → Machine.exec (.acq f) s = .next s.opened.stall)) ∧
    (∀ base len, f.sub.getLsbD 3 = true → regionOfLanes (s.rdo 0x76 f) f = some (base, len) →
      (s.g.loading = false →
        Machine.exec (.acq f) s = .next (s.moveOn (s.opened.acquireRegion s.cur sc base len) 0x76 f)) ∧
      (s.g.loading = true → Machine.exec (.acq f) s = .next s.opened.stall))) ∧
  (∀ (s : State) (k scope : Nat), s.relTeamReady k = true →
    (scope ≤ 1 → s.release k scope = some s) ∧
    (2 ≤ scope → scope ≤ 4 → s.pWords (s.coreOf k) ((s.group k).wait.relAt.getD s.nextId) = false →
      s.release k scope = some (s.setGroup k { s.group k with wait := { (s.group k).wait with relAt := none } })) ∧
    (scope = 5 → s.pWords (s.coreOf k) ((s.group k).wait.relAt.getD s.nextId) = false → s.ackOwed k = false →
      ∃ g', s.release k scope = some (s.setGroup k g') ∧ g'.wait = { (s.group k).wait with relAt := none } ∧
        (∀ n, (s.group k).nlast = some n →
          g'.hold = some (max n ((s.group k).hold.getD 0)) ∧ g'.relGen = (s.group k).relGen + 1) ∧
        ((s.group k).nlast = none → g'.hold = (s.group k).hold ∧ g'.relGen = (s.group k).relGen) ∧
        { g' with hold := (s.group k).hold, relGen := (s.group k).relGen, wait := (s.group k).wait } = s.group k)) ∧
  (∀ (s : State) (k scope : Nat),
    (s.relTeamReady k = false → s.release k scope = none) ∧
    (2 ≤ scope → s.pWords (s.coreOf k) ((s.group k).wait.relAt.getD s.nextId) = true → s.release k scope = none) ∧
    (scope = 5 → s.ackOwed k = true → s.release k scope = none)) ∧
  (∀ (s : State) (k scope base len : Nat),
    (scope ≤ 1 → s.acquire k scope = s ∧ s.acquireRegion k scope base len = s) ∧
    (2 ≤ scope → ∀ c,
      (s.acquire k scope).l1Words c = ((s.l1Words c).filter fun p => !(c == s.coreOf k && p.2.st == .v)) ∧
      (s.acquireRegion k scope base len).l1Words c = (s.l1Words c).filter fun p =>
        !(c == s.coreOf k && p.2.st == .v && (s.regionL1 c (s.who k) base len).contains p.1)) ∧
    { s.acquire k scope with caches := { (s.acquire k scope).caches with l1 := s.caches.l1 } } = s ∧
    { s.acquireRegion k scope base len with
        caches := { (s.acquireRegion k scope base len).caches with l1 := s.caches.l1 } } = s)

/-- DERIVED (R53, R138 to R140, R219, R223 to R225): the region instructions act on the words that L1s hold of the region
of the lowest executing lane, under that lane's homes (log entry 84). INVR drops the core's V words; WBR surrenders each word,
and the words of the region that only their slice holds newer than memory go to memory; ACQR, in a group whose loads have
returned, at clus to dev scope with a victim in the requester's instance of the scope, completes the victim's
registrations, drops the victim's V words of the region (a victim that is fenced off or whose die is in reset does not
answer), and acquires the region; before the loads have returned it waits (the model's reading, log entry 45). PRF fills at
once (log entry 44); it writes no register and no memory and changes no
word that an L1 holds: a word it adds is V with its home's value. No region instruction changes a register. A surrendered O
word is in memory, V in the L1, and owned by nobody. -/
def Obligations.RegionInstructions : Prop :=
  (∀ (s : State) (f : Fields) (base len : Nat),
    let o := s.opened
    let has := o.regionL1 (s.coreOf s.cur) (o.who s.cur) base len
    (Issues s 0x79 f always false → regionOfLanes (s.rdo 0x79 f) f = some (base, len) →
      Machine.exec (.invr f) s = .next (s.moveOn (o.dropV (s.coreOf s.cur) fun a => has.contains a) 0x79 f)) ∧
    (Issues s 0x7A f always false → regionOfLanes (s.rdo 0x7A f) f = some (base, len) →
      let u := has.foldl (fun t a => t.surrender (s.coreOf s.cur) a) o
      let dirty := u.inRegion (o.who s.cur) base len (u.caches.l2.map Prod.fst)
      Machine.exec (.wbr f) s = .next (s.moveOn
        (dirty.foldl (fun t a => if (t.ownerOf a).isSome then t else t.writeBack a) u) 0x7A f)) ∧
    (∀ sc v, sc = bits f.sub.toNat 2 0 → Issues s 0x78 f (fun _ _ => 2 ≤ sc && sc ≤ 4) false →
      regionOfLanes (s.rdo 0x78 f) f = some (base, len) → v = (s.g.reg f.c.toNat (lowest (s.exLanes 0x78 f))).toNat →
      v < 256 → inScope sc (s.coreOf s.cur) v = true →
      (s.g.loading = false → Machine.exec (.acqr f) s = .next (s.moveOn
        ((o.acqrVictim (s.coreOf s.cur) v (o.who s.cur) base len).acquireRegion s.cur sc base len) 0x78 f)) ∧
      (s.g.loading = true → Machine.exec (.acqr f) s = .next o.stall))) ∧
  (∀ (s : State) (core v base len : Nat) (w : Who), core ≠ v →
    (mget false s.dev.fenced v = true ∨ mget 0 s.dev.dies (v / 64) = 2 → s.acqrVictim core v w base len = s) ∧
    (mget false s.dev.fenced v = false → mget 0 s.dev.dies (v / 64) ≠ 2 →
      let t := s.drainCore v
      (s.acqrVictim core v w base len).l1Words v =
        (t.l1Words v).filter fun p => !(p.2.st == .v && (t.regionL1 v w base len).contains p.1))) ∧
  (∀ (s : State) (f : Fields), Issues s 0x72 f always false →
    ∃ (t : State) (g' : Group), Machine.exec (.prf f) s = .next (t.setGroup s.cur g') ∧
      GroupStep s.g g' noReg (s.g.nextPc (formLen f.form)) ∧
      (∀ c h x, s.l1 c h = some x → t.l1 c h = some x) ∧
      (∀ c h x, h < 2 ^ 64 → s.l1 c h = none → t.l1 c h = some x →
        c = s.coreOf s.cur ∧ x.st = .v ∧ s.homeRead h = .word x.val) ∧
      { t with caches := { t.caches with l1 := s.caches.l1, lines := s.caches.lines } } = s) ∧
  (∀ (s : State) (core a : Nat) (x : L1Word), s.l1 core a = some x → x.st = .o → a % 4 = 0 → s.plain a → a < 2 ^ 53 →
    let t := s.surrender core a
    t.ownerOf a = none ∧ t.l1 core a = some { x with st := .v } ∧ t.sliceWord a = x.val ∧
    (∀ b, t.byte b = if b / 4 * 4 = a then x.val.extractLsb' (8 * (b % 4)) 8 else s.byte b)) ∧
  (∀ (s : State) (a : Nat) (w : Word), mfind a s.caches.l2 = some w → a % 4 = 0 → s.plain a → a < 2 ^ 53 →
    let t := s.writeBack a
    mfind a t.caches.l2 = none ∧
    (∀ b, t.byte b = if b / 4 * 4 = a then w.extractLsb' (8 * (b % 4)) 8 else s.byte b))

/-- DERIVED (R53, R130, R131, R132, R291 to R293): REGISTRATION_GRANT of a P word: its previous owner loses its copy (the
model's reading, log entry 41), the stored bytes are merged into the word's value, and the word is O in the core, which is its
registered owner; of a word that is not P it does nothing. LINE_FILL of a line that the core misses, whose set has room: each
word that the L1 does not hold, or holds as V, becomes V with its home's value, O and P words stay, and the miss is answered;
then lines that tile loads of the core still miss take the miss slots that are free; of another line it does nothing.
L1_EVICT: V words of the line leave, O words go to their slice and are registered no more, P words stay, and a line that the
core waits for keeps its tag. HARDWARE_STRIDE_PREFETCH, where the L1 holds a line of a demand access in the same 64-KiB block,
of a readable page of HOME 0, fills the words of a line that the L1 does not hold, and otherwise does nothing. Other lines,
registers and all of memory are unchanged. -/
def Obligations.CoherenceEvents : Prop :=
  (∀ (s : State) (core a : Nat) (x : L1Word), s.l1 core a = some x → x.st = .p → a % 4 = 0 → a < 2 ^ 64 →
    s.down a = false → s.cutWord a = false → (∀ c, s.ownerOf a = some c → c ≠ core ∧ ∃ y, s.l1 c a = some y ∧ y.st = .o) →
    ∃ t, Machine.exec (.registrationGrant core a) s = .next t ∧ t.ownerOf a = some core ∧
      t.homeRead a = .word (mergeBytes x.mask x.val (s.homeRead a).toWord) ∧
      t.l1 core a = some { x with st := .o, val := mergeBytes x.mask x.val (s.homeRead a).toWord, mask := 15#4 } ∧
      (∀ c, s.ownerOf a = some c → t.l1 c a = none) ∧ (∀ c h, h < 2 ^ 64 → h ≠ a → t.l1 c h = s.l1 c h) ∧
      (∀ b, t.byte b = s.byte b)) ∧
  (∀ (s : State) (core a line : Nat), a % 4 = 0 → line % 64 = 0 →
    ((∀ x, s.l1 core a = some x → x.st ≠ .p) → Machine.exec (.registrationGrant core a) s = .next s) ∧
    (mget false s.caches.miss (l1Key core line) = false → Machine.exec (.lineFill core line) s = .next s)) ∧
  (∀ (s : State) (core line : Nat), line % 64 = 0 → line < 2 ^ 63 → mget false s.caches.miss (l1Key core line) = true →
    s.setStuck core line = false →
    ∃ t : State, Machine.exec (.lineFill core line) s = .next (t.sendMisses core (t.newMisses core (t.unsent core))) ∧
      mget false t.caches.miss (l1Key core line) = false ∧
      (∀ i w, i < 16 → s.homeRead (line + 4 * i) = .word w →
        (s.l1 core (line + 4 * i) = none → t.l1 core (line + 4 * i) = some { st := .v, val := w, mask := 15#4, seq := 0 }) ∧
        (∀ x, s.l1 core (line + 4 * i) = some x →
          t.l1 core (line + 4 * i) = some (if x.st = .v then { x with val := w } else x))) ∧
      (∀ c h, h < 2 ^ 64 → (c ≠ core ∨ lineOf h ≠ line) → t.l1 c h = s.l1 c h) ∧
      (∀ k r l, (t.group k).reg r l = (s.group k).reg r l) ∧
      { t with groups := s.groups, caches := { t.caches with l1 := s.caches.l1, miss := s.caches.miss } } = s) ∧
  (∀ (s : State) (core line : Nat), line % 64 = 0 → line < 2 ^ 63 →
    ∃ t, Machine.exec (.l1Evict core line) s = .next t ∧
      (∀ i x, i < 16 → s.l1 core (line + 4 * i) = some x →
        (x.st = .p → t.l1 core (line + 4 * i) = some x) ∧ (x.st = .v → t.l1 core (line + 4 * i) = none) ∧
        (x.st = .o → t.l1 core (line + 4 * i) = none ∧ t.ownerOf (line + 4 * i) = none ∧ t.sliceWord (line + 4 * i) = x.val)) ∧
      (∀ c h, h < 2 ^ 64 → (c ≠ core ∨ lineOf h ≠ line) → t.l1 c h = s.l1 c h) ∧ (∀ b, t.byte b = s.byte b) ∧
      (mget false s.caches.miss (l1Key core line) = true → t.caches.lines = s.caches.lines) ∧
      { t with mem := s.mem, scrubs := s.scrubs, caches := s.caches } = s) ∧
  (∀ (s : State) (core line : Nat), line % 64 = 0 →
    let block := fun (x : L1Line) => x.demand = true ∧ ∃ l, x.attr = some l ∧ l.home = 0 ∧ l.bit 1 = true ∧
      l.ha x.va / 65536 = line / 65536
    ((∀ p ∈ s.linesOf core, ¬ block p.2) → Machine.exec (.hardwareStridePrefetch core line) s = .next s) ∧
    ((∃ p ∈ s.linesOf core, block p.2) → s.holdsLine core line = true ∨ (s.linesOf core).length < 16 →
    ∃ t, Machine.exec (.hardwareStridePrefetch core line) s = .next t ∧
      (∀ i w, i < 16 → s.l1 core (line + 4 * i) = none → s.homeRead (line + 4 * i) = .word w →
        t.l1 core (line + 4 * i) = some { st := .v, val := w, mask := 15#4, seq := 0 }) ∧
      (∀ c h x, s.l1 c h = some x → t.l1 c h = some x) ∧
      { t with caches := { t.caches with l1 := s.caches.l1, lines := s.caches.lines } } = s))

/-! ### Tiles and matrices -/

/-- DERIVED (R25, R31, R39, R227 to R229, R232, R228, R231): TLD issues where its address, its rows (under .fx its
elements) pass their checks, no earlier access to those words must come first and counter and miss slots have room: the
tile is empty with its type resolved (R229 names no moment: resolved at issue is the model's reading, log entry 47), one
LD operation holds the runs of bytes it waits for, the lanes move on, and no other tile or register changes. TST of a tile
without a mark stores each row's bytes at its address as the group's own stores; no register, and no byte of memory before
the stores arrive, changes. Where an earlier access must come first, or there is no room, they wait. TMOV of unmarked
tiles, where its rows exist: .tt copies a tile; .rt writes each executing lane's register into its row, four bytes at four
times the lane's number where the row is long enough, and resolves D's type, and the scale slots of the rows written
become 1.0; .tr reads a register from a row, or 0 past its end. The lanes move on; nothing else changes. -/
def Obligations.TileInstructions : Prop :=
  ((∀ (s : State) (f : Fields) (va : Nat) (ps : List (Nat × Nat × Nat)) (ss : List (Nat × Nat)) (rt eb : Nat),
    Issues s 0x80 f (fun _ g => tldLegal f g) (tcType (s.g.tc f.d.toNat) == 15) →
    let o := s.opened
    let d := f.d.toNat
    let l := lowest (s.exLanes 0x80 f)
    let b := s.g.reg f.b.toNat l
    let ty := tcType (s.g.tc d)
    (s.rdo 0x80 f).groupAddr f = some va →
    (ty ≠ 15 ∧ f.sub ≠ 1#8 ∧ rt = ty ∧ eb = 0 ∧ ss = [] ∧
        o.rawRows s.cur .load va b.toInt (s.g.rows d) (s.g.rb d) 16 (s.g.rb d) = .ok ps ∨
      ty ≠ 15 ∧ f.sub = 1#8 ∧ rt = ty ∧ eb = rtBits ty / 8 ∧ ss = [] ∧
        o.rawRows s.cur .load va b.toInt (rowElems ty (s.g.rb d)) (s.g.rows d * eb) eb 1 = .ok ps ∨
      ty = 15 ∧ eb = 0 ∧ ∃ lf, o.checkPage (o.who s.cur) .load va 1 anyHome none false = .ok lf ∧ rt = lf.fmt ∧
        o.fxRows s.cur lf va (s.g.rows d) (s.g.rb d) (s.g.reg f.c.toNat l).toNat b.toNat = .ok (ps, ss)) →
    let parts := ps.map fun p => o.partAt s.cur p.1 p.2.1 p.2.2
    let scales := ss.map fun p => (p.1, o.slotFor s.cur p.2 15#4)
    let sls := parts.flatMap TilePart.slots ++ scales.map Prod.snd
    let u := (o.touchAll s.cur ((ps.flatMap fun p => rangeLines p.2.1 p.2.2) ++ ss.map Prod.snd) false).takeMisses s.cur sls
    ((∃ sl ∈ sls, o.loadBusy s.cur sl.addr = true) ∨ o.missRoom (s.coreOf s.cur) sls = false ∨ s.g.countRoom 0 = false →
      Machine.exec (.tld f) s = .next o.stall) ∧
    ((∀ sl ∈ sls, o.loadBusy s.cur sl.addr = false) → o.missRoom (s.coreOf s.cur) sls = true → s.g.countRoom 0 = true →
    ∃ g', Machine.exec (.tld f) s = .next { u.setGroup s.cur g' with nextId := s.nextId + 1 } ∧
      g'.ops = s.g.ops ++ [{ id := s.nextId, cls := 0, kind := .tile d parts eb (s.g.rb d) scales }] ∧
      (∀ j, g'.tile j = if j = d then { s.g.tile d with full := false, rt := rt } else s.g.tile j) ∧
      GroupStep { s.g with ops := g'.ops, tiles := g'.tiles } g' noReg (s.g.nextPc (formLen f.form)))) ∧
  (∀ (s : State) (f : Fields) (va : Nat) (ps : List (Nat × Nat × Nat)), Issues s 0x81 f always false →
    let o := s.opened
    let c := f.c.toNat
    (s.g.tile c).mark = none → (s.rdo 0x81 f).groupAddr f = some va →
    o.rawRows s.cur .store va (s.g.reg f.b.toNat (lowest (s.exLanes 0x81 f))).toInt (s.g.rows c) (s.g.rb c) 16 (s.g.rb c) =
      .ok ps →
    let t := ps.foldl (fun t p => t.storeRange s.cur (p.2.2 / 16) p.2.1 ((s.g.tile c).getBytes p.1 p.2.2))
      (o.touchAll s.cur (ps.flatMap fun p => rangeLines p.2.1 p.2.2) true)
    ((∃ p ∈ ps, o.rangeStuck s.cur p.2.1 p.2.2 = true) → Machine.exec (.tst f) s = .next o.stall) ∧
    ((∀ p ∈ ps, o.rangeStuck s.cur p.2.1 p.2.2 = false) →
      Machine.exec (.tst f) s = .next (s.moveOn t 0x81 f) ∧ (∀ b, t.byte b = s.byte b) ∧
        (∀ r l, (t.group s.cur).reg r l = s.g.reg r l)))) ∧
  (∀ (s : State) (f : Fields), Issues s 0x82 f (fun _ g => tmovLegal f g) false →
    let ex := s.exLanes 0x82 f
    let d := f.d.toNat
    let a := f.a.toNat
    let row := fun l => (s.g.reg f.b.toNat (laneB f ex l)).toNat
    (f.sub = 0#8 → (s.g.tile a).mark = none →
      ∃ g', Machine.exec (.tmov f) s = .next (s.setGroup s.cur g') ∧
        (∀ j, g'.tile j = if j = d then s.g.tile a else s.g.tile j) ∧
        GroupStep { s.g with tiles := g'.tiles } g' noReg (s.g.nextPc (formLen f.form))) ∧
    (f.sub = 1#8 → (∀ l ∈ ex, row l < s.g.rows d) →
      ∃ g', Machine.exec (.tmov f) s = .next (s.setGroup s.cur g') ∧
        (∀ l ∈ ex, 4 * l + 4 ≤ s.g.rb d → ∀ i, i < 4 →
          (g'.tile d).byte (row l * s.g.rb d + 4 * l + i) = (s.g.reg a l).extractLsb' (8 * i) 8) ∧
        (∀ j, (∀ l ∈ ex, 4 * l + 4 ≤ s.g.rb d →
            j < row l * s.g.rb d + 4 * l ∨ row l * s.g.rb d + 4 * l + 4 ≤ j) →
          (g'.tile d).byte j = (s.g.tile d).byte j) ∧
        (g'.tile d).rt = (if tcType (s.g.tc d) = 15 then 0 else tcType (s.g.tc d)) ∧
        (∀ i j, j < 32 → (g'.tile d).scale i j =
          if ∃ l ∈ ex, 4 * l + 4 ≤ s.g.rb d ∧ row l = i then BitVec.ofNat 24 scaleOne else (s.g.tile d).scale i j) ∧
        (∀ j, j ≠ d → g'.tile j = s.g.tile j) ∧
        GroupStep { s.g with tiles := g'.tiles } g' noReg (s.g.nextPc (formLen f.form))) ∧
    (f.sub = 2#8 → (s.g.tile a).mark = none → (∀ l ∈ ex, row l < s.g.rows a) →
      ∃ g', Machine.exec (.tmov f) s = .next (s.setGroup s.cur g') ∧
        GroupStep s.g g' (oneReg d ex fun l => if 4 * l + 4 ≤ s.g.rb a then
            (s.g.tile a).byte (row l * s.g.rb a + 4 * l + 3) ++ (s.g.tile a).byte (row l * s.g.rb a + 4 * l + 2) ++
              (s.g.tile a).byte (row l * s.g.rb a + 4 * l + 1) ++ (s.g.tile a).byte (row l * s.g.rb a + 4 * l)
          else 0#32) (s.g.nextPc (formLen f.form))))

/-- DERIVED (R39, R73, R122, R123, R233 to R236, R297): MMA of unmarked tiles of the pair of formats it names, into an
accumulator that is the group's, holds no uncorrectable error and has no MMA under way: in each executing quarter's unit
the product of the quarter's rows of A (of all 16 rows where A has 16) with B's rows enters the accumulator, whose unset
anchor becomes the pair's; the asynchronous form counts on MX until MMA_COMPLETE. No register, tile or other accumulator
changes. The last part is the product: element (m, n) has, in order, the terms of row m of A with row n of B. -/
def Obligations.MatrixMultiply : Prop :=
  (∀ (s : State) (f : Fields), Issues s 0x83 f (fun _ g => mmaLegal f g) false →
    let ex := s.exLanes 0x83 f
    let ta := s.g.tile f.a.toNat
    let tb := s.g.tile f.b.toNat
    let n := rowElems ta.rt (s.g.rb f.a.toNat)
    ta.mark = none → tb.mark = none → s.accsReady 0x83 f [f.d.toNat] true true → mmaFormats f s.g = true →
    s.g.acc + f.d.toNat < 8 →
    (f.sub.getLsbD 4 = true → s.g.countRoom 3 = true) →
    ∃ (t : State) (g' : Group),
      AccStep s t s.t.core (s.g.acc + f.d.toNat) (quartersOf ex) (fun q x =>
        mmaQuarter ((List.range 16).map fun r => ta.row (s.g.rb f.a.toNat)
            ((if s.g.rows f.a.toNat = 64 then 16 * q else 0) + r) n)
          ((List.range 32).map fun r => tb.row (s.g.rb f.b.toNat) r n) (x.anchored (pairAnchor ta.rt))) ∧
      (f.sub.getLsbD 4 = false → Machine.exec (.mma f) s = .next (t.setGroup s.cur g') ∧
        GroupStep s.g g' noReg (s.g.nextPc (formLen f.form))) ∧
      (f.sub.getLsbD 4 = true → Machine.exec (.mma f) s = .next { t.setGroup s.cur g' with nextId := s.nextId + 1 } ∧
        OpStep s.g g' { id := s.nextId, cls := 3, kind := .mma f.d.toNat } [] [] (formLen f.form))) ∧
  (∀ (s : State) (k id : Nat) (o : Op) (a : Nat), (s.group k).findOp id = some o → o.kind = .mma a →
    (∀ x ∈ (s.group k).ops, x.fail = none) →
    Machine.exec (.mmaComplete k id) s = .next (s.setGroup k { s.group k with
      ops := retire ((s.group k).ops.map fun x => if x.id == id then { x with done := true } else x) [] })) ∧
  (∀ (arows brows : List (List (Val × Val))) (a : Acc) (m n : Nat) (x y : List (Val × Val)), m < 16 → n < 32 →
    arows[m]? = some x → brows[n]? = some y →
    (mmaQuarter arows brows a).el (32 * m + n) = (a.enter (32 * m + n) (dotTerms x y)).el (32 * m + n) ∧
    (mmaQuarter arows brows a).anchor = a.anchor)

/-- DERIVED (R34, R123, R124, R234, R237 to R240, R241, R242): ACCZ makes the accumulator fresh in the executing quarters'
units, its anchor unset; ACCWIN, where every quarter's value is −2048 to 2047, fresh with that anchor; ACCADD enters every
element of A into D as a term, and ORs the flags; ACCRD reads elements in the format named, gathering the overflow flag:
to registers (four columns of the row that B names in the quarter's lowest executing lane, which land later) or under
.tile to the executing quarters' rows of D. Nothing else changes. ACCST stores the image of each executing quarter's
accumulator at the base plus 8,256 bytes times the quarter, by the group's own stores; ACCLD reads those images and enters
them as terms. An image is a 64-byte header and 512 records; entered into an accumulator without an anchor, the image of
an accumulator whose elements all fit a record gives back its elements, anchor and flags. -/
def Obligations.AccumulatorInstructions : Prop :=
  ((∀ (s : State) (f : Fields), s.g.acc + f.d.toNat < 8 →
    (Issues s 0x84 f always false → s.accsReady 0x84 f [f.d.toNat] false false →
      ∃ (t : State) (g' : Group), Machine.exec (.accz f) s = .next (t.setGroup s.cur g') ∧
        AccStep s t s.t.core (s.g.acc + f.d.toNat) (quartersOf (s.exLanes 0x84 f))
          (fun _ _ => { tag := s.tagOf s.cur, anchor := none }) ∧
        GroupStep s.g g' noReg (s.g.nextPc (formLen f.form))) ∧
    (Issues s 0x85 f always false → s.accsReady 0x85 f [f.d.toNat] false false →
      let ex := s.exLanes 0x85 f
      let n := fun q => (s.g.reg f.a.toNat (lowest (ex.filter fun l => quarter l == q))).toInt
      (∀ q ∈ quartersOf ex, -2048 ≤ n q ∧ n q ≤ 2047) →
      ∃ (t : State) (g' : Group), Machine.exec (.accwin f) s = .next (t.setGroup s.cur g') ∧
        AccStep s t s.t.core (s.g.acc + f.d.toNat) (quartersOf ex) (fun q _ => { tag := s.tagOf s.cur, anchor := some (n q) }) ∧
        GroupStep s.g g' noReg (s.g.nextPc (formLen f.form))) ∧
    (Issues s 0x87 f always false → s.accsReady 0x87 f [f.d.toNat, f.a.toNat] false true → s.g.acc + f.a.toNat < 8 →
      ∃ (t : State) (g' : Group), Machine.exec (.accadd f) s = .next (t.setGroup s.cur g') ∧
        AccStep s t s.t.core (s.g.acc + f.d.toNat) (quartersOf (s.exLanes 0x87 f))
          (fun q x => accSum x (s.acc s.t.core q (s.g.acc + f.a.toNat))) ∧
        GroupStep s.g g' noReg (s.g.nextPc (formLen f.form)))) ∧
  (∀ (s : State) (f : Fields), Issues s 0x86 f (fun _ g => accrdLegal f g) false →
    s.accsReady 0x86 f [f.a.toNat] false true → s.g.acc + f.a.toNat < 8 →
    let ex := s.exLanes 0x86 f
    let fc := bits f.sub.toNat 2 0
    let ov := f.sub.getLsbD 3
    let b := fcBits fc
    let d := f.d.toNat
    let acc := fun q => s.acc s.t.core q (s.g.acc + f.a.toNat)
    (f.sub.getLsbD 4 = false →
      let row := fun l => (s.g.reg f.b.toNat (lowest (if f.u then ex else ex.filter fun x => quarter x == quarter l))).toNat
      let els := fun l => (List.range 4).map fun i => 32 * row l + 4 * (l - 8 * quarter l) + i
      let n := fun l => packList b ((els l).map fun i => ((acc (quarter l)).read i (fmtOf fc) ov).1)
      let regs := (List.range (max 1 (b / 8))).map fun i => d + i
      let ls := ex.map fun l => (⟨l, 0, [], .known ((List.range (max 1 (b / 8))).map fun i =>
        (d + i, BitVec.ofNat 32 (n l / 2 ^ (32 * i))))⟩ : LaneLoad)
      (∀ l ∈ ex, row l < 16) →
      ∃ (t : State) (g' : Group), Machine.exec (.accrd f) s = .next { t.setGroup s.cur g' with nextId := s.nextId + 1 } ∧
        AccStep s t s.t.core (s.g.acc + f.a.toNat) (quartersOf ex) (fun q x => { x with
          ovf := x.ovf || (ex.filter fun l => quarter l == q).any fun l => (els l).any fun i => (x.read i (fmtOf fc) ov).2 }) ∧
        OpStep s.g g' { id := s.nextId, cls := 6, kind := .load ls regs (quartersOf ex) } regs (quartersOf ex)
          (formLen f.form)) ∧
    (f.sub.getLsbD 4 = true → (∀ q ∈ quartersOf ex, 16 * q + 16 ≤ s.g.rows d) →
      ∃ (t : State) (g' : Group), Machine.exec (.accrd f) s = .next (t.setGroup s.cur g') ∧
        AccStep s t s.t.core (s.g.acc + f.a.toNat) (quartersOf ex) (fun _ x => { x with
          ovf := x.ovf || (List.range 512).any fun i => (x.read i (fmtOf fc) ov).2 }) ∧
        (∀ q ∈ quartersOf ex, ∀ m, m < 16 → (g'.tile d).getBytes ((16 * q + m) * (32 * b / 8)) (32 * b / 8) =
          leBytes (32 * b / 8) (packList b ((List.range 32).map fun n => ((acc q).read (32 * m + n) (fmtOf fc) ov).1))) ∧
        (g'.tile d).rt = fcFmt fc ∧
        ((∀ r, r < s.g.rows d → r / 16 ∈ quartersOf ex) → (g'.tile d).mark = none) ∧ (∀ j, j ≠ d → g'.tile j = s.g.tile j) ∧
        GroupStep { s.g with tiles := g'.tiles } g' noReg (s.g.nextPc (formLen f.form))))) ∧
  ((∀ (s : State) (f : Fields) (base : Nat), Issues s 0x89 f always false → s.accsReady 0x89 f [f.b.toNat] false true →
    imageBase (s.rdo 0x89 f) f = .ok base →
    let o := s.opened
    let qs := quartersOf (s.exLanes 0x89 f)
    let rs := qs.map fun q => (base + 8256 * q, 8256)
    let p := s.g.acc + f.b.toNat
    o.checkRanges (o.who s.cur) .store 1 rs = none → (∀ r ∈ rs, o.rangeStuck s.cur r.1 r.2 = false) →
    let t := qs.foldl (fun t q => (t.setAcc s.t.core q p (t.acc s.t.core q p).image.2).storeRange s.cur 516
      (base + 8256 * q) (t.acc s.t.core q p).image.1) (o.touchAll s.cur (rs.flatMap fun r => rangeLines r.1 r.2) true)
    Machine.exec (.accst f) s = .next (s.moveOn t 0x89 f) ∧ ∀ b, t.byte b = s.byte b) ∧
  (∀ (s : State) (f : Fields) (base : Nat) (z : List (List Byte) × Option (Cause × Nat) × State)
    (hs : List (Option Int × Bool × Bool × Nat)), Issues s 0x88 f always false →
    s.accsReady 0x88 f [f.d.toNat] false true → imageBase (s.rdo 0x88 f) f = .ok base →
    let o := s.opened
    let qs := quartersOf (s.exLanes 0x88 f)
    let rs := qs.map fun q => (base + 8256 * q, 8256)
    let p := s.g.acc + f.d.toNat
    o.checkRanges (o.who s.cur) .load 1 rs = none →
    (∀ r ∈ rs, (∀ w ∈ o.rangeWords s.cur r.1 r.2, o.loadBusy s.cur w.1 = false) ∧ o.readStuck s.cur r.1 r.2 = false) →
    z = (o.touchAll s.cur (rs.flatMap fun r => rangeLines r.1 r.2) false).readRanges s.cur rs → z.2.1 = none →
    z.1.map readHeader = hs.map some →
    Machine.exec (.accld f) s = .next (s.moveOn ((qs.zip (hs.zip z.1)).foldl (fun t x =>
      t.setAcc s.t.core x.1 p ((t.acc s.t.core x.1 p).enterImage x.2.1
        ((chunks 16 512 (x.2.2.drop 64)).map leNat))) z.2.2) 0x88 f)) ∧
  (∀ (a : Acc) (n : Int) (tag : BitVec 22), a.anchor = some n → -2048 ≤ n → n ≤ 2047 →
    (∀ i, i < 512 → (a.el i).inv = false ∧ (a.el i).cnt = 0 ∧ (a.el i).val.toNat ≠ 2 ^ 127) →
    a.image.1.length = 8256 ∧ a.image.2 = a ∧ readHeader a.image.1 = some (some n, a.inx, a.ovf, 0) ∧
    (let b := ({ tag := tag } : Acc).enterImage (some n, a.inx, a.ovf, 0) ((chunks 16 512 (a.image.1.drop 64)).map leNat)
     b.anchor = some n ∧ b.inx = a.inx ∧ b.ovf = a.ovf ∧ ∀ i, i < 512 → b.el i = a.el i)))

/-- DERIVED (R65, R243 to R245): CLASP of an unmarked tile with a partner core of another cluster, in a bridge with room: its
side enters the bridge, D becomes empty, and the group stays at the instruction; once the exchange has completed the
group's lanes move on. CLASP_EXCHANGE: where each of two sides is the oldest that fits the other and the shapes agree,
each D takes its own half of its own tile and the other half of its partner's, is full, and has its own tile's type;
both groups go on. Where the shapes differ both sides are withdrawn, the lanes that the guards excluded pass over the
instruction (R65), and the sides' lanes raise ILLEGAL_OPND; where the sides do not fit nothing
happens. CLASP_TIMEOUT: once CLTMO core cycles, CLTMO not 0, have passed since its issue, the side is withdrawn, D keeps its
data, and its lanes raise CLASP_TIMEOUT, the excluded lanes passing likewise. -/
def Obligations.Clasp : Prop :=
  (∀ (s : State) (f : Fields), s.g.wait.clasp ≠ none → Machine.exec (.clasp f) s = .next s.stall) ∧
  (∀ (s : State) (f : Fields), Issues s 0x8A f (fun _ g => claspLegal f g) false → s.g.wait.clasp = none →
    let l := lowest (s.exLanes 0x8A f)
    let b := (s.g.reg f.b.toNat l).toNat
    let c := (s.g.reg f.c.toNat l).toNat
    (s.g.wait.claspDone = true →
      ∃ g', Machine.exec (.clasp f) s = .next (s.setGroup s.cur g') ∧
        GroupStep { s.g with wait := { s.g.wait with claspDone := false } } g' noReg (s.g.nextPc (formLen f.form))) ∧
    (s.g.wait.claspDone = false → (s.g.tile f.a.toNat).mark = none → b < 256 → c < 65536 →
      clusterOf b ≠ clusterOf (s.coreOf s.cur) → (s.opened.sidesOf (clusterOf (s.coreOf s.cur))).length < 32 →
      ∃ g', Machine.exec (.clasp f) s = .next { s.setGroup s.cur g' with nextId := s.nextId + 1, stalled := true } ∧
        g'.wait = { s.g.wait with clasp := some { partner := b, tag := c, hi := f.sub == 1#8, d := f.d.toNat,
                                                  a := f.a.toNat, lanes := s.exLanes 0x8A f,
                                                  passed := s.excluded 0x8A f, order := s.nextId } } ∧
        (∀ j, g'.tile j = if j = f.d.toNat then { s.g.tile j with full := false } else s.g.tile j) ∧
        { g' with wait := s.g.wait, tiles := s.g.tiles, park := s.g.park } = s.g)) ∧
  (∀ (s : State) (k j : Nat) (x y : ClaspSide), k ≠ j → (s.group k).wait.clasp = some x →
    (s.group j).wait.clasp = some y → (s.fitting k x).map Prod.fst = some j → (s.fitting j y).map Prod.fst = some k →
    let g := s.group k
    let h := s.group j
    g.rows x.a = h.rows y.a → g.rb x.a = h.rb y.a → (g.tile x.a).rt = (h.tile y.a).rt → g.rows x.a % 2 = 0 →
    ∃ g' h', Machine.exec (.claspExchange k j) s = .next ((s.setGroup k g').setGroup j h') ∧
      (∀ i, i < g.rows x.a * g.rb x.a → (g'.tile x.d).byte i =
        if decide (i < g.rows x.a / 2 * g.rb x.a) = !x.hi then (g.tile x.a).byte i else (h.tile y.a).byte i) ∧
      (∀ i, i < h.rows y.a * h.rb y.a → (h'.tile y.d).byte i =
        if decide (i < h.rows y.a / 2 * h.rb y.a) = !y.hi then (h.tile y.a).byte i else (g.tile x.a).byte i) ∧
      (g'.tile x.d).full = true ∧ (h'.tile y.d).full = true ∧ (g'.tile x.d).rt = (g.tile x.a).rt ∧
      (h'.tile y.d).rt = (h.tile y.a).rt ∧ (∀ i, i ≠ x.d → g'.tile i = g.tile i) ∧ (∀ i, i ≠ y.d → h'.tile i = h.tile i) ∧
      { g' with tiles := g.tiles, wait := { g'.wait with clasp := g.wait.clasp, claspDone := g.wait.claspDone } } = g ∧
      g'.wait.clasp = none ∧ g'.wait.claspDone = true ∧ h'.wait.clasp = none ∧ h'.wait.claspDone = true) ∧
  (∀ (s : State) (k j : Nat),
    (∀ x y, (s.group k).wait.clasp = some x → (s.group j).wait.clasp = some y →
      ((s.fitting k x).map Prod.fst ≠ some j ∨ (s.fitting j y).map Prod.fst ≠ some k →
        Machine.exec (.claspExchange k j) s = .next s) ∧
      ((s.fitting k x).map Prod.fst = some j → (s.fitting j y).map Prod.fst = some k →
        (s.group k).rows x.a ≠ (s.group j).rows y.a ∨ (s.group k).rb x.a ≠ (s.group j).rb y.a ∨
          ((s.group k).tile x.a).rt ≠ ((s.group j).tile y.a).rt →
        let u := ((s.withdraw k).withdraw j).pass k x.passed (formLen .x)
        let v := u.takeTrap k (allRaise x.lanes .illegalOpnd none)
        Machine.exec (.claspExchange k j) s =
          .next ((v.pass j y.passed (formLen .x)).takeTrap j (allRaise y.lanes .illegalOpnd none)))) ∧
    ((s.group k).wait.clasp = none ∨ (s.group j).wait.clasp = none → Machine.exec (.claspExchange k j) s = .next s) ∧
    ((s.group k).wait.clasp = none ∨ (s.group k).ctl.cltmo = 0#32 ∨
        (∃ x, (s.group k).wait.clasp = some x ∧ x.cycles < (s.group k).ctl.cltmo.toNat) →
      Machine.exec (.claspTimeout k) s = .next s)) ∧
  (∀ (s : State) (k : Nat) (x : ClaspSide), (s.group k).wait.clasp = some x → (s.group k).ctl.cltmo ≠ 0#32 →
    (s.group k).ctl.cltmo.toNat ≤ x.cycles →
    ∃ g', Machine.exec (.claspTimeout k) s =
        .next (((s.setGroup k g').pass k x.passed (formLen .x)).takeTrap k (allRaise x.lanes .claspTimeout none)) ∧
      g'.wait.clasp = none ∧ (g'.tile x.d).full = true ∧ (g'.tile x.d).bytes = ((s.group k).tile x.d).bytes ∧
      { g' with tiles := (s.group k).tiles, wait := (s.group k).wait } = s.group k)

/-! ### Asynchronous engines -/

/-- DERIVED (R39, R247, R248, R251 to R260): CPY, COL and BNK with a legal descriptor whose pages pass, and GATH and SCAT
whose lanes' accesses pass, where the class counter has room: the pages are touched as the instruction's table says, and one
operation of the class CP, CL, BK or GS is outstanding, started at once or waiting for its window; a GATH's destination is
empty; a COL has the next ordinal of its rank and fails at once with DATA_LOST where that ordinal's time has passed (the
address recorded, SRC, is the model's choice, log entry 77). The lanes move on. Without room, and for BNK while an earlier
store of the group is in flight, it waits. The last part: issuing the operation changes the group's list of operations and the
next name, nothing else. -/
def Obligations.EngineStarts : Prop :=
  (∀ (s : State) (f : Fields) (va : Nat) (d : List Byte) (u v : State) (start : Option Nat) (m : Map Leaf),
    (Issues s 0x90 f always false → s.g.countRoom 1 = true → s.descriptor 0x90 f va d u →
      cpyOk (bits f.sub.toNat 1 0) (f.sub.getLsbD 2) d = true →
      u.startWindow ((dfld d 0x3C 4).testBit 0) (dfld d 0x38 4) = .ok start →
      u.cpyPages (u.who s.cur) (f.sub.getLsbD 2) d = .ok (m, v) →
      let e : EngineOp := { code := 0, sub := f.sub.toNat, dva := va, start := start, pages := m, args := cpyArgs d }
      Machine.exec (.cpy f) s = .next (s.moveOn (((u.cpyTouch s.cur d).objectTouch s.cur (f.sub.getLsbD 2) d).startOp
        s.cur 1 e none) 0x90 f)) ∧
    (Issues s 0x93 f always false → s.g.countRoom 4 = true → s.descriptor 0x93 f va d u →
      u.colOk (u.group s.cur) f.sub.toNat d = true →
      u.startWindow ((dfld d 0x2C 2).testBit 0) (dfld d 0x28 4) = .ok start →
      u.colPages (u.who s.cur) f.sub.toNat d = .ok (m, v) →
      let push := (dfld d 0x2C 2).testBit 1
      let set := dfld d 0x1C 2
      let rank := dfld d 0x1E 2
      let e : EngineOp := { code := 3, sub := f.sub.toNat, dva := va, start := start, pages := m, args := u.colArgs d,
                            out := if push then [BitVec.ofNat 32 (dfld d 0x24 4)] else [] }
      let t := ((u.colTouch s.cur f.sub.toNat d).startOp s.cur 4 e
        (if push then some (bits (dfld d 0x2C 2) 4 2) else none)).countCol set rank
      (u.colIsLate set (u.colIssued set rank) = false → Machine.exec (.col f) s = .next (s.moveOn t 0x93 f)) ∧
      (u.colIsLate set (u.colIssued set rank) = true → Machine.exec (.col f) s =
        .next (s.moveOn (t.failOp s.cur (t.nextId - 1) e ⟨.dataLost, dfld d 0 8⟩) 0x93 f))) ∧
    (∀ l, Issues s 0x94 f always false → s.g.countRoom 5 = true → s.descriptor 0x94 f va d u →
      bnkOk (u.group s.cur) f.sub.toNat d = true →
      u.startWindow ((dfld d 0x3C 2).testBit 0) (dfld d 0x38 4) = .ok start →
      let a := fun i => (bnkArgs d).getD i 0
      u.bnkPages (u.who s.cur) f.sub.toNat a = .ok (m, v) →
      u.checkAccess (u.who s.cur) .engineWrite va 1 anyHome none = .ok l →
      let e : EngineOp := { code := 4, sub := f.sub.toNat, dva := va, start := start, args := bnkArgs d,
                            pages := mset (va / 65536) l m }
      (u.flying s.cur false = false → Machine.exec (.bnk f) s =
        .next (s.moveOn ((u.bnkTouch s.cur f.sub.toNat a m va).startOp s.cur 5 e
          (if f.sub.toNat ≤ 3 ∧ (a 10).testBit 4 then some (bits (a 10) 7 5) else none)) 0x94 f)) ∧
      (u.flying s.cur false = true → Machine.exec (.bnk f) s = .next u.stall)) ∧
    (Issues s 0x90 f always false → s.g.countRoom 1 = false → Machine.exec (.cpy f) s = .next s.opened.stall) ∧
    (Issues s 0x93 f always false → s.g.countRoom 4 = false → Machine.exec (.col f) s = .next s.opened.stall) ∧
    (Issues s 0x94 f always false → s.g.countRoom 5 = false → Machine.exec (.bnk f) s = .next s.opened.stall)) ∧
  (∀ (s : State) (f : Fields) (start : Option Nat) (xs : List (LaneLoad × List Nat)) (ys : List (Nat × Leaf × Word)),
    let o := s.opened
    (Issues s 0x91 f always false → s.g.countRoom 2 = true →
      o.sortLanes s.cur (fun t l => t.gathLane s.cur f (s.rdo 0x91 f) l) Prod.snd (s.exLanes 0x91 f) = (xs, []) →
      laneWindow o s.cur f (s.exLanes 0x91 f) = .ok start →
      let e : EngineOp := { code := 1, sub := f.sub.toNat, dva := 0, start := start, args := [f.d.toNat],
                            lanes := xs.map Prod.fst }
      let t := (o.touchPages s.cur (xs.flatMap Prod.snd) false).updGroup s.cur fun g =>
        g.setEmpty f.d.toNat (quartersOf (s.exLanes 0x91 f)) true
      Machine.exec (.gath f) s = .next (s.moveOn (t.startOp s.cur 2 e none) 0x91 f)) ∧
    (Issues s 0x92 f always false → s.g.countRoom 2 = true →
      o.sortLanes s.cur (fun t l => t.scatLane s.cur f (s.rdo 0x92 f) l) (fun y => [y.1]) (s.exLanes 0x92 f) = (ys, []) →
      laneWindow o s.cur f (s.exLanes 0x92 f) = .ok start →
      let e : EngineOp := { code := 2, sub := 0, dva := 0, start := start, args := ys.flatMap fun y => [y.1, y.2.2.toNat],
                            pages := ys.foldl (fun m y => mset (y.1 / 65536) y.2.1 m) [] }
      Machine.exec (.scat f) s =
        .next (s.moveOn ((o.touchPages s.cur (ys.map Prod.fst) true).startOp s.cur 2 e none) 0x92 f)) ∧
    (s.g.countRoom 2 = false →
      (Issues s 0x91 f always false → laneWindow o s.cur f (s.exLanes 0x91 f) = .ok start →
        Machine.exec (.gath f) s = .next o.stall) ∧
      (Issues s 0x92 f always false → laneWindow o s.cur f (s.exLanes 0x92 f) = .ok start →
        Machine.exec (.scat f) s = .next o.stall))) ∧
  (∀ (s : State) (k cls : Nat) (e : EngineOp) (port : Option Nat), (∀ x ∈ (s.group k).ops, x.id < s.nextId) →
    let o : Op := { id := s.nextId, cls := cls, kind := .engine { e with started := e.start.isNone }, port := port }
    s.startOp k cls e port = { s.setGroup k { s.group k with ops := (s.group k).ops ++ [o] } with nextId := s.nextId + 1 })

/-- DERIVED (R39, R55, R145, R249 to R251, R253 to R257, R260, R289): how an engine operation goes on; that a CPY goes by
requests, a BNK by steps, and SCAT, GATH and COL at one moment is the model's reading (log entry 49). ATW_START starts it at
its window, not before. CPY_REQUEST_APPLIED of a started copy reads its next 2,048 bytes and writes at their homes the words
that no later byte names, holding the others for the request that does, and counts its barrier object down for the requests
whose bytes have been applied; without overlap each destination byte is its source's.
ENGINE_OP_COMPLETE ends a copy whose bytes are all applied and counted, lands a gather in lane order, and writes a scatter's
words, where lanes name one word the highest lane's value remaining; a bank command reads operand words, each once, as far as
64 bursts of each bank group go, or when it has those of its next step writes. COLLECTIVE_JOIN of an ordinal that every rank
has started computes its results where the operations agree and the last joined at most COLTMO after the first; it fails every
member with ILLEGAL_OPND where they do not agree, with DATA_LOST where one came later; COLLECTIVE_TIMEOUT fails every joined
member with DATA_LOST once more than COLTMO has passed since the first arrival of an ordinal that not every rank has joined
(the addresses recorded are the model's choice, log entry 77). A failure ends the operation; a collective that owes its port a
notice pushes it first. An operation that ends counts down in issue order, and the core's V copies of what it wrote are
dropped. -/
def Obligations.EngineProgress : Prop :=
  (∀ (s : State) (k id : Nat) (o : Op) (e : EngineOp), (s.group k).engineOf id = some (o, e) →
    let set := fun (t : State) (x : EngineOp) => t.updGroup k fun g => g.setEngine id x
    (e.started = false → e.start.getD 0 ≤ s.window → Machine.exec (.atwStart k id) s = .next (set s { e with started := true })) ∧
    (s.window < e.start.getD 0 → Machine.exec (.atwStart k id) s = .next s) ∧
    (∀ m, e.started = true → o.fail = some m →
      (e.code ≠ 3 → Machine.exec (.engineOpComplete k id) s = .next (s.failOp k id e m)) ∧
      (e.code = 0 → Machine.exec (.cpyRequestApplied k id) s = .next (s.failOp k id e m))) ∧
    (e.started = true → e.code = 3 → e.next ≠ 0 →
      Machine.exec (.engineOpComplete k id) s = .next (s.pushAndEnd k id e o.port true)) ∧
    (e.started = true → o.fail = none →
      (e.code = 0 → e.owed = [] → e.next < e.cpyBytes →
        let n := e.requestLen
        let i := e.next + n
        let z := (List.range n).foldl (fun z j => cpyStep s z (e.next + j)) (.ok (e, e.keep))
        (∀ c a, z = .error (c, a) → Machine.exec (.cpyRequestApplied k id) s = .next (s.failOp k id e ⟨c, a⟩)) ∧
        (∀ e' m, z = .ok (e', m) →
          let w := s.engineWords k id { e' with next := i, keep := e'.kept i m } (e'.whole i m)
          (∀ t u x, w = (t, u, some x) → Machine.exec (.cpyRequestApplied k id) s = .next (t.failOp k id u x)) ∧
          (∀ t u, w = (t, u, none) →
            (∀ v y x, t.countObject k id (u.owes t.nextId n) = (v, y, some x) →
              Machine.exec (.cpyRequestApplied k id) s = .next (v.failOp k id y x)) ∧
            (∀ v y, t.countObject k id (u.owes t.nextId n) = (v, y, none) →
              Machine.exec (.cpyRequestApplied k id) s = .next (set v y))))) ∧
      (e.code = 0 → e.cpyBytes ≤ e.next → e.owed = [] → s.opFlying id = false →
        Machine.exec (.engineOpComplete k id) s = .next (s.endOp k id e none)) ∧
      (e.code = 1 →
        let g := (e.lanes.foldl (fun g x => g.land s.tick x (x.slots.map fun sl => s.routeGot sl.addr sl.route))
          (s.group k)).setEmpty (e.arg 0) (quartersOf (e.lanes.map LaneLoad.lane)) false
        Machine.exec (.engineOpComplete k id) s =
          .next (((s.setGroup k g).countBytes k (4 * e.lanes.length)).endOp k id e none)) ∧
      (e.code = 2 → e.next = 0 → ∀ t u, s.engineWords k id { e with next := 1 } (e.scatMap [] e.args) = (t, u, none) →
        Machine.exec (.engineOpComplete k id) s =
          .next (if t.opFlying id then set t u else (set t u).endOp k id u none)) ∧
      (e.code = 2 → e.next ≠ 0 → s.opFlying id = false →
        Machine.exec (.engineOpComplete k id) s = .next (s.endOp k id e none)) ∧
      (e.code = 4 → e.bnkTotal ≤ e.next →
        Machine.exec (.engineOpComplete k id) s = .next (s.pushAndEnd k id e o.port (e.next == e.bnkTotal))) ∧
      (e.code = 4 → e.next < e.bnkTotal →
        let t := s.bnkRun k id e o.port
        ((t.group k).engineOf id = none → Machine.exec (.engineOpComplete k id) s = .next t) ∧
        (∀ o' x, (t.group k).engineOf id = some (o', x) →
          Machine.exec (.engineOpComplete k id) s = .next (t.pushAndEnd k id x o.port (x.next == x.bnkTotal)))))) ∧
  (∀ (s : State) (k id : Nat) (e : EngineOp) (m : Mark),
    let t : State := { s with caches := { s.caches with flights := s.caches.flights.filter fun p => p.2.op != some id } }
    (e.code ≠ 3 ∨ e.out = [] → s.failOp k id e m = t.endOp k id e (some m)) ∧
    (e.code = 3 → e.out ≠ [] → s.failOp k id e m = t.updGroup k fun g => g.updOp id fun o =>
      { o with kind := .engine { e with started := true, next := 1 }, fail := o.fail.or (some m) })) ∧
  (∀ e : EngineOp, (e.next + 2048 ≤ e.cpyBytes → e.requestLen = 2048) ∧
    (e.cpyBytes < e.next + 2048 → e.requestLen = e.cpyBytes - e.next)) ∧
  (∀ (e : EngineOp) (i : Nat) (m : WordMap) (p : Nat × Nat × BitVec 4 × Word), p ∈ m →
    (p ∈ e.kept i m ↔ e.namesFrom i (paOf (p.1 / 2)) = true) ∧ (p ∈ e.whole i m ↔ ¬p ∈ e.kept i m)) ∧
  (∀ (e : EngineOp) (i pa : Nat), e.arg 3 * e.arg 4 ≤ i / e.arg 2 → e.namesFrom i pa = false) ∧
  (∀ (e : EngineOp) (x n : Nat),
    (e.sub.testBit 2 = false → e.owes x n = e) ∧
    (e.sub.testBit 2 = true → e.keep ≠ [] → e.owes x n = { e with uncount := e.uncount ++ [n] }) ∧
    (e.sub.testBit 2 = true → e.keep = [] →
      e.owes x n = { e with owed := e.owed ++ (e.uncount ++ [n]).map fun c => (x, c), uncount := [] })) ∧
  (∀ (s : State) (k id : Nat) (e : EngineOp), s.opFlying id = false →
    s.pushAndEnd k id { e with out := [] } none true = s.endOp k id { e with out := [] } none) ∧
  (∀ (s t : State) (k id : Nat) (e e' u : EngineOp) (port : Option Nat) (m : WordMap),
    e.bnkNeeds.all e.hasSeen = true → s.bnkWrites e port.isSome = .ok (e', m) → e'.next + e'.bnkStep ≠ e'.bnkTotal →
    s.engineWords k id { e' with next := e'.next + e'.bnkStep } m = (t, u, none) →
    s.bnkRun k id e port = (t.countBytes k 0).updGroup k fun g => g.setEngine id u) ∧
  (∀ (s : State) (k id : Nat) (e : EngineOp) (port : Option Nat), e.bnkNeeds.all e.hasSeen = false →
    (∀ c a, s.bnkRead e [] e.bnkNeeds = .error (c, a) → s.bnkRun k id e port = s.failOp k id e ⟨c, a⟩) ∧
    (∀ e', s.bnkRead e [] e.bnkNeeds = .ok e' → s.bnkRun k id e port = s.updGroup k fun g => g.setEngine id e')) ∧
  (∀ (s : State) (e e' : EngineOp) (used : List (Nat × Nat)) (vas : List Nat) (key : Nat) (w : Word),
    s.bnkRead e used vas = .ok e' → mfind key e.seen = some w → mfind key e'.seen = some w) ∧
  (∀ (used u : List (Nat × Nat)) (b : Option (Nat × Nat)) (bank : Nat), addBurst used b = some u →
    (used.filter fun y => y.1 == bank).length ≤ 64 → (u.filter fun y => y.1 == bank).length ≤ 64) ∧
  (∀ (s : State) (k id : Nat) (e : EngineOp), (∀ x ∈ (s.group k).ops, x.fail = none) →
    s.endOp k id e none = (s.dropV (s.coreOf k) fun a => e.words.contains a).setGroup k { s.group k with
      ops := retire ((s.group k).ops.map fun x => if x.id == id then { x with done := true } else x) [] }) ∧
  (∀ (s : State) (k id n x : Nat) (e : EngineOp) (l : Leaf), e.owed = [(x, n)] → e.leaf (e.arg 9) = some l →
    ((∃ p ∈ s.caches.flights, p.2.op = some id ∧ p.1 < x) → s.countObject k id e = (s, e, none)) ∧
    let o := l.ha (e.arg 9)
    (s.opFlying id = false → s.objectGone o (s.arriveReads o n) = false →
      s.countObject k id e = ((s.arrive o n).2, { e with owed := [] }, none)) ∧
    (s.opFlying id = false → s.objectGone o (s.arriveReads o n) = true →
      s.countObject k id e = (s, e, some ⟨.dataLost, e.arg 9⟩))) ∧
  (∀ (s : State) (e : EngineOp) (n : Nat) (b : Nat → Byte) (key : Nat → Nat), e.wrote = [] → e.part = [] →
    (∀ i, i < n → e.inSource (e.cpyByte (e.next + i)).2 = false ∧ s.opByte e (e.cpyByte (e.next + i)).1 = .ok (b i) ∧
      (∀ l, e.leaf (e.cpyByte (e.next + i)).1 = some l → 16 ≤ l.size) ∧
      e.homeKey (e.cpyByte (e.next + i)).2 = some (key i)) →
    (∀ i j, i < n → j < n → paOf (key i / 2) = paOf (key j / 2) → key i = key j ∧
      ((e.cpyByte (e.next + i)).2 % 4 = (e.cpyByte (e.next + j)).2 % 4 → i = j)) →
    ∃ p m, (List.range n).foldl (fun z i => cpyStep s z (e.next + i)) (.ok (e, [])) = .ok ({ e with part := p }, m) ∧
      ∀ i, i < n → ∃ x, mfind (key i) m = some x ∧ x.2.1.getLsbD ((e.cpyByte (e.next + i)).2 % 4) = true ∧
        x.2.2.extractLsb' (8 * ((e.cpyByte (e.next + i)).2 % 4)) 8 = b i) ∧
  (∀ (e : EngineOp) (m : WordMap) (ps : List (Nat × Nat)) (a v key : Nat), a % 4 = 0 → e.homeKey a = some key →
    let z := e.scatMap m ((ps ++ [(a, v)]).flatMap fun p => [p.1, p.2])
    (∃ x, mfind key z = some x ∧ x.2.1 = 15#4 ∧ x.2.2 = BitVec.ofNat 32 v) ∧
    (∀ k', paOf (k' / 2) ≠ paOf (key / 2) → mfind k' z = mfind k' (e.scatMap m (ps.flatMap fun p => [p.1, p.2])))) ∧
  (∀ (s : State) (set : Nat) (c : CollectiveSet) (remote : List RankData), mfind set s.dev.colsets = some c →
    let ops := (s.colOps set).filter fun x => x.e.arg 9 == leastOrd (s.colOps set)
    ((∃ r ∈ s.localRanks c, ∀ x ∈ ops, x.e.arg 5 = r → x.e.started = false) →
      Machine.exec (.collectiveJoin set remote) s = .next s) ∧
    (∀ r : ColOp → List Byte × List Byte, ops ≠ [] →
      (∀ l ∈ s.localRanks c, ∃ x ∈ ops, x.e.arg 5 = l ∧ x.e.started = true) →
      (∀ l, l < c.nodes.length → l ∉ s.localRanks c → ∃ x ∈ remote, x.rank = l) →
      (∀ x ∈ ops, s.colRead x.e = .ok (r x)) →
      let all := (List.range c.nodes.length).filterMap fun i =>
        ((ops.map fun x => x.data (r x).1) ++ remote).find? fun x => x.rank == i
      let times := (ops.map fun x => x.e.arg 10) ++ (remote.filter fun x =>
        ((List.range c.nodes.length).filter fun i => !(s.localRanks c).contains i).contains x.rank).map RankData.time
      (pastTmo c.tmo times = true → Machine.exec (.collectiveJoin set remote) s =
        .next (s.colFail set (leastOrd (s.colOps set)) ops)) ∧
      (pastTmo c.tmo times = false →
      (colAgree all = true → Machine.exec (.collectiveJoin set remote) s =
        .next (ops.foldl (fun t x => t.colWrite x c.nodes.length all (r x).2) s)) ∧
      (colAgree all = false → Machine.exec (.collectiveJoin set remote) s =
        .next (ops.foldl (fun t x =>
          let z := t.colSpoil x.grp x.id x.e c.nodes.length
          z.1.failOp x.grp x.id z.2 ⟨.illegalOpnd, x.e.dva⟩) s)))) ∧
    (∀ arrivals : List Nat, ops ≠ [] →
      let first := (ops.map (fun x => x.e.arg 10) ++ arrivals).foldl min s.dev.time
      let joined := ((s.localRanks c).filter fun i => ops.any fun x => x.e.arg 5 == i).length + arrivals.length
      (s.dev.time ≤ first + c.tmo ∨ c.nodes.length ≤ joined →
        Machine.exec (.collectiveTimeout ⟨set, arrivals⟩) s = .next s) ∧
      (first + c.tmo < s.dev.time → joined < c.nodes.length → Machine.exec (.collectiveTimeout ⟨set, arrivals⟩) s =
        .next (s.colFail set (leastOrd (s.colOps set)) ops)))) ∧
  (∀ (s : State) (set ord : Nat) (ops : List ColOp), s.colFail set ord ops =
    ops.foldl (fun t y => t.failOp y.grp y.id y.e ⟨.dataLost, y.e.arg 0⟩)
      { s with dev := { s.dev with colLate := mset set (ord :: mget [] s.dev.colLate set) s.dev.colLate } }) ∧
  (∀ (tmo : Nat) (ts : List Nat), pastTmo tmo ts = true ↔ ∃ a ∈ ts, ∃ b ∈ ts, a + tmo < b) ∧
  (∀ (count n rank root : Nat) (anchor : Int) (all : List RankData) (x : RankData), all[root]? = some x →
    colValue 0xB count n rank root anchor all = x.data ∧ colValue 0xA count n rank root anchor all = all.flatMap RankData.data)

/-- DERIVED (R133, R134, R249, R261, R262, R297, R334): barrier objects, not awaited by an earlier access of the group. BOINI
sets EXPECT and PENDING to B, and the phase and reserved words to 0. BOARR, once a release at dev completes, gives the
executing lanes the phase bit that it found and counts B arrivals down: the last one flips the phase and reloads PENDING, one
too many sets the error bit; before that it waits. BOWAIT completes, as an acquire at dev, once the phase bit differs from bit
0 of B and the group's loads have returned (that wait is the model's reading, log entry 45), and waits before. An object that
cannot be reached, and one that has an error in a word that the instruction reads, raises DATA_LOST in every executing lane:
BOINI reads none, BOARR CUR, PHASE and, at the end of a phase, EXPECT, BOWAIT PHASE. -/
def Obligations.BarrierObjects : Prop :=
  (∀ (s : State) (f : Fields) (op va : Nat) (l : Leaf), (s.rdo op f).groupAddr f = some va → Issues s op f always false →
    let so := s.opened
    so.checkObject (so.who s.cur) .load .store va = .ok l →
    let o := l.ha va
    (∀ i, i < 4 → so.loadBusy s.cur (o + 4 * i) = false) →
    let ex := s.exLanes op f
    let b := s.g.reg f.b.toNat (lowest ex)
    let gone : Nat → Bool := fun x =>
      if x = 0x95 then so.down o || so.cutWord o || so.cutWord (o + 4) || so.cutWord (o + 8) || so.cutWord (o + 12)
      else so.objectGone o (if x = 0x96 then so.arriveReads o b.toNat else [8])
    (op = 0x95 → b ≠ 0#32 → gone 0x95 = false →
      Machine.exec (.boini f) s = .next (s.moveOn (((((so.touchPages s.cur [va] true).putWord o 15#4 b).putWord (o + 4)
        15#4 b).putWord (o + 8) 15#4 0#32).putWord (o + 12) 15#4 0#32) 0x95 f)) ∧
    (op = 0x96 → b ≠ 0#32 → gone 0x96 = false →
      (∀ t, so.release s.cur 4 = some t →
        let p := (t.touchPages s.cur [va] true).arrive o b.toNat
        Machine.exec (.boarr f) s = .next (s.moveOn (p.2.updGroup s.cur fun g =>
          g.setRegs f.d.toNat ex fun _ => BitVec.ofNat 32 p.1) 0x96 f)) ∧
      (so.release s.cur 4 = none → Machine.exec (.boarr f) s = .next (so.relWait s.cur 4).stall)) ∧
    (op = 0x97 → s.g.fails = [] → gone 0x97 = false →
      ((so.ctlWord (o + 8)).getLsbD 0 ≠ b.getLsbD 0 → s.g.loading = false →
        Machine.exec (.bowait f) s = .next (s.moveOn ((so.touchPages s.cur [va] false).acquire s.cur 4) 0x97 f)) ∧
      ((so.ctlWord (o + 8)).getLsbD 0 = b.getLsbD 0 ∨ s.g.loading = true →
        Machine.exec (.bowait f) s = .next so.stall)) ∧
    (gone op = true → ∀ i, (i = .boini f ∧ op = 0x95 ∧ b ≠ 0#32) ∨ (i = .boarr f ∧ op = 0x96 ∧ b ≠ 0#32) ∨
        (i = .bowait f ∧ op = 0x97 ∧ s.g.fails = []) →
      Machine.exec i s = .next ((so.pass s.cur (s.excluded op f) (formLen f.form)).takeTrap s.cur
        (allRaise ex .dataLost (some va))))) ∧
  (∀ (s : State) (o : Nat) (b : Word), (∀ i, i < 4 → isWindow (o + 4 * i) = false) →
    let t := (((s.putWord o 15#4 b).putWord (o + 4) 15#4 b).putWord (o + 8) 15#4 0#32).putWord (o + 12) 15#4 0#32
    t.ctlWord o = b ∧ t.ctlWord (o + 4) = b ∧ t.ctlWord (o + 8) = 0#32 ∧ t.ctlWord (o + 12) = 0#32 ∧
      (∀ x, (x < o ∨ o + 16 ≤ x) → t.byte x = s.byte x) ∧
      { t with mem := s.mem, scrubs := s.scrubs, caches := s.caches, fences := s.fences } = s) ∧
  (∀ (s : State) (o n : Nat), (∀ i, i < 4 → isWindow (o + 4 * i) = false) →
    let p := s.arrive o n
    let pend := (s.ctlWord (o + 4)).toNat
    let ph := s.ctlWord (o + 8)
    p.1 = ph.toNat % 2 ∧ p.2.ctlWord o = s.ctlWord o ∧
      (pend ≤ n → p.2.ctlWord (o + 4) = s.ctlWord o ∧
        p.2.ctlWord (o + 8) = ((ph ^^^ 1#32) ||| (if pend < n then 2#32 else 0#32))) ∧
      (n < pend → p.2.ctlWord (o + 4) = BitVec.ofNat 32 (pend - n) ∧ p.2.ctlWord (o + 8) = ph) ∧
      (∀ x, (x < o + 4 ∨ o + 12 ≤ x) → p.2.byte x = s.byte x) ∧
      { p.2 with mem := s.mem, scrubs := s.scrubs, caches := s.caches, fences := s.fences } = s)

/-! ### Keyed queues -/

/-- DERIVED (R264 to R266, R272, R265, R269 to R271, R273): KQCFG with a legal configuration of a queue of the group's own
cluster, once the queue's waiters have been served (served first, and raising KQ_BADCFG when a user context disables the
queue: log entry 52): a queue that holds no record and that the context may configure takes the capacity, mode, operation
and owner; disabled, by such a context or by a system context, it loses its records, and the lanes that wait on it are to
raise KQ_BADCFG. Otherwise, or past the home's 4,096 records, every executing lane raises KQ_BADCFG and nothing changes.
KQSTAT gives the executing lanes the held and the takeable records and the lowest bucket. Every other queue is unchanged.
KQPUSH, KQTAKE and KQSTEAL where every executing lane's queue reference is legal and its queue admits the group. The
waiting forms send their requests to their homes in lane order, complete when every one has been performed, and wait in
the queues' lists before; the forms that do not wait try each once: KQPUSH .nb writes its status bits, KQPUSH .trap raises
KQ_FULL in the refused lanes, a take gives zeros to a refused lane. The port forms push up to B records, four words each,
into the port, once it has room, and give the number taken. What takes received stands in the four destination registers
of its lane. KQ_WAITER_SERVED performs the waiting requests for which their queues now have room or a record. That
requests which already wait are served before a new one is the model's reading (log entry 52). -/
def Obligations.QueueInstructions : Prop :=
  ((∀ (s : State) (f : Fields) (q : Nat), Issues s 0xA0 f always false →
    let l := lowest (s.exLanes 0xA0 f)
    let c := (s.g.reg f.a.toNat l).toNat
    let u := s.opened.kqWake q
    let old := u.kq q
    let new := { old with en := c.testBit 7, cap := bits c 31 20, rdy := bits c 6 6, op := bits c 2 0,
                          partid := s.t.partid, sys := s.t.sys }
    let open_ := old.recs = [] ∧ (old.en = true → old.partid = s.t.partid ∧ (old.sys = true → s.t.sys = true))
    qref (clusterOf s.t.core) true false ((s.rd 0xA0 f).b 0xA0 f l) = some q → bits c 19 8 = 0 → bits c 5 3 = 0 →
    (c.testBit 7 = true → open_ → u.homeCap q new ≤ 4096 →
      Machine.exec (.kqcfg f) s = .next (s.moveOn (u.setKq q new) 0xA0 f)) ∧
    (c.testBit 7 = false → open_ ∨ s.t.sys = true →
      Machine.exec (.kqcfg f) s = .next (s.moveOn (u.kqDisable q new) 0xA0 f)) ∧
    (¬ open_ ∧ (s.t.sys = false ∨ c.testBit 7 = true) ∨ c.testBit 7 = true ∧ 4096 < u.homeCap q new →
      Machine.exec (.kqcfg f) s = .next ((u.pass s.cur (s.excluded 0xA0 f) (formLen f.form)).takeTrap s.cur
        (allCause (s.exLanes 0xA0 f) .kqBadcfg)))) ∧
  (∀ (s : State) (q : Nat) (x : KQueue), (s.kq q).waiters = [] →
    (∀ j, (s.kqWake q).kq j = s.kq j) ∧ { s.kqWake q with kqs := s.kqs } = s ∧
    (∀ j, (s.setKq q x).kq j = if j = q then x else s.kq j) ∧
    (∀ j, (s.kqDisable q x).kq j = if j = q then { x with recs := [], waiters := [] } else s.kq j)) ∧
  (∀ (s : State) (k q : Nat) (x : KQueue) (w : KqWait), x.waiters = [k] → (s.group k).wait.kq = some w →
    ((s.kqDisable q x).group k).wait.kq = some { w with
      todo := w.todo.filter (fun r => r.q != q),
      bad := w.bad ++ (w.todo.filter fun r => r.q == q).map fun r => (r.lane, .kqBadcfg) }) ∧
  (∀ (s : State) (f : Fields) (q : Nat), Issues s 0xA4 f always false →
    kqLane s.opened s.cur true false false ((s.rdo 0xA4 f).b 0xA4 f (lowest (s.exLanes 0xA4 f))) = .ok q →
    let u := s.opened.kqWake q
    let x := u.kq q
    let ex := s.exLanes 0xA4 f
    Machine.exec (.kqstat f) s = .next (s.moveOn (u.updGroup s.cur fun g =>
      (g.setRegs f.d.toNat ex fun _ => BitVec.ofNat 32 (x.recs.length + 2 ^ 16 * (x.recs.filter x.takeable).length)).setRegs
        (f.d.toNat + 1) ex fun _ => match x.select with
          | some r => BitVec.ofNat 32 r.bucket
          | none => 0xFFFFFFFF#32) 0xA4 f))) ∧
  ((∀ (i : Instr) (op d : Nat) (own other : Bool) (s : State) (f : Fields) (legal : Team → Group → Bool)
    (rec? : Nat → Option KqRec),
    (i = .kqpush f ∧ op = 0xA1 ∧ d = 0 ∧ own = true ∧ other = true ∧ legal = (fun _ _ => f.sub != 1#8 || bitE f) ∧
        rec? = fun l => some (pushRec s.g f.a.toNat l)) ∨
      ((i = .kqtake f ∧ op = 0xA2 ∧ own = true ∨ i = .kqsteal f ∧ op = 0xA3 ∧ own = false) ∧ other = !own ∧
        d = f.d.toNat ∧ legal = always ∧ rec? = fun _ => none) →
    Issues s op f legal false → f.sub = 0#8 →
    let o := s.opened
    let w := kqSplit o s.cur own other (s.exLanes op f) ((s.rdo op f).b op f) rec?
    let z := if s.g.wait.kq = none then
        kqRun (fun _ => true) w.todo (o.kqWakes w.queues, { w with todo := [], d := d }) []
      else
        let w₀ := s.g.wait.kq.getD { todo := [] }
        (o.kqWakes w₀.queues, ((o.kqWakes w₀.queues).group s.cur).wait.kq.getD w₀)
    (z.2.todo = [] → z.2.bad = [] →
      Machine.exec i s = .next (s.moveOn ((z.1.updGroup s.cur fun g =>
        { g.kqWrite z.2.d z.2.got with wait := { g.wait with kq := none } }).leaveQueues s.cur) op f)) ∧
    (∀ t, z.2.todo ≠ [] → kqFinish z.1 s.cur z.2 = .wait t → Machine.exec i s = .next t.stall)) ∧
  (∀ (s : State) (k : Nat) (w : KqWait), w.todo ≠ [] →
    ∃ t, kqFinish s k w = .wait t ∧ (t.group k).wait.kq = some w ∧ (∀ q ∈ w.queues, k ∈ (t.kq q).waiters) ∧
      (∀ q, q ∉ w.queues → t.kq q = s.kq q) ∧ { t with groups := s.groups, kqs := s.kqs } = s) ∧
  (∀ (s : State) (f : Fields), Issues s 0xA1 f (fun _ _ => f.sub != 1#8 || bitE f) false →
    let o := s.opened
    let w := kqSplit o s.cur true true (s.exLanes 0xA1 f) ((s.rdo 0xA1 f).b 0xA1 f) fun l => some (pushRec s.g f.a.toNat l)
    let t := (kqOnce o w).1
    w.bad = [] →
    (f.sub = 1#8 → Machine.exec (.kqpush f) s = .next (s.moveOn (writeStatus t s.cur f
      (w.todo.map KqReq.lane) fun l => !(kqOnce o w).2.2.contains l) 0xA1 f)) ∧
    (f.sub ≠ 0#8 → f.sub ≠ 1#8 →
      let full := (kqOnce o w).2.2
      (full = [] → Machine.exec (.kqpush f) s = .next (s.moveOn t 0xA1 f)) ∧
      Machine.exec (.kqpush f) s = .next (((t.pass s.cur (s.excluded 0xA1 f) (formLen f.form)).pass s.cur
        ((s.exLanes 0xA1 f).filter fun l => !full.contains l) (formLen f.form)).takeTrap s.cur (allCause full .kqFull)))) ∧
  (∀ (i : Instr) (op : Nat) (own : Bool) (s : State) (f : Fields),
    (i, op, own) ∈ [(Instr.kqtake f, 0xA2, true), (.kqsteal f, 0xA3, false)] → Issues s op f always false → f.sub = 1#8 →
    let o := s.opened
    let w := kqSplit o s.cur own (!own) (s.exLanes op f) ((s.rdo op f).b op f) fun _ => none
    w.bad = [] →
    Machine.exec i s = .next (s.moveOn ((kqOnce o w).1.updGroup s.cur fun g =>
      (List.range 4).foldl (fun g i => g.setRegs (f.d.toNat + i) (kqOnce o w).2.2 fun _ => 0#32)
        (g.kqWrite f.d.toNat (kqOnce o w).2.1)) op f)) ∧
  (∀ (i : Instr) (op : Nat) (own : Bool) (s : State) (f : Fields) (q : Nat),
    (i, op, own) ∈ [(Instr.kqtakePort f, 0xA2, true), (.kqsteal f, 0xA3, false)] →
    (i = .kqsteal f → f.sub = 2#8) →
    Issues s op f (fun _ g => isPort f.d.toNat && g.portKind (f.d.toNat - 120) == 1) false →
    let l := lowest (s.exLanes op f)
    let n := (s.g.reg f.a.toNat l).toNat
    let p := f.d.toNat - 120
    1 ≤ n → n ≤ 64 → kqLane s.opened s.cur own (!own) true ((s.rdo op f).b op f l) = .ok q →
    ((s.g.port p).elems.length + 4 * n ≤ 256 →
      let z := (s.opened.kqWake q).kqTakes q n
      Machine.exec i s = .next (s.moveOn (z.2.updGroup s.cur fun g =>
        (g.setPort p { g.port p with elems := (g.port p).elems ++ z.1.flatMap KqRec.words }).setRegs f.c.toNat
          (s.exLanes op f) fun _ => BitVec.ofNat 32 z.1.length) op f)) ∧
    (256 < (s.g.port p).elems.length + 4 * n → Machine.exec i s = .next s.opened.stall)) ∧
  (∀ (g : Group) (d : Nat) (got : List (Nat × Option KqRec)), (got.map Prod.fst).Nodup → (∀ x ∈ got, x.1 < 32) →
    ∀ r l, l < 32 → (g.kqWrite d got).reg r l = match got.find? fun x => x.1 == l with
      | some (_, some y) => if d ≤ r ∧ r < d + 4 then y.words.getD (r - d) 0#32 else g.reg r l
      | _ => g.reg r l) ∧
  (∀ (s : State) (k : Nat), (s.group k).wait.kq = none → Machine.exec (.kqWaiterServed k) s = .next s) ∧
  (∀ (s : State) (k q : Nat) (w : KqWait) (r : KqReq) (x : Option KqRec) (u : State), (s.group k).wait.kq = some w →
    w.todo = [r] → r.q = q → (s.kq q).waiters = [k] → s.kqTry r = some (x, u) →
    ∃ t, Machine.exec (.kqWaiterServed k) s = .next t ∧
      (t.group k).wait.kq = some { w with todo := [], got := w.got ++ [(r.lane, x)] } ∧
      (∀ j, t.kq j = if j = q then { u.kq q with waiters := [] } else u.kq j) ∧
      { t with groups := s.groups, kqs := u.kqs } = { u with groups := s.groups }))

/-- DERIVED (R267, R268, R270): what a queue home does. A push whose key an unsealed record has folds into it: a minimum
or maximum (signed or unsigned) keeps the better payload with its bucket, the lower bucket of equal ones; an add saturates,
and then sets OVF and seals; OR and AND combine; these three keep the lower bucket; the first payload stays, or the last with
its bucket. The record stays in its place with its key and age, and becomes takeable or does not (since when it is takeable
is noted for QAGE, R308, and a tile-task queue calls ENQ, R306); every other record and queue is as before. Otherwise a record
is appended if the queue has room, and nothing happens where it has none. A take removes the takeable record of the lowest
bucket, the oldest of that bucket. -/
def Obligations.QueueHomeValues : Prop :=
  (∀ (w r : KqRec),
    ((kqFold 0 w r).pay.toInt = min w.pay.toInt r.pay.toInt) ∧ ((kqFold 1 w r).pay.toInt = max w.pay.toInt r.pay.toInt) ∧
    ((kqFold 2 w r).pay.toNat = min w.pay.toNat r.pay.toNat) ∧
    (∀ op, op ≤ 2 → (kqFold op w r).bucket =
      if w.pay = r.pay then min w.bucket r.bucket else if (kqFold op w r).pay = r.pay then r.bucket else w.bucket) ∧
    ((kqFold 3 w r).pay.toInt = max (-2 ^ 63) (min (2 ^ 63 - 1) (w.pay.toInt + r.pay.toInt))) ∧
    (let out := w.pay.toInt + r.pay.toInt ≠ (kqFold 3 w r).pay.toInt
     ((kqFold 3 w r).sealed = true ↔ w.sealed = true ∨ out) ∧ ((kqFold 3 w r).ovf = true ↔ w.ovf = true ∨ out)) ∧
    ((kqFold 4 w r).pay = w.pay ||| r.pay) ∧ ((kqFold 5 w r).pay = w.pay &&& r.pay) ∧ (kqFold 6 w r = w) ∧
    ((kqFold 7 w r).pay = r.pay) ∧ (kqFold 7 w r).bucket = r.bucket ∧
    (∀ op, 3 ≤ op → op ≤ 5 → (kqFold op w r).bucket = min w.bucket r.bucket) ∧
    (∀ op, (kqFold op w r).key = w.key ∧ (kqFold op w r).order = w.order) ∧
    (∀ op, op ≠ 3 → (kqFold op w r).sealed = w.sealed ∧ (kqFold op w r).ovf = w.ovf)) ∧
  (∀ (s : State) (q : Nat) (w r : KqRec) (xs ys : List KqRec), (s.kq q).recs = xs ++ w :: ys → w.sealed = false →
    w.key = r.key → (∀ y ∈ xs ++ ys, y.order ≠ w.order) → (∀ y ∈ xs, y.sealed = true ∨ y.key ≠ r.key) →
    ∃ t n, s.kqPush q r = some t ∧
      (t.kq q).recs = xs ++ { kqFold (s.kq q).op w r with since := n } :: ys ∧
      { t.kq q with recs := (s.kq q).recs } = s.kq q ∧ (∀ j, j ≠ q → t.kq j = s.kq j) ∧
      { t with kqs := s.kqs, engines := s.engines } = s ∧ ((s.kq q).bound = false → t.engines = s.engines)) ∧
  (∀ (s : State) (q : Nat) (r : KqRec), (∀ y ∈ (s.kq q).recs, y.sealed = true ∨ y.key ≠ r.key) →
    ((s.kq q).cap < (s.kq q).recs.length → s.kqPush q r = none) ∧
    ((s.kq q).recs.length ≤ (s.kq q).cap → (s.kq q).bound = false → (∀ y ∈ (s.kq q).recs, y.order < s.nextId) →
      ∃ t y, s.kqPush q r = some t ∧ (t.kq q).recs = (s.kq q).recs ++ [y] ∧ y.key = r.key ∧ y.pay = r.pay ∧
        y.bucket = r.bucket ∧ y.order = s.nextId ∧ (∀ j, j ≠ q → t.kq j = s.kq j) ∧
        { t with kqs := s.kqs, nextId := s.nextId } = s)) ∧
  (∀ (s : State) (q : Nat),
    (s.kqTake q = none ↔ ∀ y ∈ (s.kq q).recs, (s.kq q).takeable y = false) ∧
    (∀ r t, s.kqTake q = some (r, t) → r ∈ (s.kq q).recs ∧ (s.kq q).takeable r = true ∧
      (∀ y ∈ (s.kq q).recs, (s.kq q).takeable y = true → r.bucket < y.bucket ∨ r.bucket = y.bucket ∧ r.order ≤ y.order) ∧
      (t.kq q).recs = (s.kq q).recs.filter (fun y => y.order != r.order) ∧ (∀ j, j ≠ q → t.kq j = s.kq j)))

/-! ### Policy and privileged instructions -/

/-- DERIVED (R77, R154, R167, R308): in a running policy routine PCTR reads the counter and instance it names, PDEC writes
a decision register, EVNT keeps an event record, of which a fifth is dropped and counted, MOVC reads the decision's own
counters, and EXIT ends the routine with its decision. Nothing else changes. -/
def Obligations.PolicyInstructions : Prop :=
  ∀ (s : State) (f : Fields) (p : PRun), isPolicy s.cur = true →
    let c := clusterOfEngine s.cur
    (s.engine c).run = some p →
    (∀ w, Issues s 0xB0 f always false →
      let r := s.rd 0xB0 f
      let i := (r.a f (lowest (s.exLanes 0xB0 f))).toNat % 256
      0x48 ≤ i → i ≤ 0x7F → s.counter c p i ((r.b 0xB0 f (lowest (s.exLanes 0xB0 f))).toNat % 65536) = some w →
      ∃ g', Machine.exec (.pctr f) s = .next (s.setGroup s.cur g') ∧
        GroupStep s.g g' (oneReg f.d.toNat (s.exLanes 0xB0 f) fun _ => w) (s.g.nextPc (formLen f.form))) ∧
    (Issues s 0xB1 f (fun _ _ => f.imm.toNat ≤ 7) false →
      let w := (s.rd 0xB1 f).a f (lowest (s.exLanes 0xB1 f))
      ∃ g', Machine.exec (.pdec f) s = .next ((s.setEngine c { s.engine c with
          run := some { p with dec := mput 0 p.dec f.imm.toNat w } }).setGroup s.cur g') ∧
        GroupStep s.g g' noReg (s.g.nextPc (formLen f.form))) ∧
    (Issues s 0xB2 f always false →
      let w := (s.rd 0xB2 f).a f (lowest (s.exLanes 0xB2 f))
      ∃ g', Machine.exec (.evnt f) s = .next ((if p.evnts.length < 4 then
            s.setEngine c { s.engine c with run := some { p with evnts := p.evnts ++ [(f.imm.toNat, w)] } }
          else s.bump evDrop 0 0 1).setGroup s.cur g') ∧
        GroupStep s.g g' noReg (s.g.nextPc (formLen f.form))) ∧
    (∀ w, 0x40 ≤ f.imm.toNat → Issues s 0x0F f (fun _ _ => ctlReadable f.imm.toNat || 0x40 ≤ f.imm.toNat) false →
      s.ownCounter s.cur f.imm.toNat = some w →
      ∃ g', Machine.exec (.movc f) s = .next (s.setGroup s.cur g') ∧
        GroupStep s.g g' (oneReg f.d.toNat (s.exLanes 0x0F f) fun _ => w) (s.g.nextPc (formLen f.form))) ∧
    (Issues s 0x06 f always false →
      ∃ (g' : Group), Machine.exec (.exit f) s = .next ((s.setEngine c { s.engine c with
          run := some { p with status := .decided } }).setGroup s.cur g') ∧
        ∀ l ∈ s.exLanes 0x06 f, g'.pcOf l = exitedPC)

/-- DERIVED (R77, R133, R168, R169, R294, R297): in a system context TLBINV, once its release completes, removes from every
cluster exactly the entries that it matches, and completes when no access made before by a context that it names is owed;
before that it waits (removing at once and waiting for every access of the matching contexts is the model's reading, log entry
53). ACCSPL stores the four units' frames of an accumulator and leaves it fresh with the given tag; ACCFIL fills it from its
frames; each waits for the matrix operations into the accumulator and for the group's earlier accesses. Reading back the frame
of an accumulator gives its elements, anchor and flags. -/
def Obligations.PrivilegedInstructions : Prop :=
  (∀ (s : State) (f : Fields) (a : Nat), Issues s 0xB3 f always false →
    (if f.sub = 1#8 then (s.rdo 0xB3 f).groupAddr f else some 0) = some a →
    let o := s.opened
    let l := lowest (s.exLanes 0xB3 f)
    let ctx := (s.g.reg f.c.toNat l).toNat % 2 ^ 16
    let part := (s.g.reg f.a.toNat l).toNat % 2 ^ 8
    let named := o.tlbCtx f.sub ctx part
    (∀ n, s.g.wait.tlbAt = some n →
      (o.accessesOwed named n = true → Machine.exec (.tlbinv f) s = .next o.stall) ∧
      (o.accessesOwed named n = false → Machine.exec (.tlbinv f) s = .next (s.moveOn (o.updGroup s.cur fun g =>
        { g with wait := { g.wait with tlbAt := none } }) 0xB3 f))) ∧
    (s.g.wait.tlbAt = none →
      (o.release s.cur 4 = none → Machine.exec (.tlbinv f) s = .next (o.relWait s.cur 4).stall) ∧
      (∀ t, o.release s.cur 4 = some t →
        let u := t.tlbRemove (t.tlbHits f.sub a (s.g.reg f.b.toNat l).toNat ctx part)
        (u.accessesOwed named u.nextId = false → Machine.exec (.tlbinv f) s = .next (s.moveOn u 0xB3 f)) ∧
        (u.accessesOwed named u.nextId = true → Machine.exec (.tlbinv f) s = .next (u.updGroup s.cur fun g =>
          { g with wait := { g.wait with tlbAt := some u.nextId } }).stall)))) ∧
  (∀ (s : State) (p : TlbEntry → Bool) (c : Nat),
    mget [] (s.tlbRemove p).caches.tlb c = (mget [] s.caches.tlb c).filter fun e => !p e) ∧
  (∀ (s v : State) (f : Fields) (a op : Nat) (i : Instr) (kind : AKind),
    (op, i, kind) ∈ [(0xB4, Instr.accspl f, AKind.store), (0xB5, .accfil f, .load)] →
    Issues s op f always false → (s.rdo op f).groupAddr f = some a →
    let o := s.opened
    let core := s.coreOf s.cur
    let l := lowest (s.exLanes op f)
    let p := (s.g.reg f.b.toNat l).toNat % 8
    let tag := (s.g.reg f.c.toNat l).setWidth 22
    o.checkRange (o.who s.cur) kind a 37120 64 anyHome = .ok v →
    (o.mmaInto core p = true → Machine.exec i s = .next o.stall) ∧
    (o.mmaInto core p = false →
      (i = .accspl f → (∀ u, u < 4 → (s.acc core u p).bad = false) →
        (o.rangeStuck s.cur a 37120 = true → Machine.exec i s = .next o.stall) ∧
        (o.rangeStuck s.cur a 37120 = false →
          Machine.exec i s = .next (s.moveOn ((List.range 4).foldl (fun t u =>
            (t.storeRange s.cur 580 (a + 9280 * u) (t.acc core u p).frame).setAcc core u p { tag := tag })
            (o.touchAll s.cur (rangeLines a 37120) true)) op f))) ∧
      (i = .accfil f →
        ((∃ w ∈ o.rangeWords s.cur a 37120, o.loadBusy s.cur w.1 = true) ∨ o.readStuck s.cur a 37120 = true →
          Machine.exec i s = .next o.stall) ∧
        (∀ (d : List Byte) (t : State) (x : Nat → Acc), (∀ w ∈ o.rangeWords s.cur a 37120, o.loadBusy s.cur w.1 = false) →
          o.readStuck s.cur a 37120 = false →
          (o.touchAll s.cur (rangeLines a 37120) false).readRange s.cur a 37120 = (d, none, t) →
          (∀ u, u < 4 → accOfFrame ((d.drop (9280 * u)).take 9280) tag = some (x u)) →
          Machine.exec i s = .next (s.moveOn ((List.range 4).foldl (fun t u => t.setAcc core u p (x u)) t) op f))))) ∧
  (∀ (a : Acc) (n : Int) (tag : BitVec 22), a.anchor = some n → -2048 ≤ n → n ≤ 2047 →
    (∀ i, i < 512 → (a.el i).inv = true ∧ a.el i = AccEl.invalid ∨ (a.el i).inv = false ∧ (a.el i).cnt ≠ 0x8000#16) →
    ∃ b, accOfFrame a.frame tag = some b ∧ a.frame.length = 9280 ∧ b.anchor = some n ∧ b.inx = a.inx ∧ b.ovf = a.ovf ∧
      b.tag = tag ∧ ∀ i, i < 512 → b.el i = a.el i)

/-! ### Issue, teams and their frames -/

/-- DERIVED (R20, R21): the issue choice of a lane set takes the eligible group that comes before every other: passed over 64
times, then of higher priority, then older, then in the lower slot. It becomes the next to issue; nothing else changes but
that it owes nothing more after a yield. When it has issued its passes are zero; every other slot of its lane set that was
eligible, its next instruction not stalled, has been passed over once more, and what groups that yielded owe loses it; when it
has stalled instead, its own passes start again, and it is passed by until its stall ends or another slot of its lane set has
issued (that a
stall starts the passes again, and another ineligibility keeps them, is the model's choice, log entry 66). A group that has
yielded owes an issue to each other eligible slot, and is not eligible while one of those is ready and another group is
eligible. -/
def Obligations.IssueChoice : Prop :=
  (∀ (s : State) (core ls : Nat),
    (∀ k, k ∈ s.eligible (16 * core + ls) → (∀ j ∈ s.eligible (16 * core + ls), j ≠ k → s.before k j = true) →
      Machine.exec (.issueChoice core ls) s =
        .next { s.setGroup k { s.group k with yielded := false, owes := [] } with cur := k }) ∧
    (s.eligible (16 * core + ls) = [] → Machine.exec (.issueChoice core ls) s = .next s)) ∧
  (∀ (s : State) (k : Nat) (es : List Nat),
    (∀ j, (mfind j s.groups).isSome = true → (s.countIssue k es).group j =
      if j = k then { s.group j with passes := 0 }
      else if s.laneSet j = s.laneSet k then { s.group j with
        passes := (s.group j).passes + (if j ∈ es then 1 else 0), owes := (s.group j).owes.filter fun x => x != k }
      else s.group j) ∧
    { s.countIssue k es with groups := s.groups } = s ∧
    (isPolicy k = false → (mfind k s.groups).isSome = true →
      s.counted k es = if s.stalled then s.setGroup k { s.group k with passes := 0 } else s.countIssue k es)) ∧
  (∀ (s : State) (k j ls : Nat),
    (j ∈ s.rivals k ↔ isPolicy k = false ∧ j ∈ s.eligible (s.laneSet k) ∧ j ≠ k ∧ s.stalls j = false) ∧
    (j ∈ s.blocked → j ∉ s.readyIn ls) ∧ (j ∈ s.unstall.blocked ↔ j ∈ s.blocked ∧ s.stalls j = true) ∧ (j ∈ (s.unblock ls).blocked ↔ j ∈ s.blocked ∧ s.laneSet j ≠ ls) ∧
    ((s.group k).yielded = true → (s.group k).owes = [] → s.noteYield k = s.setGroup k
      (if s.rivals k = [] then { s.group k with yielded := false } else { s.group k with owes := s.rivals k }))) ∧
  (∀ (s : State) (j k : Nat),
    let old := fun x => 64 ≤ (s.group x).passes
    let prio := fun x => (s.group x).ctl.prio.toNat % 16
    s.before j k = true ↔ (old j ∧ ¬ old k) ∨ ((old j ↔ old k) ∧ (prio k < prio j ∨ (prio j = prio k ∧
      ((s.group j).age < (s.group k).age ∨ ((s.group j).age = (s.group k).age ∧ (s.group j).slot < (s.group k).slot)))))) ∧
  (∀ (s : State) (n i j k : Nat), i ∈ s.readyIn n → (s.group i).yielded = false → (s.group k).yielded = true →
    j ∈ (s.group k).owes → j ∈ s.readyIn n → k ∉ s.eligible n)

/-- DERIVED (R16, R19, R22, R23, R30, R314): a group whose lanes have all exited and whose counters are zero ends: it holds
nothing, no endpoint (the model's choice, log entry 67) and no SFU entry, and waits in no queue; the other groups stay, and so
do the other teams and memory where its team has another group; with its last group the team ends, and a team asked to halt of
which only halted groups are left is halted. Before that the event does nothing. WATCHDOG ends a running team whose count has
reached its limit with a FAULT event, and does nothing before. A group asked to halt stops; its team is halted with the last
of them. A stall of 65,536 cycles for the row of a packed register asks the team to halt, and its next restore packs nothing. -/
def Obligations.GroupsAndTeamsEnd : Prop :=
  (∀ (s : State) (k : Nat), s.groupOver k = true →
    ∃ t : State, Machine.exec (.groupEnd k) s = .next t ∧ mfind k t.groups = none ∧
      (∀ j, j ≠ k → mfind j t.groups = mfind j s.groups) ∧
      (∀ e x, mfind e t.dev.endpoints = some x → x.holder.map (fun h => h / 8) ≠ some k) ∧
      (∀ p ∈ t.sfu, ∀ e ∈ p.2, e.grp ≠ k) ∧ (∀ q x, mfind q t.kqs = some x → k ∉ x.waiters) ∧
      ((∃ j ∈ s.groupsOf (ctxOf k), j ≠ k) →
        t.mem = s.mem ∧ t.queues = s.queues ∧ t.launches = s.launches ∧
          ∀ c, c ≠ ctxOf k → mfind c t.teams = mfind c s.teams) ∧
      ((∃ j ∈ s.groupsOf (ctxOf k), j ≠ k) → (s.teamOf k).haltReq = true →
        (∀ j ∈ s.groupsOf (ctxOf k), j ≠ k → (s.group j).halted = true) → (t.teamOf k).st = .halted) ∧
      ((∀ j ∈ s.groupsOf (ctxOf k), j = k) → mfind (ctxOf k) t.teams = none)) ∧
  (∀ (s : State) (k : Nat), s.groupOver k = false → Machine.exec (.groupEnd k) s = .next s) ∧
  (∀ (s : State) (ctx k : Nat) (t : Team) (ks : List Nat), mfind ctx s.teams = some t → t.st = .running →
    s.groupsOf ctx = k :: ks →
    (s.wdogOf t ≤ t.watch → Machine.exec (.watchdog ctx) s = .next (s.faultTeam ctx .watchdog 0
      ((((s.group k).pcOf (lowest (s.group k).cand)).setWidth 32 : Word)).toNat)) ∧
    (t.watch < s.wdogOf t → Machine.exec (.watchdog ctx) s = .next s)) ∧
  (∀ (s : State) (k : Nat), (mfind k s.groups).isSome = true → isPolicy k = false → (s.teamOf k).haltReq = true →
    (s.group k).halted = false → (s.group k).wait.kq = none →
    let u := s.setGroup k { s.group k with halted := true }
    ((∃ j ∈ s.groupsOf (ctxOf k), j ≠ k ∧ (s.group j).halted = false) → Machine.exec (.groupHalt k) s = .next u) ∧
    ((∀ j ∈ s.groupsOf (ctxOf k), j ≠ k → (s.group j).halted = true) →
      Machine.exec (.groupHalt k) s = .next (u.updTeam (ctxOf k) fun t => { t with st := .halted, haltReq := false }))) ∧
  (∀ (s : State) (ctx : Nat) (t : Team), mfind ctx s.teams = some t → t.st = .running →
    ((∃ k ∈ s.groupsOf ctx, ∃ n, (s.group k).rowWait = some n ∧ 65536 ≤ n) →
      Machine.exec (.packedRowStallSave ctx) s =
        .next (s.updTeam ctx fun t => { t with haltReq := true, nopack := true })) ∧
    ((∀ k ∈ s.groupsOf ctx, ∀ n, (s.group k).rowWait = some n → n < 65536) →
      Machine.exec (.packedRowStallSave ctx) s = .next s)) ∧
  (∀ (s : State) (k : Nat), let g := s.group k
    ((∀ p ∈ g.packed, g.narrow p.1 = true ∧ g.narrow p.2 = true) → s.unpackGroup k = some s) ∧
    (∀ p ∈ g.packed, ¬ (g.narrow p.1 = true ∧ g.narrow p.2 = true) →
      let used := s.rowsUsed 0x10000 (s.coreOf k) (g.slot / 4) + g.broken.length
      (used ≤ s.laneRows (s.coreOf k) (g.slot / 4) → ∃ t, s.unpackGroup k = some t ∧ (t.group k).broken = [] ∧
        (t.group k).rowWait = none ∧ { t with groups := s.groups } =
          { s.claimRows 0x10000 (s.coreOf k) (g.slot / 4) g.broken.length with groups := s.groups }) ∧
      (s.laneRows (s.coreOf k) (g.slot / 4) < used → s.unpackGroup k = none)))

/-- DERIVED (R13, R15, R16, R34, R41, R51, R52, R301, R304, R305, R306, R343, R109, R275): TEAM_PLACE of a team without a
gang, on the source that PICK has chosen for the partition and a grant that keeps the rules: the context is a running team
with what the launch, its descriptor and its queue give it and the pages of the grant; each of its groups starts at the
entry with the lanes below E0, its priority, slot, accumulators and window; its accumulators are fresh and tagged to it
where the tag named no context; the record has one more team placed and live; the choice is spent. A group's handler
state, zero, is the model's (log entry 6), and so is that the grants of a gang's teams are held until there is one for
each (log entries 32 and 55), each team then having a launch time of its own (log entry 87); then all are placed, or,
where one does not fit, none. A launch that may not place a team leaves the machine as it is. TILE_TASK_DISPATCH takes a
record of a queue that a PICK has chosen and no dispatch has met: it becomes a launch of the queue's binding with the
record's key as tag and its overflow bit, or, refused, a LAUNCH_FAIL event: BAD_DESC where the binding names no kernel,
BAD_WIDTHS where the kernel wants a gang or several teams. Without such a choice it does nothing. A waiting task places no
team while its virtual queue is stopped or has no room for an event. -/
def Obligations.TeamPlacement : Prop :=
  (∀ (s : State) (lid : Nat) (gr : Grant) (r : Launch) (d : KernelDesc) (q : VQueue),
    mfind lid s.launches = some r → r.desc = some d → mfind r.qid s.queues = some q →
    (s.mayPlace lid r = false → Machine.exec (.teamPlace lid gr) s = .next s) ∧
    (s.mayPlace lid r = true →
      ((r.offers ++ [gr]).length < r.together d → Machine.exec (.teamPlace lid gr) s =
        .next { s with launches := mset lid { r with offers := r.offers ++ [gr] } s.launches }) ∧
      (r.together d ≤ (r.offers ++ [gr]).length →
        (∀ t, s.placeAll lid d q (r.offers ++ [gr]) = some t → Machine.exec (.teamPlace lid gr) s = .next t) ∧
        (s.placeAll lid d q (r.offers ++ [gr]) = none → Machine.exec (.teamPlace lid gr) s =
          .next { s with launches := mset lid { r with offers := [] } s.launches }))) ∧
    (s.mayPlace lid r = true → d.gang = false → r.offers = [] → s.ctxFree gr.ctx = true → s.pickedFor r gr = true →
      let n := groupsFor (r.exts.getD 0 0 + 1)
      n ≤ 64 → s.grantOk gr.ctx gr (List.replicate n d.regs) d.tiles d.accs (r.pagesFor d) = true →
      s.ownTables gr d n = true → s.mapsImage r.image gr = true → s.windowsOk gr.root q.req.partid d.priv n gr.windows = true →
      ∃ t : State, Machine.exec (.teamPlace lid gr) s = .next t ∧
        mfind gr.ctx t.teams = some
          { tenant := q.req.tenant, partid := q.req.partid, root := gr.root, core := gr.core, part := gr.partition,
            st := .running, ngroups := n, widf := d.widf, wid := widBase d.widf r.exts r.placed, e0 := r.exts.getD 0 0 + 1,
            regs := d.regs, tiles := d.tiles, accs := d.accs, srows := d.srows, priv := d.priv, gang := s.nextId,
            qid := r.qid, tag := r.tag, launch := lid, image := r.image, kdesc := r.kdesc,
            taskKey := (r.task.map Prod.fst).getD 0, taskPay := (r.task.map Prod.snd).getD 0,
            taskOvf := r.taskOvf, frame := gr.frame,
            pages := ((List.range gr.pages.length).zip gr.pages).map fun p =>
              { core := gr.core, pos := p.2, leaves := (gr.leaves.drop p.1).take 1 } } ∧
        (∀ i, i < n → mfind (64 * gr.ctx + i) t.groups = some
          { pc := (allLanes.filter fun l => 32 * i + l < r.exts.getD 0 0 + 1).map fun l => (l, BitVec.ofNat 64 d.entry),
            ctl := { prio := BitVec.ofNat 32 r.prio },
            tiles := (List.range d.tiles).map fun j => (j, { free := some (s.tick, j) }),
            pb := gr.windows.getD i 0, slot := gr.slots.getD i 0, acc := gr.accs.getD i 0, age := s.nextId }) ∧
        ((∀ b ∈ gr.accs, b + d.accs ≤ 8) →
          ∀ i j u, i < n → j < d.accs → u < 4 →
            let old := s.acc gr.core u (gr.accs.getD i 0 + j)
            let new := t.acc gr.core u (gr.accs.getD i 0 + j)
            let fresh := Acc.fresh (BitVec.ofNat 22 ((64 * gr.ctx + i) / 64 * 64 + gr.slots.getD i 0 % 64)) none
            (old.tag.toNat / 64 = gr.ctx → mfind 0xFFFF s.teams = none → new = fresh) ∧
            (old.tag.toNat / 64 ≠ gr.ctx → mfind (old.tag.toNat / 64) s.teams = none → new = fresh) ∧
            (old.tag.toNat / 64 ≠ gr.ctx → (mfind (old.tag.toNat / 64) s.teams).isSome = true → new = old)) ∧
        mfind lid t.launches = some { r with st := .started, placed := r.placed + 1, live := r.live + 1, gang := s.nextId } ∧
        mfind (gr.core * 8 + gr.partition) t.picks = none)) ∧
  ((∀ (s : State) (cluster q : Nat),
    let n := cluster * 64 + q
    let x := s.kq n
    let taken := (s.launches.filter fun p => p.2.task.isSome && p.2.order == n && p.2.st == .waiting).length
    let chosen := (s.picks.filter fun p => clusterOf (p.1 / 8) == cluster && p.2 == 64 + q).length
    (64 ≤ q ∨ x.taskQueue = false ∨ chosen ≤ taken → Machine.exec (.tileTaskDispatch cluster q) s = .next s) ∧
    (q < 64 → x.taskQueue = true → taken < chosen →
      ∀ v rec u, mfind x.tqid s.queues = some v → s.kqTake n = some (rec, u) →
      let fail := fun (code : Nat) => u.postEvent x.tqid ⟨1, 1, x.tqid, rec.key.toNat, code, 0, 0⟩
      (u.kernelAt (efld x.binding 120 64) = none → Machine.exec (.tileTaskDispatch cluster q) s = .next (fail 1)) ∧
      (∀ i d, u.kernelAt (efld x.binding 120 64) = some (i, d) →
        (∀ code, u.launchCode v.req.partid (some (i, d)) d.ext true = some code →
          Machine.exec (.tileTaskDispatch cluster q) s = .next (fail code)) ∧
        (descBad d = false → d.feat &&& ~~~Config.capMask = 0#128 → (d.gang = true ∨ ∃ e ∈ d.ext.drop 1, e ≠ 0) →
          Machine.exec (.tileTaskDispatch cluster q) s = .next (fail 3)) ∧
        (u.launchCode v.req.partid (some (i, d)) d.ext true = none →
          Machine.exec (.tileTaskDispatch cluster q) s = .next { u with
            nextId := u.nextId + 1, dev := { u.dev with admitted := true },
            launches := mset u.nextId
              { qid := x.tqid, prio := efld x.binding 35 32, tag := rec.key.toNat, exts := d.ext,
                kdesc := efld x.binding 120 64, order := n, task := some (rec.key, rec.pay), taskOvf := rec.ovf,
                desc := some d, image := i }
              u.launches })))) ∧
  (∀ (s : State) (lid : Nat) (r : Launch) (v : VQueue), r.task.isSome = true → r.st = .waiting →
    mfind (s.kq r.order).tqid s.queues = some v → v.stopped ≠ 0 ∨ v.full = true → s.mayPlace lid r = false))

/-- DERIVED (R23, R42, R51, R144, R169, R245, R315, R316, R343): CONTEXT_SAVE of a halted team whose counters are zero and
whose stores are acknowledged, its overflow area having its pages: it is saved, or parked where a page is missing; its registers and PCs stay in State's fields
(the model's frame layout, log entry 61), its rows and tiles on the core until another team claims them, and its core holds no
word that waits for its registration; a group that does not exchange withdraws its CLASP side. CONTEXT_RESTORE of a team alone
in its gang, on a grant that keeps the rules: its groups have the slots and accumulators of the grant, hold narrow registers
in shared rows where the grant packs (which are paired: log entry 19), have every row and tile back, and run on, the rest of
each unchanged but for what the frame gives back; registers that never left stay; the core's V words are dropped; an
accumulator whose contents are in place takes the new tag, another is filled from its image in the frame, or left fresh. A
page's contents, and a register's, go to the frame and come back, a register's full bits with them. A team that no core can take is starved, once (log entry
79): it is parked, PLACEMENT_STARVED is sent and MIGR is called. -/
def Obligations.SaveAndRestore : Prop :=
  (∀ (s : State) (ctx : Nat) (t : Team), mfind ctx s.teams = some t →
    (s.savable ctx = true ↔ s.drained ctx = true ∧ (s.overBytes ctx).length ≤ 65536 * t.overPages.length) ∧
    (t.st ≠ .halted ∨ s.savable ctx = false → Machine.exec (.contextSave ctx) s = .next s) ∧
    (t.st = .halted → s.savable ctx = true → (∀ k ∈ s.groupsOf ctx, (s.group k).wait.clasp = none) →
      ∃ u : State, Machine.exec (.contextSave ctx) s = .next u ∧
        mfind ctx u.teams = some
          { t with st := if t.park then .parked else .saved, park := false, haltReq := false, starved := false } ∧
        (∀ c, c ≠ ctx → mfind c u.teams = mfind c s.teams) ∧
        (∀ k, { u.group k with ops := (s.group k).ops, rowWait := (s.group k).rowWait } = s.group k) ∧
        (∀ k ∈ s.groupsOf ctx, (u.group k).rowWait = none) ∧
        ∀ a x, a < 2 ^ 64 → u.l1 t.core a = some x → x.st ≠ .p)) ∧
  (∀ (s : State) (k : Nat) (x : ClaspSide), (s.group k).wait.clasp = some x →
    (s.fitting k x = none → s.exchangeDue k = s) ∧
    ((s.withdraw k).group k).wait.clasp = none ∧ ((s.withdraw k).group k).tile x.d =
      { (s.group k).tile x.d with full := true }) ∧
  (∀ (s : State) (ctx : Nat) (gr : Grant) (t : Team), mfind ctx s.teams = some t →
    let v := s.updTeam ctx fun t => { t with offer := some gr }
    (s.restoreOk ctx gr = true → v.gangOut t.gang = [ctx] → v.restoreOk ctx gr = true →
      (∀ k ∈ s.groupsOf ctx, (s.group k).wait.clasp = none) →
      ∃ u : State, ∃ t' : Team, Machine.exec (.contextRestore ctx gr) s = .next u ∧ mfind ctx u.teams = some t' ∧
        { t' with pages := t.pages, spilt := t.spilt, images := t.images } =
          { t with core := gr.core, part := gr.partition, st := .running, haltReq := false, move := none, nopack := false,
                   starved := false, offer := none, overPages := [] } ∧
        (∀ k ∈ s.groupsOf ctx, ∃ i, (s.groupsOf ctx)[i]? = some k ∧
          (let g := s.group k
           { u.group k with regs := g.regs, marks := g.marks, empties := g.empties, tiles := g.tiles, ports := g.ports,
                            ops := g.ops, spiltRows := g.spiltRows, spiltTiles := g.spiltTiles } = { g with
            slot := gr.slots.getD i 0, acc := gr.accs.getD i 0, halted := false,
            packed := if gr.pack && !t.nopack then g.packable t.regs else [] } ∧
           (u.group k).spiltRows = [] ∧ (u.group k).spiltTiles = [] ∧
           ((s.groupsOf ctx).Nodup → g.spiltRows = [] → gr.core = t.core → gr.slots.getD i 0 / 4 = g.slot / 4 →
             (u.group k).regs = g.regs ∧ (u.group k).marks = g.marks ∧ (u.group k).empties = g.empties) ∧
           ((s.groupsOf ctx).Nodup → g.spiltTiles = [] → gr.core = t.core → (u.group k).tiles = g.tiles))) ∧
        (t.accs = 0 → u.accs = s.accs) ∧ ∀ p ∈ u.l1Words gr.core, p.2.st ≠ .v) ∧
    (s.restoreOk ctx gr = false → t.st = .saved ∨ t.st = .parked → t.starved = false → s.nowhere ctx = true →
      Machine.exec (.contextRestore ctx gr) s = .next
        ((((s.updTeam ctx fun t => { t with st := .parked, starved := true }).bump 0x55 0 t.tenant 1).postEvent t.qid
          ⟨8, 1, t.qid, t.tag, 0, 0, 0⟩).call ⟨6, 3, ctx, 0⟩)) ∧
    (s.restoreOk ctx gr = false → (t.st ≠ .saved ∧ t.st ≠ .parked) ∨ t.starved = true ∨ s.nowhere ctx = false →
      Machine.exec (.contextRestore ctx gr) s = .next s)) ∧
  (∀ (s : State) (k i v : Nat), v < 4 →
    let p := (s.group k).acc + i
    let core := s.coreOf k
    (s.settleAcc k i true).acc core v p = { s.acc core v p with tag := s.tagOf k } ∧
    s.settleAcc k i false = (s.spill core p).give core p k) ∧
  (∀ (s : State) (core p k v : Nat), v < 4 → isPolicy k = false →
    let j := imageOf (s.teamOf k) k (p - (s.group k).acc)
    ((mfind j (s.teamOf k).images).isSome = true →
      (s.give core p k).acc core v p = s.imageAcc ((s.teamOf k).frameImage j) v (s.tagOf k) ∧
        mfind j ((s.give core p k).teamOf k).images = none) ∧
    ((mfind j (s.teamOf k).images).isSome = false → (s.give core p k).acc core v p = .fresh (s.tagOf k) none)) ∧
  (∀ (s : State) (ctx i : Nat) (t : Team) (x : Pin) (w : Nat → Word), mfind ctx s.teams = some t → t.pages[i]? = some x →
    let b := t.framePage i
    b % 4 = 0 → b + 65536 ≤ 2 ^ 48 → (∀ j, j < 16384 → s.down (b + 4 * j) = false ∧ s.cutWord (b + 4 * j) = false) →
    (mfind i t.spilt = none →
      let a := scratchPA x.core (x.pos * 65536)
      a % 4 = 0 → 2 ^ 48 ≤ a → (∀ lf ∈ x.leaves, lf % 4 = 0 ∧ (lf + 16 ≤ b ∨ b + 65536 ≤ lf)) →
      (∀ j, j < 16384 → s.ctlGot (a + 4 * j) = .word (w j)) →
      mfind i (mget {} (s.spillPage ctx i).teams ctx).spilt = some true ∧
        ∀ j, j < 16384 → (s.spillPage ctx i).homeRead (b + 4 * j) = .word (w j)) ∧
    (∀ core pos, mfind i t.spilt = some true →
      let a := scratchPA core (pos * 65536)
      a % 4 = 0 → 2 ^ 48 ≤ a → (∀ j, j < 16384 → isWindow (a + 4 * j) = false) →
      (∀ j, j < 16384 → s.homeRead (b + 4 * j) = .word (w j)) →
      mfind i (mget {} (s.fillPage ctx i core pos).teams ctx).spilt = none ∧
        ∀ j, j < 16384 → (s.fillPage ctx i core pos).ctlWord (a + 4 * j) = w j)) ∧
  (∀ (s : State) (k n : Nat) (w : Nat → Word), isPolicy k = false → n < (s.teamOf k).regs →
    let b := (s.teamOf k).frameRow (gidOf k) n
    b % 4 = 0 → (s.teamOf k).frameRowState (gidOf k) n + 8 ≤ 2 ^ 48 →
    ((∀ l, l < 32 → s.down (b + 4 * l) = false ∧ s.cutWord (b + 4 * l) = false) →
      ∀ l, l < 32 → (s.spillRow k n).homeRead (b + 4 * l) = .word ((s.group k).reg n l)) ∧
    (s.spillRow k n).group k = { s.group k with spiltRows := (s.group k).spiltRows ++ [n] } ∧
    ((∀ l, l < 32 → s.homeRead (b + 4 * l) = .word (w l)) →
      (∀ l, l < 32 → ((s.fillRow k n).group k).reg n l = w l) ∧
      (∀ x, s.frameRead ((s.teamOf k).frameRowState (gidOf k) n) 8 = some x →
        ∀ q, q < 4 → ((s.fillRow k n).group k).emptyIn n q = !(leNat x).testBit q) ∧
      n ∉ ((s.fillRow k n).group k).spiltRows ∧
      ∀ j l, j ≠ n → l < 32 → ((s.fillRow k n).group k).reg j l = (s.group k).reg j l)) ∧
  (∀ (s : State) (ctx core ls n : Nat),
    let idle := ((s.coreGroups ctx core fun t => !t.busy).filter fun g => g.2.slot / 4 == ls).map Prod.fst
    let held := ((idle.filter fun k => s.drained (ctxOf k)).map fun k => (s.rowsHere k).length).sum
    n + s.rowsUsed ctx core ls + held ≤ s.laneRows core ls → s.claimRows ctx core ls n = s)

/-! ### Queues, records and decisions -/

/-- DERIVED (R298 to R300, R303, R313, R328): management commands on queues, outside recovery (in recovery every one is
refused with reason 5). QUEUE_CREATE of a request within the limits under a free number: the queue stands with every word of
its line at NOTIFY zero and its residency entry out of its slots; a bad request is reason 3, a number in use 4. QUEUE_ENABLE
takes TAIL back to RIDX, and a TAIL written before has no effect (where a line's stack is fenced its copy is made later, and a
producer's write there is ignored: log entry 81); QUEUE_DISABLE stops the queue and takes RIDX back to its
oldest unstarted record; DEVICE_QUEUE names the queue of device events; a number without a queue is reason 6. (Of commands
that write lines: where no slice holds a word of them.) A TAIL write to a resident queue that runs is accepted where it
publishes no more than the ring holds, and calls ENQ, the earlier acceptances of records that it still publishes being kept; it
overruns the ring otherwise; a write to a queue that is not resident
is held at NOTIFY and calls WAKE, or waits behind earlier ones. EHEAD frees the ring; a write at NOTIFY of a resident queue
reaches its slot. A slot that is idle after that wakes the queue that waits for one. -/
def Obligations.VirtualQueues : Prop :=
  (∀ (s : State) (req : QueueReq),
    (s.dev.recovery = true → Machine.exec (.queueCreate req) s = .next (s.answerCmd 5)) ∧
    (s.dev.recovery = false →
      (queueReqOk s req = false → Machine.exec (.queueCreate req) s = .next (s.answerCmd 3)) ∧
      (queueReqOk s req = true → (mfind req.qid s.queues).isSome = true →
        Machine.exec (.queueCreate req) s = .next (s.answerCmd 4)) ∧
      (∀ a rt, queueReqOk s req = true → mfind req.qid s.queues = none →
        (s.setQueue req.qid { req := req }).devAddr req.partid .store req.notify 64 [1] = some (a, rt) →
        (∀ i, i < 16 → mfind (lineOf a + 4 * i) s.caches.l2 = none ∧
          mfind (lineOf (2 ^ 48 + 8 * req.qid) + 4 * i) s.caches.l2 = none) →
        ∃ t : State, Machine.exec (.queueCreate req) s = .next t ∧
          (s.down a = false → t.queues = mset req.qid { req := req } s.queues) ∧
          (s.down a = true →
            t.queues = mset req.qid { req := req, lineOwed := true } (mset req.qid { req := req } s.queues)) ∧
          t.dev.status = 0 ∧ t.dev.report = [] ∧
          (s.down a = false → a % 64 = 0 → a + 64 ≤ 2 ^ 48 → ∀ i, i < 16 → t.ctlWord (a + 4 * i) = 0#32) ∧
          t.ctlWord (2 ^ 48 + 8 * req.qid) = 0#32 ∧
          t.ctlWord (2 ^ 48 + 8 * req.qid + 4) = BitVec.ofNat 32 (req.partid * 256 + req.tenant * 16)))) ∧
  (∀ (s : State) (qid : Nat), s.dev.recovery = true →
    Machine.exec (.queueEnable qid) s = .next (s.answerCmd 5) ∧ Machine.exec (.queueDisable qid) s = .next (s.answerCmd 5) ∧
      Machine.exec (.deviceQueue qid) s = .next (s.answerCmd 5)) ∧
  (∀ (s : State) (qid : Nat), s.dev.recovery = false →
    (mfind qid s.queues = none →
      Machine.exec (.queueEnable qid) s = .next (s.answerCmd 6) ∧ Machine.exec (.queueDisable qid) s = .next (s.answerCmd 6) ∧
        Machine.exec (.deviceQueue qid) s = .next (s.answerCmd 6)) ∧
    (∀ q, mfind qid s.queues = some q →
      Machine.exec (.deviceQueue qid) s =
        .next { s with dev := { s.dev with devq := some qid, status := 0, report := [] } } ∧
      (q.stopped = 0 → Machine.exec (.queueEnable qid) s = .next (s.answerCmd 0)) ∧
      (q.stopped = 2 → Machine.exec (.queueDisable qid) s = .next (s.answerCmd 0)) ∧
      ((∀ v a rt, (s.setQueue qid v).devAddr q.req.partid .store q.req.notify 64 [1] = some (a, rt) →
          ∀ i, i < 16 → mfind (lineOf a + 4 * i) s.caches.l2 = none) →
        (q.stopped ≠ 0 → ∃ (t : State) (v : VQueue), Machine.exec (.queueEnable qid) s = .next t ∧
          mfind qid t.queues = some v ∧ { v with wants := q.wants, lineOwed := q.lineOwed } =
            { q with stopped := 0, tail := q.ridx, heldTail := none, fwd := q.fwd.filter fun w => w.1 != 0, accepts := [] } ∧
          (∀ j, j ≠ qid → (mfind j t.queues).map (fun v => { v with wants := none }) =
            (mfind j s.queues).map fun v => { v with wants := none }) ∧
          (q.resident = none → v.wants = q.wants) ∧ t.launches = s.launches ∧ t.dev.status = 0) ∧
        (q.stopped ≠ 2 → ∃ t : State, Machine.exec (.queueDisable qid) s = .next t ∧
          t.queues = mset qid { q with stopped := 2, ridx := (s.oldestUnstarted qid q).getD q.ridx } s.queues ∧
          t.launches = (s.launches.filter fun p => !(p.2.qid == qid && p.2.st == .waiting && p.2.task.isNone)) ∧
          t.dev.status = 0)))) ∧
  (∀ (s : State) (qid : Nat) (q : VQueue) (new : Word), mfind qid s.queues = some q →
    (q.resident.isSome = true →
      (q.stopped ≠ 0 ∨ new = q.tail → Machine.exec (.tailWrite qid new) s = .next s) ∧
      (q.stopped = 0 → new ≠ q.tail → (new - q.ridx).toNat ≤ q.req.count →
        Machine.exec (.tailWrite qid new) s =
          .next ((s.setQueue qid { q with
            tail := new, accepts := (q.accepts.filter fun p => s.publishes qid q new p.1) ++ [(new, s.dev.time)],
            lastUse := s.tick }).call ⟨1, 0, qid, 0⟩)) ∧
      (∀ i : Word, let o := (s.oldestUnstarted qid q).getD q.ridx
        s.publishes qid q new i = true ↔ i ≠ o ∧ (i - o).toNat ≤ (new - o).toNat) ∧
      (q.stopped = 0 → new ≠ q.tail → q.req.count < (new - q.ridx).toNat →
        Machine.exec (.tailWrite qid new) s =
          .next ((s.stopQueue qid q 1).postEvent qid ⟨4, 1, qid, new.toNat, 0, 0, q.tail.toNat⟩)) ∧
      (q.held = [] → Machine.exec (.eheadWrite qid new) s = .next (s.setQueue qid { q with ehead := new })) ∧
      (∀ e es, q.held = e :: es → ({ q with ehead := new } : VQueue).full = false →
        Machine.exec (.eheadWrite qid new) s =
          .next (((s.setQueue qid { q with ehead := new }).writeEvent qid { q with ehead := new, held := es } e).flushHeld qid
            15))) ∧
    (∀ a rt, q.resident = none → s.devAddr q.req.partid .store q.req.notify 64 [1] = some (a, rt) → a % 64 = 0 →
      isWindow a = false → inResidency a = false → s.notifyQueue a = some (qid, q) →
      (∀ i, i < 16 → mfind (a + 4 * i) s.caches.l2 = none) →
      (s.down a = true → Machine.exec (.tailWrite qid new) s = .next s) ∧
      (s.down a = false → q.fwd = [] → Machine.exec (.tailWrite qid new) s =
        .next (((s.ctlWrite a 15#4 new).setQueue qid { q with heldTail := some new }).call ⟨5, 0, qid, 0⟩)) ∧
      (s.down a = false → q.fwd ≠ [] → Machine.exec (.tailWrite qid new) s =
        .next ((s.ctlWrite a 15#4 new).setQueue qid { q with fwd := q.fwd ++ [(0, new)] }))) ∧
    (q.fwd = [] → Machine.exec (.notifyForward qid) s = .next s) ∧
    (∀ w rest, q.fwd = (0, w) :: rest → q.resident.isSome = true →
      Machine.exec (.notifyForward qid) s =
        .next (((s.setQueue qid { q with fwd := rest }).tailWrite qid w).noteIdle qid)) ∧
    (∀ w rest, q.fwd = (0, w) :: rest → q.resident = none →
      Machine.exec (.notifyForward qid) s = .next (((s.setQueue qid { q with fwd := rest }).setQueue qid
        { q with fwd := rest, heldTail := some w }).call ⟨5, 0, qid, 0⟩)) ∧
    (∀ w rest, q.fwd = (8, w) :: rest →
      Machine.exec (.notifyForward qid) s = .next (((s.setQueue qid { q with fwd := rest }).setQueue qid
        { q with fwd := rest, resv := w }).noteIdle qid))) ∧
  (∀ (s : State) (qid : Nat) (q : VQueue), mfind qid s.queues = some q →
    (q.resident = none → s.noteIdle qid = s) ∧
    (∀ die i, q.resident = some (die, i) → s.noteIdle qid = if s.idleQueue qid q then s.slotFreed die else s) ∧
    (s.idleQueue qid q = true ↔ s.oldestUnstarted qid q = none ∧ ∀ w ∈ q.fwd, w.1 ≠ 0)) ∧
  (∀ (s : State) (die j : Nat) (v : VQueue),
    ((∀ p ∈ s.queues, p.2.wants ≠ some die) → s.slotFreed die = s) ∧
    ((s.queues.filter fun p => p.2.wants == some die) = [(j, v)] → mfind j s.queues = some v →
      s.slotFreed die = (s.setQueue j { v with wants := none }).call ⟨5, 0, j, 0⟩))

/-- DERIVED (R109, R133, R149, R301, R302, R306): RECORD_READ of a resident queue that runs and has an unread record takes
RIDX on by one: a record that breaks R301's form, or whose fences' addresses do not pass, is refused with LAUNCH_FAIL of
BAD_RECORD, and so is one of which a word cannot be read (the model's choice, log entry 81); a launch whose descriptor passes
the checks, or a marker, waits to start with the record's fields; a launch that a check refuses is refused with its code.
Otherwise, and while the stack that holds the record is fenced, the event does nothing. A marker that may start sends its
MARKER event, and has ended when it is the oldest record of its queue. A record that has ended stores its signal fence once
what its teams sent is released, then sends COMPLETE; the fence waits while its stack is fenced. FENCE_WRITE
examines the oldest write of the word that has not been: the fence of every record that waits for what the write left there is
met from then on; where it is that of the next record of a queue that is not resident, WAKE is called. -/
def Obligations.LaunchRecords : Prop :=
  (∀ (s : State) (qid : Nat) (q : VQueue), mfind qid s.queues = some q →
    (q.stopped ≠ 0 ∨ q.resident = none ∨ q.ridx = q.tail ∨ s.entryUp q q.ridx = false →
      Machine.exec (.recordRead qid) s = .next s) ∧
    (q.stopped = 0 → q.resident.isSome = true → q.ridx ≠ q.tail → s.entryUp q q.ridx = true →
      let w := s.ringWord q q.ridx
      let n64 := fun o => (w o).toNat + 2 ^ 32 * (w (o + 4)).toNat
      let kind := (w 8).toNat % 256
      let flags := (w 8).toNat / 256 % 256
      let prio := (w 8).toNat / 2 ^ 16 % 256
      let q' := { q with ridx := q.ridx + 1 }
      let refused := fun code : Nat => (((s.setQueue qid q').mirror q').postEvent qid
        ⟨1, 1, qid, (w 0x0C).toNat, code, 0, 0⟩).afterStart qid
      let u := (s.setQueue qid q').mirror q'
      let taken := fun r : Launch => ({ u with
        launches := mset s.nextId r s.launches, nextId := s.nextId + 1,
        dev := { u.dev with admitted := s.dev.admitted || kind == 1 } } : State).callBlock qid
      let formed := s.entryLost q q.ridx = false ∧ (kind = 1 ∨ kind = 2) ∧ (w 8).toNat / 2 ^ 24 = 0 ∧ flags ≤ 15 ∧ (prio ≤ 15 ∨ prio = 255) ∧
        (∀ i, i < 14 → w (0x48 + 4 * i) = 0#32) ∧
        (flags.testBit 1 = true → s.fenceOk q.req.partid .load (n64 0x28) = true) ∧
        (flags.testBit 2 = true → s.fenceOk q.req.partid .store (n64 0x38) = true)
      let fields := fun r : Launch => r.qid = qid ∧ r.idx = q.ridx ∧ r.kind = kind ∧ r.flags = flags ∧
        r.tag = (w 0x0C).toNat ∧ r.st = .waiting ∧ r.task = none ∧ r.placed = 0 ∧ r.live = 0 ∧ r.wfaddr = n64 0x28 ∧
        r.wfval = n64 0x30 ∧ r.sfaddr = n64 0x38 ∧ r.sfval = n64 0x40
      (¬ formed → Machine.exec (.recordRead qid) s = .next (refused 8)) ∧
      (formed → kind = 2 → ∃ r : Launch, Machine.exec (.recordRead qid) s = .next (taken r) ∧ fields r) ∧
      (formed → kind = 1 →
        (s.kernelAt (n64 0) = none → Machine.exec (.recordRead qid) s = .next (refused 1)) ∧
        (∀ image d, s.kernelAt (n64 0) = some (image, d) →
          let exts := if flags.testBit 0 then (List.range 6).map fun i => (w (0x10 + 4 * i)).toNat else d.ext
          (∀ code, s.launchCode q.req.partid (some (image, d)) exts = some code →
            Machine.exec (.recordRead qid) s = .next (refused code)) ∧
          (s.launchCode q.req.partid (some (image, d)) exts = none →
            ∃ r : Launch, Machine.exec (.recordRead qid) s = .next (taken r) ∧ fields r ∧
              r.prio = (if prio = 255 then d.prio else prio) ∧ r.exts = exts ∧ r.kdesc = n64 0 ∧ r.desc = some d ∧
              r.image = image))))) ∧
  (∀ (s : State) (qid lid : Nat) (r : Launch) (rs : List (Nat × Launch)), r.kind = 2 →
    (s.waitingRecords qid = (lid, r) :: rs → s.mayStart qid lid r = true →
      Machine.exec (.markerStart qid) s =
        .next ((({ s with launches := mset lid { r with st := .started } s.launches } : State).postEvent qid
          ⟨7, 1, qid, r.tag, 0, 0, 0⟩).afterStart qid)) ∧
    (s.waitingRecords qid = (lid, r) :: rs → s.mayStart qid lid r = false → Machine.exec (.markerStart qid) s = .next s) ∧
    ((s.launches.filter fun p => p.2.qid == qid && p.2.task.isNone) = (lid, r) :: rs →
      (r.st = .started →
        Machine.exec (.markerEnd qid) s = .next { s with launches := mset lid { r with st := .ended } s.launches }) ∧
      (r.st ≠ .started → Machine.exec (.markerEnd qid) s = .next s))) ∧
  (∀ (s : State) (lid : Nat) (r : Launch), r.st = .ended →
    (s.recordReleased r = false → s.finishRecord lid r = s) ∧
    (∀ u, s.recordReleased r = true → (if r.flags.testBit 2 then s.fenceStore r else some s) = some u →
      let v : State := { u with launches := mdel lid u.launches }
      s.finishRecord lid r = if r.flags.testBit 3 then v.postEvent r.qid ⟨2, 1, r.qid, r.tag, 0, 0, 0⟩ else v) ∧
    (∀ q a rt, mfind r.qid s.queues = some q → s.devAddr q.req.partid .store r.sfaddr 8 [1] = some (a, rt) → rt ≠ .remote →
      (s.down a = true → s.fenceStore r = none) ∧
      (s.down a = false → s.fenceStore r = some (s.ctlStores [(a, 15#4, BitVec.ofNat 32 r.sfval),
        (a + 4, 15#4, BitVec.ofNat 32 (r.sfval / 2 ^ 32))])))) ∧
  (∀ (s : State) (pa : Nat), (∀ p ∈ s.fences, p.1 ≠ pa) → Machine.exec (.fenceWrite pa) s = .next s) ∧
  (∀ (s : State) (pa v : Nat), s.fences.find? (fun p => p.1 == pa) = some (pa, v) →
    ∃ t : State, Machine.exec (.fenceWrite pa) s = .next t ∧
      { t with engines := s.engines, fences := s.fences, launches := s.launches } = s ∧ t.fences = s.fences.erase (pa, v) ∧
      (∀ lid r, mfind lid s.launches = some r →
        mfind lid t.launches = some (if r.metBy pa v then { r with met := true } else r)) ∧
      ∀ qid q lid r rs, (qid, q) ∈ s.queues → s.waitingRecords qid = (lid, r) :: rs → r.metBy pa v = true →
        q.resident = none → ∃ c : Nat, (⟨5, 0, qid, 0⟩ : PReq) ∈ (t.engine c).reqs ++ (t.engine c).wait) ∧
  (∀ (s : State) (r : Launch) (pa v : Nat),
    (r.metBy pa v = true ↔ r.st = .waiting ∧ r.flags.testBit 1 = true ∧ r.wfpa / 8 = pa / 8 ∧ r.wfval ≤ v) ∧
    (r.met = true → s.fenceMet r = true))

/-- DERIVED (R304, R305, R311): a partition entry is written where the partition holds no group, its fields keep the limits
and no enabled partition of the core shares a unit with it (an empty range shares none); a tile-task binding where its queue
is disabled, its reserved bits are zero and TQID names a queue; both are counted in PCFGERR otherwise. A policy control takes
a value in its range, and ignores another. A die in reset takes no such write. -/
def Obligations.TableWrites : Prop :=
  (∀ (s : State) (core p : Nat) (w : BitVec 128),
    (s.dieReset (dieOf core) = true → Machine.exec (.partitionWrite core p w) s = .next s) ∧
    (s.dieReset (dieOf core) = false → core < 256 → p < 8 → (∀ x ∈ s.teams, x.2.core = core → x.2.part = p → x.2.st = .saved ∨ x.2.st = .parked) →
      partLimits w = true →
      (∀ o, o < 8 → o ≠ p → partEn (s.part (8 * core + o)) = true →
        ∀ x ∈ (partRanges w).zip (partRanges (s.part (8 * core + o))), rangesMeet x.1 x.2 = false) →
      Machine.exec (.partitionWrite core p w) s =
        .next { s with partitions := mput 0 s.partitions (8 * core + p) w }) ∧
    (s.dieReset (dieOf core) = false → 256 ≤ core ∨ 8 ≤ p ∨ partLimits w = false ∨
        (∃ x ∈ s.teams, x.2.core = core ∧ x.2.part = p ∧ x.2.held = true) ∨
        (∃ o, o < 8 ∧ o ≠ p ∧ partEn (s.part (8 * core + o)) = true ∧
          ∃ x ∈ (partRanges w).zip (partRanges (s.part (8 * core + o))), rangesMeet x.1 x.2 = true) →
      Machine.exec (.partitionWrite core p w) s = .next (s.bump pcfgErr 0 0 1)) ∧
    (partLimits w = true → efld w 95 88 + efld w 87 80 ≤ 64 ∧ efld w 79 72 + efld w 71 64 ≤ 128 ∧
      efld w 63 60 + efld w 59 56 ≤ 8 ∧ efld w 55 52 + efld w 51 47 ≤ 16 ∧ efld w 103 96 ≤ 15 ∧ efld w 46 1 = 0)) ∧
  (∀ a b : Nat × Nat, rangesMeet a b = true ↔ ∃ u, a.1 ≤ u ∧ u < a.1 + a.2 ∧ b.1 ≤ u ∧ u < b.1 + b.2) ∧
  (∀ (s : State) (cluster q : Nat) (w : BitVec 128),
    let x := mget {} s.kqs (cluster * 64 + q)
    (s.dieReset (dieOfCluster cluster) = true → Machine.exec (.tileTaskBindingWrite cluster q w) s = .next s) ∧
    (s.dieReset (dieOfCluster cluster) = false → cluster < 32 → q < 64 → x.en = false → efld w 127 121 = 0 → efld w 63 50 = 0 → efld w 31 1 = 0 →
      (mfind (efld w 49 36) s.queues).isSome = true →
      Machine.exec (.tileTaskBindingWrite cluster q w) s =
        .next { s with kqs := mset (cluster * 64 + q) { x with binding := w } s.kqs }) ∧
    (s.dieReset (dieOfCluster cluster) = false → 32 ≤ cluster ∨ 64 ≤ q ∨ x.en = true ∨ mfind (efld w 49 36) s.queues = none ∨ efld w 127 121 ≠ 0 ∨ efld w 63 50 ≠ 0 ∨
        efld w 31 1 ≠ 0 →
      Machine.exec (.tileTaskBindingWrite cluster q w) s = .next (s.bump pcfgErr 0 0 1))) ∧
  (∀ (s : State) (die f tenant n : Nat), s.dieReset die = true → Machine.exec (.policyControlWrite die f tenant n) s = .next s) ∧
  (∀ (s : State) (die tenant n : Nat), die < 4 → s.dieReset die = false →
    (10 ≤ n → n ≤ 10000 → Machine.exec (.policyControlWrite die 0 tenant n) s = .next { s with tper := mset die n s.tper }) ∧
    (tenant ≤ 16 → 256 ≤ n → n ≤ 16384 →
      Machine.exec (.policyControlWrite die 1 tenant n) s = .next { s with allow := mset (32 * die + tenant) n s.allow }) ∧
    (tenant < 16 → 2 ^ 16 ≤ n → n ≤ 2 ^ 32 →
      Machine.exec (.policyControlWrite die 2 tenant n) s = .next { s with wdog := mset (32 * die + tenant) n s.wdog }) ∧
    (n < 10 ∨ 10000 < n → Machine.exec (.policyControlWrite die 0 tenant n) s = .next s) ∧
    (16 < tenant ∨ n < 256 ∨ 16384 < n → Machine.exec (.policyControlWrite die 1 tenant n) s = .next s) ∧
    (16 ≤ tenant ∨ n < 2 ^ 16 ∨ 2 ^ 32 < n → Machine.exec (.policyControlWrite die 2 tenant n) s = .next s)) ∧
  (∀ (s : State) (die f tenant n : Nat), 4 ≤ die ∨ 3 ≤ f → Machine.exec (.policyControlWrite die f tenant n) s = .next s)

/-- DERIVED (R306 to R308, R319 to R321, R333): the six decisions. An idle engine of a die that is up takes the request that
heads its buffer (ENQ, PICK of an enabled partition with a free slot, TICK of an enabled one, BLOCK, WAKE, MIGR) and begins
its decision: it runs the hypervisor's routine in one lane at PC 0 with no register written; without one, that of the
instance's tenant; without either, the fallback decides within the tenant: ENQ gives the class of the oldest unstarted record,
PICK the tenant's source of the highest class and then the oldest, TICK one unit to the tenant (every running team of the
partition is asked to halt when the tenant changes), WAKE a slot on the queue's home die (that it is the first free one, and
none on a die that is being reset, is the model's choice: log entries 54 and 34), BLOCK and MIGR nothing. A partition without
a hypervisor's routine counts RRFALL, and the next tenant's part decides. While a TICK's routine runs its partition calls none.
While the home die of a request is not up, the fallback decides it on cluster (c + 8) mod 32. The wait of a tile-task record that reaches its tenant's MWAIT calls MIGR once,
for the oldest of its key first; before that nothing happens. -/
def Obligations.Decisions : Prop :=
  (∀ (s : State) (c : Nat) (rs : List PReq), let u := s.taken c rs
    (∀ kind inst key, kind ≠ 4 → s.asked ⟨1, kind, inst, key⟩ c rs →
      Machine.exec (.enq kind inst) s = .next (u.beginDecision c ⟨1, kind, inst, key⟩)) ∧
    (∀ p, s.asked ⟨2, 2, p, 0⟩ c rs → partEn (s.part p) = true → 0 < s.freeSlots p →
      Machine.exec (.pick p) s = .next (u.beginDecision c ⟨2, 2, p, 0⟩)) ∧
    (∀ p, s.asked ⟨3, 2, p, 0⟩ c rs → partEn (s.part p) = true →
      Machine.exec (.tick p) s = .next (u.beginDecision c ⟨3, 2, p, 0⟩)) ∧
    (∀ q, s.asked ⟨4, 0, q, 0⟩ c rs → Machine.exec (.block q) s = .next (u.beginDecision c ⟨4, 0, q, 0⟩)) ∧
    (∀ q, s.asked ⟨5, 0, q, 0⟩ c rs → Machine.exec (.wake q) s = .next (u.beginDecision c ⟨5, 0, q, 0⟩)) ∧
    (∀ kind inst key, s.asked ⟨6, kind, inst, BitVec.ofNat 32 key⟩ c rs →
      Machine.exec (.migr kind inst key) s = .next (u.beginDecision c ⟨6, kind, inst, BitVec.ofNat 32 key⟩)) ∧
    (∀ p, s.ticking p = true →
      Machine.exec (.tick p) s = .next (if partEn (s.part p) then s.decision 3 2 p 0 else s)) ∧
    (∀ (r : PReq) (i : Instr) (key : Nat), mget 0 s.dev.dies (dieOfCluster (engineOf s r)) ≠ 0 →
      c = (engineOf s r + 8) % 32 → (s.engine c).run = none → (s.engine c).reqs = r :: rs →
      (r.point = 1 ∧ r.kind ≠ 4 ∧ i = .enq r.kind r.inst) ∨
      (r.point = 2 ∧ r.kind = 2 ∧ r.key = 0#32 ∧ partEn (s.part r.inst) = true ∧ 0 < s.freeSlots r.inst ∧ i = .pick r.inst) ∨
      (r.point = 3 ∧ r.kind = 2 ∧ partEn (s.part r.inst) = true ∧ i = .tick r.inst) ∨
      (r.point = 4 ∧ r.kind = 0 ∧ i = .block r.inst) ∨ (r.point = 5 ∧ r.kind = 0 ∧ i = .wake r.inst) ∨
      (r.point = 6 ∧ r.key = BitVec.ofNat 32 key ∧ i = .migr r.kind r.inst key) →
      Machine.exec i s = .next (u.fallback r none))) ∧
  (∀ (s : State) (c : Nat) (r : PReq),
    (∀ x, s.routine 16 r.point = some x → s.beginDecision c r = s.startRun c r 16 x []) ∧
    (s.routine 16 r.point = none → ∀ t, s.ownerTenant r = some t →
      (∀ x, s.routine t r.point = some x → s.beginDecision c r = s.startRun c r t x []) ∧
      (s.routine t r.point = none → s.beginDecision c r = (s.endRun c).fallback r (some t))) ∧
    (s.routine 16 2 = none → r.point = 2 → r.kind = 2 →
      (s.beginDecision c r).pcntOf rrFall 0 0 = s.pcntOf rrFall 0 0 + 1 ∧
      ∀ t, tenantAfter (((s.bump rrFall 0 0 1).sources r.inst).map Source.tenant) (mget 15 s.lastPick r.inst) = some t →
        s.beginDecision c r =
          ({ s.bump rrFall 0 0 1 with lastPick := mset r.inst t s.lastPick } : State).tenantPart c r t []) ∧
    (s.routine 16 3 = none → r.point = 3 → r.kind = 2 →
      ∀ t, tenantAfter (s.tickTenants r.inst) (s.runningTenant r.inst) = some t →
        s.beginDecision c r = (s.bump rrFall 0 0 1).tenantPart c r t []) ∧
    (∀ t x, let run : PRun :=
        { req := r, tenant := t, allow := s.allowOf (dieOfCluster c) t, code := x.code, window := x.window,
          wsize := x.wsize, qid := x.qid }
      (s.startRun c r t x []).engine c = { s.engine c with run := some run } ∧
      (s.startRun c r t x []).group (policyBase + c) = { pc := [(0, 0#64)] })) ∧
  (∀ (s : State) (inst t : Nat) (key : Word),
    (∀ q, mfind inst s.queues = some q → s.fallback ⟨1, 0, inst, key⟩ (some t) =
      { s with queues := mset inst { q with cls := some (s.enqClass 0 inst) } s.queues }) ∧
    s.fallback ⟨1, 1, inst, key⟩ (some t) =
      s.setKq inst { s.kq inst with cls := some (efld (s.kq inst).binding 35 32) } ∧
    (∀ x ∈ s.sources inst, x.tenant = t →
      (∀ y ∈ s.sources inst, y.tenant = t → y ≠ x → y.cls < x.cls ∨ (y.cls = x.cls ∧ y.age < x.age)) →
      s.fallback ⟨2, 2, inst, key⟩ (some t) = { s with picks := mset inst x.code s.picks }) ∧
    ((∀ y ∈ s.sources inst, y.tenant ≠ t) →
      s.fallback ⟨2, 2, inst, key⟩ (some t) = { s with picks := mdel inst s.picks }) ∧
    (s.runningTenant inst = t → ∃ u : State, s.fallback ⟨3, 2, inst, key⟩ (some t) = u ∧ u.runningTenant inst = t ∧
      mfind inst u.sliceEnd =
        some ((s.dev.time / s.tperNs (dieOf (inst / 8)) + 1) * s.tperNs (dieOf (inst / 8))) ∧ u.teams = s.teams) ∧
    s.fallback ⟨4, 0, inst, key⟩ (some t) = s ∧ s.fallback ⟨6, 4, inst, key⟩ (some t) = s ∧
    s.fallback ⟨6, 3, inst, key⟩ (some t) = s ∧
    (∀ q i, mfind inst s.queues = some q → q.resident = none → q.heldTail = none → s.wakeSlot (homeDie inst) = some i →
      s.slotQueue (homeDie inst) i = none → (∀ j, j < 16 → mfind (lineOf (2 ^ 48 + 8 * inst) + 4 * j) s.caches.l2 = none) →
      ∃ u : State, s.fallback ⟨5, 0, inst, key⟩ (some t) = u ∧
        mfind inst u.queues = some { q with resident := some (homeDie inst, i), wants := none, lastUse := s.tick })) ∧
  (∀ (s : State) (inst t ctx : Nat) (key : Word) (x : Team), s.runningTenant inst ≠ t → mfind ctx s.teams = some x →
    x.core * 8 + x.part = inst → x.st = .running →
    (mget {} (s.fallback ⟨3, 2, inst, key⟩ (some t)).teams ctx).haltReq = true) ∧
  (∀ (s : State) (cluster q key : Nat), let n := cluster * 64 + q
    (∀ r, ((s.migrDue n).find? fun r => r.key == BitVec.ofNat 32 key) = some r →
      Machine.exec (.mwaitExpire cluster q key) s = .next (s.callMigr n r)) ∧
    ((∀ r ∈ s.migrDue n, r.key ≠ BitVec.ofNat 32 key) → Machine.exec (.mwaitExpire cluster q key) s = .next s) ∧
    (∀ t r, s.taskTenant n = some t → (r ∈ s.migrDue n ↔
      let m := s.mwaitOf (dieOfCluster (n / 64)) t
      r ∈ (s.kq n).recs ∧ (s.kq n).takeable r = true ∧ r.migr = false ∧ m ≠ 0 ∧ 1000 * m ≤ s.dev.time - r.since)))

/-! ### The fabric, the device and its management -/

/-- DERIVED (R28, R30, R151, R325, R327, R328): messages and requests from other devices. A message of 1 to 32 elements whose
endpoint is defined and admits its source enters the buffer whole where it fits, or the port that holds the endpoint, unless
its team is saved or the port has no room; the fabric holds it otherwise; one whose endpoint is not defined, or does not let
in the source, is counted in IMPDENY and reported. The fabric takes elements of a placed group's kind-4 port, oldest message
first; the last of them sends it. A request that no import entry permits is an error, a store counted and reported; a
permitted load is answered from its home; a store or atomic whose header (source node, stream, window stamp and number) has
not been applied is performed once, an atomic whose word cannot be read only answered with an error; a request whose header
breaks its fields is none. MSGEP defines and removes endpoints. (The filter value 0xFFFF admits every node; the detail of
IMPORT_DENIED for a message is free, log entry 57.) -/
def Obligations.FabricTraffic : Prop :=
  (∀ (s : State) (ep src : Nat) (m : List Word), m = [] ∨ 32 < m.length →
    Machine.exec (.messageArrive ep src m) s = .next s) ∧
  (∀ (s : State) (ep src : Nat) (m : List Word), m ≠ [] → m.length ≤ 32 →
    let denied := (s.bump impDeny 0 0 1).deviceEvent 0x14 src (Config.freeEventValue s.tick)
    (mfind ep s.dev.endpoints = none → Machine.exec (.messageArrive ep src m) s = .next denied) ∧
    ∀ e, mfind ep s.dev.endpoints = some e →
      let waits : State := { s with dev := { s.dev with
        endpoints := mset ep { e with buf := e.buf ++ [m] } s.dev.endpoints } }
      (e.req.filter ≠ 0xFFFF → e.req.filter ≠ src → Machine.exec (.messageArrive ep src m) s = .next denied) ∧
      (e.req.filter = 0xFFFF ∨ e.req.filter = src →
        ((e.holder = none ∨
            (∃ h, e.holder = some h ∧ ((s.teamOf (h / 8)).held = false ∨
              e.buf = [] ∧ 256 < ((s.group (h / 8)).port (h % 8)).elems.length +
                ((s.group (h / 8)).port (h % 8)).outCount + m.length))) →
          (e.fill + m.length ≤ e.req.depth → Machine.exec (.messageArrive ep src m) s = .next waits) ∧
          (e.req.depth < e.fill + m.length → Machine.exec (.messageArrive ep src m) s = .next s)) ∧
        (∀ h, e.holder = some h → e.buf = [] → (s.teamOf (h / 8)).held = true →
          ((s.group (h / 8)).port (h % 8)).elems.length + ((s.group (h / 8)).port (h % 8)).outCount + m.length ≤ 256 →
          ∃ t : State, Machine.exec (.messageArrive ep src m) s = .next t ∧ { t with groups := s.groups, dev := s.dev } = s ∧
            t.group (h / 8) = (s.group (h / 8)).setPort (h % 8)
              { (s.group (h / 8)).port (h % 8) with elems := ((s.group (h / 8)).port (h % 8)).elems ++ m } ∧
            (∀ k, k ≠ h / 8 → t.group k = s.group k) ∧
            ∀ j, mfind j t.dev.endpoints = if j = ep then some { e with buf := [] } else mfind j s.dev.endpoints))) ∧
  (∀ (s : State) (k q n : Nat),
    let p := (s.group k).port q
    (mfind k s.groups = none ∨ (s.teamOf k).held = false ∨ p.out = [] →
      Machine.exec (.fabricTakesPortElements k q n) s = .next s) ∧
    ∀ (m : List Word) (ms : List (List Word)), (mfind k s.groups).isSome = true → (s.teamOf k).held = true → p.out = m :: ms →
      (n < m.length → Machine.exec (.fabricTakesPortElements k q n) s = .next (s.updGroup k fun g =>
        g.setPort q { p with out := m.drop n :: ms, sent := p.sent ++ m.take n })) ∧
      (m.length ≤ n →
        let t := s.updGroup k fun g => g.setPort q { p with out := ms, sent := [] }
        (p.node ≠ s.dev.node.toNat → s.cutOff p.node = false →
          Machine.exec (.fabricTakesPortElements k q n) s = .next t) ∧
        (p.node ≠ s.dev.node.toNat → s.cutOff p.node = true →
          Machine.exec (.fabricTakesPortElements k q n) s = .next s) ∧
        (p.node = s.dev.node.toNat → Machine.exec (.fabricTakesPortElements k q n) s =
          .next ((t.messageIn p.dest p.node (p.sent ++ m)).getD s)))) ∧
  (∀ (s : State) (req : EndpointReq) (ep : Nat), s.dev.recovery = false →
    (req.num ≤ 4095 → req.partid ≤ 255 → 256 ≤ req.depth → req.depth ≤ 65536 → req.filter ≤ 0xFFFF →
      (mfind req.num s.dev.endpoints = none → Machine.exec (.msgepDefine req) s =
        .next { s with dev := { s.dev with
          endpoints := mset req.num { req := req } s.dev.endpoints, status := 0, report := [] } }) ∧
      ((mfind req.num s.dev.endpoints).isSome = true → Machine.exec (.msgepDefine req) s = .next (s.answerCmd 4))) ∧
    (req.depth < 256 ∨ 65536 < req.depth ∨ 4095 < req.num ∨ 255 < req.partid ∨ 0xFFFF < req.filter →
      Machine.exec (.msgepDefine req) s = .next (s.answerCmd 3)) ∧
    (∀ e, mfind ep s.dev.endpoints = some e →
      (e.holder = none → Machine.exec (.msgepRemove ep) s =
        .next { s with dev := { s.dev with endpoints := mdel ep s.dev.endpoints, status := 0, report := [] } }) ∧
      (e.holder ≠ none → Machine.exec (.msgepRemove ep) s = .next (s.answerCmd 2))) ∧
    (mfind ep s.dev.endpoints = none → Machine.exec (.msgepRemove ep) s = .next (s.answerCmd 6))) ∧
  (∀ (s : State) (r : FabricReq), 2 ^ 16 ≤ r.node ∨ 2 ^ 16 ≤ r.stream ∨ 2 ^ 32 ≤ r.seq ∨ 2 ^ 32 ≤ r.win →
    Machine.exec (.remoteAccessArrive r) s = .next s) ∧
  (∀ (s : State) (r : FabricReq), fabricOk r = true →
    let u : State := { s with dev := { s.dev with reply := none } }
    (u.permitOf r = none →
      (r.kind ≠ 1 → Machine.exec (.remoteAccessArrive r) s = .next u) ∧
      (r.kind = 1 → Machine.exec (.remoteAccessArrive r) s =
        .next ((u.bump impDeny 0 0 1).deviceEvent 0x14 r.node (r.pa % 2 ^ 32)))) ∧
    (∀ e, u.permitOf r = some e →
      e.node = r.node ∧ e.base ≤ r.pa ∧ r.pa + r.width ≤ e.base + e.size ∧
      (r.kind = 0 → e.r = true ∧ Machine.exec (.remoteAccessArrive r) s =
        .next { s with dev := { s.dev with reply := (u.fabricRead e r).map (BitVec.ofNat 128) } }) ∧
      (r.kind = 1 → e.w = true) ∧ (2 ≤ r.kind → e.a = true) ∧
      (r.kind ≠ 0 → mget false s.dev.applied (fabricKey r) = true → Machine.exec (.remoteAccessArrive r) s = .next u) ∧
      (r.kind ≠ 0 → mget false s.dev.applied (fabricKey r) = false →
        let v : State := { u with dev := { u.dev with applied := mset (fabricKey r) true u.dev.applied } }
        (r.kind = 1 → Machine.exec (.remoteAccessArrive r) s = .next (v.fabricWrite e r.pa (fabricWords r))) ∧
        (2 ≤ r.kind → u.fabricRead e r = none → Machine.exec (.remoteAccessArrive r) s = .next v) ∧
        (∀ old, 2 ≤ r.kind → u.fabricRead e r = some old →
          let new := applyLanes (if r.kind = 3 then 10 else r.op) (8 * r.width) (BitVec.ofNat 64 old)
            [(0, r.data.setWidth 64, r.cmp)]
          ∃ t : State, t = v.fabricWrite e r.pa (fabricWords { r with data := new.setWidth 128 }) ∧
            Machine.exec (.remoteAccessArrive r) s =
              .next { t with dev := { t.dev with reply := some (BitVec.ofNat 128 old) } }))))

/-- DERIVED (R149 to R151, R249, R325, R329 to R332): WINDOW_BOUND_LOST puts the streams to a node under acknowledgement
ordering and notes an overrun against each group with a store there that is not acknowledged (which groups that is, log entry
46; one mode for each node, log entry 75); WINDOW_ORDER_RESTORE takes them back after a whole window on a synchronised device
whose 2 × ERR is at most WLEN. A stream is under acknowledgement ordering, and its group owes the acknowledgement, in that
mode, without synchronisation, or where 2 × ERR is above WLEN. LINK_DOWN and LINK_UP change a port and send their events, and the time at
which a port last stopped reaching a node is kept; a port of a die in reset does not come up (log entry 83). STREAM_TIMEOUT discards the stores to a node that no port has reached
for 10 ms, each recorded as DATA_LOST: a group's own in its record of failures, an engine operation's against the operation;
it discards no atomic, whose answer is the error itself. -/
def Obligations.LinksAndStreams : Prop :=
  (∀ (s : State) (node : Nat),
    (∃ t : State, Machine.exec (.windowBoundLost node) s = .next t ∧
      { t with groups := s.groups, dev := { t.dev with streams := s.dev.streams } } = s ∧
      (∀ j, mget {} t.dev.streams j =
        if j = node then { mget {} s.dev.streams node with ack := true, lost := s.window } else mget {} s.dev.streams j) ∧
      ∀ k, ((∃ p ∈ s.caches.flights, p.2.route = .remote ∧ p.2.node = node ∧ p.2.grp = k) ∧ (mfind k s.groups).isSome = true →
          t.group k = { s.group k with overrun := true }) ∧
        ((∀ p ∈ s.caches.flights, p.2.route = .remote → p.2.node = node → p.2.grp ≠ k) → t.group k = s.group k)) ∧
    ((mget {} s.dev.streams node).lost + 2 ≤ s.window → s.dev.sync ≠ 2 → 2 * s.dev.errNow ≤ s.dev.wlen →
      Machine.exec (.windowOrderRestore node) s = .next { s with dev := { s.dev with
        streams := mset node { mget {} s.dev.streams node with ack := false } s.dev.streams } }) ∧
    (s.window < (mget {} s.dev.streams node).lost + 2 ∨ s.dev.sync = 2 ∨ s.dev.wlen < 2 * s.dev.errNow →
      Machine.exec (.windowOrderRestore node) s = .next s) ∧
    (s.ackOrder node = true ↔
      (mget {} s.dev.streams node).ack = true ∨ s.dev.sync = 2 ∨ s.dev.wlen < 2 * s.dev.errNow) ∧
    ∀ k, s.ackOwed k = true ↔ ∃ p ∈ s.caches.flights,
      p.2.grp = k ∧ p.2.op = none ∧ p.2.route = .remote ∧ s.ackOrder p.2.node = true) ∧
  (∀ (s : State) (port peer : Nat),
    (∀ l, mfind port s.dev.links = some l → l.up = true →
      Machine.exec (.linkDown port) s = .next (({ s with dev := { s.dev with
        links := mset port { l with up := false } s.dev.links, cut := mset l.peer s.dev.time s.dev.cut } } :
          State).deviceEvent 0x11 port l.peer)) ∧
    ((∀ l, mfind port s.dev.links = some l → l.up = false) → Machine.exec (.linkDown port) s = .next s) ∧
    (port < 16 → peer ≤ 0xFFFF → s.dieReset (port / 4) = false →
      ∀ cut, ((∀ l, mfind port s.dev.links = some l → l.up = false) → cut = s.dev.cut) →
      (∀ l, mfind port s.dev.links = some l → l.up = true → cut = mset l.peer s.dev.time s.dev.cut) →
      Machine.exec (.linkUp port peer) s = .next (({ s with dev := { s.dev with
        links := mset port { up := true, peer := peer } s.dev.links, cut := cut } } : State).deviceEvent 0x12 port peer)) ∧
    (16 ≤ port ∨ 0xFFFF < peer ∨ s.dieReset (port / 4) = true → Machine.exec (.linkUp port peer) s = .next s)) ∧
  (∀ (s : State) (node : Nat),
    let theirs := fun x : Flight => x.route = .remote ∧ x.node = node ∧ x.atom = false
    (s.cutOff node = true ↔ (mfind node s.dev.cut).isSome = true ∧ ∀ p ∈ s.dev.links, p.2.peer = node → p.2.up = false) ∧
    s.cutAt node = mget 0 s.dev.cut node ∧
    (s.cutOff node = false ∨ s.dev.time < s.cutAt node + 10000000 →
      Machine.exec (.streamTimeout node) s = .next s) ∧
    (s.cutOff node = true → s.cutAt node + 10000000 ≤ s.dev.time →
      ∃ t : State, Machine.exec (.streamTimeout node) s = .next t ∧ t.dev.time = s.dev.time ∧
        (∀ id, (∃ x, (id, x) ∈ s.caches.flights ∧ theirs x) → mfind id t.caches.flights = none) ∧
        (∀ id, (∀ x, (id, x) ∈ s.caches.flights → ¬ theirs x) → mfind id t.caches.flights = mfind id s.caches.flights) ∧
        (∀ id fl, (s.caches.flights.filter fun p => p.2.route == .remote && p.2.node == node && !p.2.atom) =
            [(id, fl)] →
          (mfind fl.grp s.groups).isSome = true →
          (fl.op = none → (∃ l ∈ allLanes, (s.group fl.grp).alive l = true) →
            ∀ k, t.group k = if k = fl.grp then
              { s.group k with fails := (s.group k).fails ++ [(6, ⟨.dataLost, fl.va⟩)] } else s.group k) ∧
          (∀ op, fl.op = some op → ∀ k, t.group k = if k = fl.grp then
              (s.group k).updOp op fun o => { o with fail := o.fail.or (some ⟨.dataLost, fl.va⟩) } else s.group k))))

/-- DERIVED (R2, R132, R249, R297, R308, R323, R328 to R331, R337, R339): the device in service. A module that a retraining
does not mend is spared out, with SPARED, and REPLACE of condition 3 when fewer than 40 of its boundary serve; a mended one
changes nothing. A corrected error counts for its structure in the hour; one that cannot be corrected reaches the consumer of
a register, a tile, an accumulator, a slice, a scratchpad, the pocket or a stack as DATA_LOST, drops a clean L1 word, and
loses one that is not, with the loads that wait for it; a registry line's loses the words registered in it; a bank engine's
fails the commands on its pages; a module's or a port's past the retry limit fails the transfer of its word in the next step.
An error of a slice's copy is apart from one of memory. How units are numbered and how large they are, the address 0 of a
mark, that an error on a pending sector has no effect, and which transfer and which command fail are the model's (log entry
24). SYNC_RECEIVED locks the device and steps it before its first
launch only, ERR being the absolute offset (log entry 56); 2 s without a Sync is holdover and 60 s of holdover loss, ERR
growing by 2,000 ns a second (the growth before that is the drift allowed, log entry 21); each change of state sends
SYNC_STATE. WLEN stages a power of two for the next multiple of 65,536 ns, WLEN_APPLY puts it in force when that has come, and
a window that the machine has noted is numbered anew, ending no earlier (log entry 22). What time brings happens as it passes,
in that order; then the streams lose the bound where 2 × ERR is above WLEN, and those that have lost it miss it on as long as
no link of theirs can meet it; and streams that no port has served for 10 ms end. Throttling, normal operation and a power cap
change the thermal state and nothing of the machine's; 110 °C asks every team to halt and park, and the dies power down when
none is held. -/
def Obligations.ServiceEvents : Prop :=
  (∀ (s : State) (b m : Nat),
    Machine.exec (.moduleRetrain b m true) s = .next s ∧
    (b < 4 → m < 48 → s.sparedUnit 5 (48 * b + m) = false →
      ∃ t : State, Machine.exec (.moduleRetrain b m false) s = .next t ∧
        t.dev.spared = mset (5 * 65536 + (48 * b + m)) true s.dev.spared ∧
        (48 - t.sparedIn 5 (48 * b) 48 < 40 → 3 ∈ t.dev.replace) ∧ t.groups = s.groups ∧ t.teams = s.teams ∧
        t.caches.l1 = s.caches.l1)) ∧
  (∀ (s : State) (kind unit addr : Nat) (corrected : Bool), structures kind ≤ unit →
    Machine.exec (.softError kind unit addr corrected) s = .next s) ∧
  (∀ (s : State) (kind unit addr : Nat), unit < structures kind →
    (∃ t : State, Machine.exec (.softError kind unit addr true) s = .next t ∧
      t.pcntOf (softKey (s.dev.time / hourNs)) 0 (4096 * kind + unit) =
        s.pcntOf (softKey (s.dev.time / hourNs)) 0 (4096 * kind + unit) + 1 ∧ t.groups = s.groups ∧ t.caches.l1 = s.caches.l1) ∧
    (∀ k, s.slotGroup (unit / 16) (4 * (unit % 16) + addr / 4096) = some k → kind = 2 →
      Machine.exec (.softError kind unit addr false) s =
        .next (s.updGroup k fun g => g.setMark (addr % 4096 / 32) (addr % 32) ⟨.dataLost, 0⟩)) ∧
    (∀ k, s.slotGroup unit (addr / 16) = some k → kind = 3 →
      Machine.exec (.softError kind unit addr false) s = .next (s.updGroup k fun g =>
        g.setTile (addr % 16) { g.tile (addr % 16) with mark := some ⟨.dataLost, 0⟩ })) ∧
    (kind = 4 → Machine.exec (.softError kind unit addr false) s =
      .next (s.setAcc (unit / 4) (unit % 4) (addr % 8) { s.acc (unit / 4) (unit % 4) (addr % 8) with bad := true })) ∧
    (∀ x, s.l1 unit (addr / 4 * 4) = some x → kind = 0 →
      ∃ t : State, Machine.exec (.softError kind unit addr false) s = .next t ∧ t.l1 unit (addr / 4 * 4) = none ∧
        t.mem = s.mem ∧
        (x.st ≠ .v → t.groups = (s.mapSlots unit (loseSlot (addr / 4 * 4) .ownerLost)).groups ∧
          t.isLost (addr / 4 * 4) = true ∧ t.ownerOf (addr / 4 * 4) = none ∧
          ∀ c, s.ownerOf (addr / 4 * 4) = some c → t.l1 c (addr / 4 * 4) = none) ∧
        (x.st = .v → t = s.dropL1 unit (addr / 4 * 4))) ∧
    (∀ a n, (kind = 1 ∧ addr < 2 ^ 22 ∧ a = scratchPA unit addr ∧ n = 1) ∨
        (kind = 7 ∧ regionOf addr = 1 ∧ addr < 2 ^ 48 + 2 ^ 24 ∧ a = addr ∧ n = 2) ∨
        (kind = 8 ∧ isHbm addr = true ∧ a = addr ∧ n = 8) →
      Machine.exec (.softError kind unit addr false) s = .next (s.spoil a n)) ∧
    (kind = 5 → Machine.exec (.softError kind unit addr false) s = .next (s.spoilSlice addr)) ∧
    (kind = 6 → ∃ t : State, Machine.exec (.softError kind unit addr false) s = .next t ∧ t.groups = s.groups ∧
      ∀ i c, i < 16 → s.ownerOf (lineOf addr + 4 * i) = some c →
        t.isLost (lineOf addr + 4 * i) = true ∧ t.ownerOf (lineOf addr + 4 * i) = none ∧
          t.l1 c (lineOf addr + 4 * i) = none) ∧
    (kind = 8 → isHbm addr = false → ∃ t : State, Machine.exec (.softError kind unit addr false) s = .next t ∧
      { t with groups := s.groups } = s ∧
      ∀ k o, o ∈ (s.group k).ops → ∀ e, o.kind = .engine e →
        (e.code = 4 → e.started = true → o.done = false → ∀ x, e.pages = [x] → x.2.ilv = 1 →
          (∃ b, s.burstOf x.2 (x.1 * 65536) = some b ∧ b.1 = unit) →
          { o with fail := o.fail.or (some ⟨.dataLost, x.1 * 65536⟩) } ∈ (t.group k).ops) ∧
        (e.code ≠ 4 ∨ e.started = false ∨ o.done = true → o ∈ (t.group k).ops)) ∧
    (9 ≤ kind → Machine.exec (.softError kind unit addr false) s =
      .next { s with caches := { s.caches with cut := some (s.tick + 1, paOf addr / 4 * 4) } })) ∧
  (∀ (s : State) (a n : Nat), 0 < n →
    let b := a / (4 * n) * (4 * n)
    let t := s.spoil a n
    (s.pending b = true → t = s) ∧ { t with caches := { t.caches with bad := s.caches.bad } } = s ∧
      (s.pending b = false → ∀ x, t.isBad x = (s.isBad x || decide (b ≤ x ∧ x < b + 4 * n ∧ x % 4 = 0)))) ∧
  (∀ (s : State) (ha x : Nat), let t := s.spoilSlice ha
    { t with caches := { t.caches with bad := s.caches.bad } } = s ∧
      t.sliceErr x = (s.sliceErr x || decide (x / 8 = ha / 8 ∧ x % 4 = 0) && (mfind x s.caches.l2).isSome)) ∧
  (∀ (s : State) (off : Int),
    let step := s.dev.stepped = false ∧ 1000000 < off.natAbs ∧ s.dev.admitted = false
    ∀ time, (step → time = (((s.dev.time : Int) + off) % 2 ^ 64).toNat) → (¬ step → time = s.dev.time) →
    ∀ stepped, (stepped = true ↔ s.dev.stepped = true ∨ step) →
    let u : State := { s with dev := { s.dev with time := time, stepped := stepped, lastSync := time, err := off.natAbs, sync := 0 } }
    (s.dev.sync = 0 → Machine.exec (.syncReceived off) s = .next u) ∧
    (s.dev.sync ≠ 0 → Machine.exec (.syncReceived off) s = .next (u.deviceEvent 0x13 0 off.natAbs))) ∧
  (∀ (s : State),
    (s.dev.sync = 0 → s.dev.lastSync + 2000000000 ≤ s.dev.time →
      let e := s.dev.err + Config.driftAllowed 2000000000
      Machine.exec .syncHoldover s =
        .next (({ s with dev := { s.dev with holdAt := s.dev.lastSync + 2000000000, err := e, sync := 1 } } : State).deviceEvent
          0x13 1 e)) ∧
    (s.dev.sync ≠ 0 ∨ s.dev.time < s.dev.lastSync + 2000000000 → Machine.exec .syncHoldover s = .next s) ∧
    (s.dev.sync = 1 → s.dev.holdAt + 60000000000 ≤ s.dev.time →
      let e := s.dev.err + 120000
      Machine.exec .syncLost s =
        .next (({ s with dev := { s.dev with err := e, sync := 2 } } : State).deviceEvent 0x13 2 e)) ∧
    (s.dev.sync ≠ 1 ∨ s.dev.time < s.dev.holdAt + 60000000000 → Machine.exec .syncLost s = .next s)) ∧
  (∀ (s : State) (ns n : Nat),
    (s.dev.recovery = false → (∃ i, i < 64 ∧ ns = 2 ^ i) → 1024 ≤ ns → ns ≤ 65536 →
      Machine.exec (.wlen ns) s = .next { s with dev := { s.dev with
        wlenNext := some ns, wlenAt := (s.dev.time / 65536 + 1) * 65536, status := 0, report := [] } }) ∧
    (s.dev.recovery = false → ns < 1024 ∨ 65536 < ns → Machine.exec (.wlen ns) s = .next (s.answerCmd 3)) ∧
    (s.dev.wlenNext = none ∨ s.dev.time < s.dev.wlenAt → Machine.exec .wlenApply s = .next s) ∧
    (s.dev.wlenNext = some n → 0 < n → s.dev.wlenAt ≤ s.dev.time →
      ∃ (t : State) (r : Nat → Nat), Machine.exec .wlenApply s = .next t ∧
        t.dev = { s.dev with wlen := n, wlenNext := none, streams := t.dev.streams } ∧
        { t with groups := s.groups, teams := s.teams, launches := s.launches, late := s.late, dev := s.dev } = s ∧
        (∀ w, (w + 2) * s.dev.wlen ≤ (r w + 2) * n) ∧
        (∀ k, t.group k = { s.group k with nlast := (s.group k).nlast.map r, hold := (s.group k).hold.map r }) ∧
        (∀ c, mfind c t.teams = (mfind c s.teams).map fun x => { x with nlast := x.nlast.map r }) ∧
        (∀ k, mfind k t.late = (mfind k s.late).map r) ∧
        (∀ j, mfind j t.dev.streams = (mfind j s.dev.streams).map fun x => { x with lost := r x.lost }))) ∧
  (∀ s : State,
    s.onTime = ((((s.applyWlen).holdover).syncLoss).errBound).streamsOver ∧
    ((∀ p ∈ s.dev.cut, s.cutOff p.1 = false ∨ s.dev.time < s.cutAt p.1 + 10000000) → s.streamsOver = s) ∧
    (∀ n, s.unbounded n = true ↔ s.dev.wlen < 2 * s.dev.errNow ∨ s.cutOff n = true) ∧
    Machine.exec .wlenApply s = .next s.applyWlen ∧ Machine.exec .syncHoldover s = .next s.holdover ∧
    Machine.exec .syncLost s = .next s.syncLoss ∧
    (s.dev.sync = 2 ∨ 2 * s.dev.errNow ≤ s.dev.wlen →
      (∀ p ∈ s.dev.streams, p.2.ack = false ∨ s.unbounded p.1 = false) → s.errBound = s) ∧
    (∀ n x, mfind n s.dev.streams = some x → (∀ y, (n, y) ∈ s.dev.streams → y.ack = true) →
      mfind n s.errBound.dev.streams = some (if s.unbounded n = true then { x with lost := s.window } else x)) ∧
    (s.dev.sync ≠ 2 → s.dev.wlen < 2 * s.dev.errNow →
      (∀ n x, mfind n s.dev.streams = some x → x.ack = false →
        mfind n s.errBound.dev.streams = some { x with ack := true, lost := s.window }) ∧
      ∀ k, (∃ p ∈ s.caches.flights, ∃ x, p.2.route = .remote ∧ p.2.grp = k ∧
          mfind p.2.node s.dev.streams = some x ∧ x.ack = false) → (mfind k s.groups).isSome = true →
        (s.errBound.group k).overrun = true)) ∧
  (∀ (s : State) (x : Nat),
    (s.dev.thermal = 0 → 95 < x ∨ s.dev.cap < 1650 → Machine.exec (.thermalThrottle x) s =
      .next (({ s with dev := { s.dev with thermal := 1 } } : State).deviceEvent 0x17 1 x)) ∧
    (s.dev.thermal = 1 → x ≤ 95 → Machine.exec (.thermalNormal x) s =
      .next (({ s with dev := { s.dev with thermal := 0 } } : State).deviceEvent 0x17 0 x)) ∧
    (900 ≤ x → x ≤ 1650 → Machine.exec (.powerCapSet x) s = .next { s with dev := { s.dev with cap := x } }) ∧
    (x < 900 ∨ 1650 < x → Machine.exec (.powerCapSet x) s = .next s) ∧
    (x < 110 ∨ s.dev.thermal = 2 → Machine.exec (.thermalShutdown x) s = .next s) ∧
    (110 ≤ x → s.dev.thermal ≠ 2 →
      ∃ t : State, Machine.exec (.thermalShutdown x) s = .next t ∧ t.dev.thermal = 2 ∧ t.groups = s.groups ∧
        (∀ c y, mfind c s.teams = some y → y.held = true →
          mfind c t.teams = some { y with haltReq := y.st != .halted, park := true }) ∧
        (∀ c, (∀ y, (c, y) ∈ s.teams → y.held = false) → mfind c t.teams = mfind c s.teams) ∧
        ((∀ p ∈ s.teams, p.2.held = false) → t.dev.off = true) ∧
        ((∃ p ∈ s.teams, p.2.held = true) → t.dev.off = s.dev.off)))

/-- DERIVED (R132, R287, R305, R327, R329, R333 to R335, R343): resets. DEVICE_RESET gives the state after reset, with
memory and its uncorrectable words, scrubs, spared units and rows, REPLACE and device time kept (log entry 25), a staged image
in place, in recovery where it fails a check, and the granule table that the firmware fixes, unless its table is refused.
DIE_RESET of a die that is up begins its quiesce: no queue stays in its slots, its teams are asked to halt and park; where
none is held there, no routine runs, and the frames of its teams lie on no fenced stack, the die is fenced and reset at once.
DIE_READMIT brings it up with its cores, and its clusters' requests come back to their engines. A core
fenced off, or a die reset without write-back, loses the words registered to its cores, whose L1s are empty and whose
teams end (log entry 23); a word that a page's leaf occupies is written again by the teams' end. A die's reset also empties
its slices' pinned lines and takes its ports down (log entry 83). -/
def Obligations.Resets : Prop :=
  (∀ s : State, let fw := s.dev.staged.getD s.dev.fw
    ∃ t : State, Machine.exec .deviceReset s = .next t ∧
      { t with agenda := [], tick := 0, nextId := 1, mem := [], scrubs := [], caches := {}, dev := {} } = State.reset ∧
      t.mem = s.mem ∧ t.scrubs = s.scrubs ∧ t.caches = { bad := t.caches.bad } ∧
      (∀ a, t.isBad a = (s.isBad a && decide (a < 2 ^ 53))) ∧
      t.dev = { State.reset.dev with
        time := s.dev.time, spared := s.dev.spared, rowsOut := s.dev.rowsOut, replace := s.dev.replace, fw := fw,
        svnMin := s.dev.svnMin, frames := s.dev.frames, granules := t.dev.granules, recovery := t.dev.recovery } ∧
      (granulesOk fw = true → ∀ g, g < 512 → t.gmode g = fwMode fw g) ∧
      (granulesOk fw = false → ∀ g, t.gmode g = gmodeDefault g) ∧
      (t.dev.recovery = true ↔ firmwareFault s.dev.svnMin fw ≠ 0)) ∧
  (∀ (s : State) (die : Nat), s.dev.recovery = false →
    (4 ≤ die → Machine.exec (.dieReset die) s = .next (s.answerCmd 3)) ∧
    (die < 4 → mget 0 s.dev.dies die ≠ 0 → Machine.exec (.dieReset die) s = .next (s.answerCmd 2)) ∧
    (die < 4 → mget 0 s.dev.dies die = 0 →
      ∃ t : State, Machine.exec (.dieReset die) s = .next t ∧ t.dev.status = 0 ∧
        (∀ q x, mfind q t.queues = some x → x.resident.map Prod.fst ≠ some die) ∧
        (∀ c x, mfind c s.teams = some x → x.held = true → dieOf x.core = die →
          mget 0 t.dev.dies die = 1 ∧ ∃ y, mfind c t.teams = some y ∧ y.park = true ∧ y.haltReq = (x.st != .halted)) ∧
        ((∀ p ∈ s.teams, p.2.held = true → dieOf p.2.core ≠ die) → (∀ c ∈ dieClusters die, (s.engine c).run = none) →
          s.framesUp die = true →
          mget 0 t.dev.dies die = 2))) ∧
  (∀ (s : State) (die : Nat),
    (mget 0 s.dev.dies die ≠ 2 → Machine.exec (.dieReadmit die) s = .next s) ∧
    (mget 0 s.dev.dies die = 2 →
      ∃ t : State, Machine.exec (.dieReadmit die) s = .next t ∧ mget 0 t.dev.dies die = 0 ∧
        (∀ d, d ≠ die → mget 0 t.dev.dies d = mget 0 s.dev.dies d) ∧
        (∀ core, mget false t.dev.fenced core = (mget false s.dev.fenced core && dieOf core != die)) ∧
        t.groups = s.groups ∧ t.teams = s.teams)) ∧
  (∀ (s : State) (c : Nat), c < 32 → mget 0 s.dev.dies (dieOfCluster c) = 0 →
    let o := (c + 8) % 32
    let u := s.bringBack c
    (∀ r ∈ (u.engine o).reqs ++ (u.engine o).wait, engineOf s r ≠ c) ∧
      ∀ r ∈ (s.engine o).reqs ++ (s.engine o).wait, engineOf s r = c →
        ∃ x ∈ (u.engine c).reqs ++ (u.engine c).wait, x.point = r.point ∧ x.kind = r.kind ∧ x.inst = r.inst) ∧
  (∀ (s : State) (core die : Nat),
    (core < 256 →
      ∃ t : State, Machine.exec (.dieResetWithoutQuiesce die (some core)) s = .next t ∧
        mget false t.dev.fenced core = true ∧ t.l1Words core = [] ∧
        (∀ ha, s.ownerOf ha = some core → t.ownerOf ha = none ∧
          ((∀ x : Pin, ((∃ p ∈ s.teams, x ∈ p.2.pages) ∨ ∃ p ∈ s.gangs, x ∈ p.2.pages) →
            ∀ a ∈ x.leaves, ha < a ∨ a + 16 ≤ ha) → t.isLost ha = true)) ∧
        (∀ c x, mfind c s.teams = some x → x.held = true → x.core = core → mfind c t.teams = none)) ∧
    (die < 4 → mget 0 s.dev.dies die ≠ 2 →
      ∃ t : State, Machine.exec (.dieResetWithoutQuiesce die none) s = .next t ∧ mget 0 t.dev.dies die = 2 ∧
        (∀ core ∈ dieCores die, t.l1Words core = []) ∧
        (∀ port l, port < 16 → port / 4 = die → mfind port t.dev.links = some l → l.up = false) ∧
        (∀ a, (mfind a t.caches.pinned).isSome = true → t.sliceOf a / 96 ≠ die) ∧
        ∀ core ∈ dieCores die, ∀ u p, u < 4 → p < 8 → t.acc core u p = {}))

/-- DERIVED (R109, R111, R256, R287, R309, R312, R320, R322, R326 to R328, R335, R336): management commands. ENUMERATE gives
the node number and answers with the part number, FEAT, the capacity report and the granule table. LOAD_IMAGE of a GRO file
that loads, with a free number, whose queue stands and whose windows lie in its die's pocket apart from others: the image is
loaded, its sections and windows are written, and each routine that passes the checker is bound to its point; a number in use
is reason 4, unless the request is the one that the loaded image came from, whose routines are bound again and whose windows
keep their contents (log entry 82), no queue 6, what the loader refuses its own reason, windows or copies that cannot lie
where they are put 3 (log entry 62), one that would write to a fenced stack 2 (log entry 81). UNLOAD_IMAGE is answered at once; an image that no team and no admitted record uses goes
with its routines and windows, one that a team uses stays until then (log entry 64). APERTURE, IMPORT and COLSET write an
entry within its limits. FW_STAGE keeps an image that passes its checks for the next reset, and tells either way, a refused
image with status 1 (log entry 58). ATTEST answers a report signed with both keys (log entry 26). The signatures and the hash
cover an image's whole contents, in the model's layout (log entry 12). A code that is no command is refused with reason 1. -/
def Obligations.Management : Prop :=
  (∀ (s : State) (node : Nat),
    (node < 0xFFFF → Machine.exec (.enumerate node) s = .next { s with dev := { s.dev with
      node := BitVec.ofNat 16 node, status := 0,
      report := leBytes 8 Config.partNumber.toNat ++ leBytes 16 Config.capMask.toNat ++ s.capacity ++ s.granuleReport } }) ∧
    (0xFFFF ≤ node → Machine.exec (.enumerate node) s = .next (s.answerCmd 3))) ∧
  (∀ (s : State) (req : ImageReq), s.dev.recovery = false →
    (∀ y, mfind req.image s.dev.images = some y →
      ((∀ x, groLoad req s.gmode = .ok x → x.img ≠ y) → Machine.exec (.loadImage req) s = .next (s.answerCmd 4)) ∧
      ∀ x, groLoad req s.gmode = .ok x → x.img = y → ∃ t : State, Machine.exec (.loadImage req) s = .next t ∧
        t.dev.status = 0 ∧ t.dev.images = s.dev.images ∧ t.groups = s.groups ∧ t.teams = s.teams ∧
        ((∀ r ∈ y.routines, checkRoutine r (s.allowOf (homeDie y.qid) y.tenant) = none) → t.mem = s.mem ∧ t.caches = s.caches) ∧
        ((y.routines.map RoutineDesc.point).Nodup → ∀ r ∈ y.routines,
          t.routine y.tenant r.point = if (checkRoutine r (s.allowOf (homeDie y.qid) y.tenant)).isNone then some
            { image := req.image, code := r.code, window := r.window, wsize := r.wsize, qid := y.qid }
            else s.routine y.tenant r.point)) ∧
    (mfind req.image s.dev.images = none → mfind req.qid s.queues = none →
      Machine.exec (.loadImage req) s = .next (s.answerCmd 6)) ∧
    (mfind req.image s.dev.images = none → (mfind req.qid s.queues).isSome = true →
      (∀ n, groLoad req s.gmode = .error n → Machine.exec (.loadImage req) s = .next (s.answerCmd n)) ∧
      ∀ x, groLoad req s.gmode = .ok x →
        (16 < req.tenant ∨ 255 < req.partid ∨ s.placesWindows (homeDie req.qid) x.img.windows = false ∨
            (∃ b ∈ x.copies, s.readOnly req.partid b.1 = false) →
          Machine.exec (.loadImage req) s = .next (s.answerCmd 3)) ∧
        (req.tenant ≤ 16 → req.partid ≤ 255 → s.placesWindows (homeDie req.qid) x.img.windows = true →
          (∀ b ∈ x.copies, s.readOnly req.partid b.1 = true) → s.loadDown x = true →
          Machine.exec (.loadImage req) s = .next (s.answerCmd 2)) ∧
        (req.tenant ≤ 16 → req.partid ≤ 255 → s.placesWindows (homeDie req.qid) x.img.windows = true →
          (∀ b ∈ x.copies, s.readOnly req.partid b.1 = true) → s.loadDown x = false →
          let refused := fun r => checkRoutine r (s.allowOf (homeDie req.qid) req.tenant)
          ∃ t : State, Machine.exec (.loadImage req) s = .next t ∧ t.dev.status = 0 ∧ t.groups = s.groups ∧ t.teams = s.teams ∧
            (∀ i, mfind i t.dev.images = if i = req.image then some x.img else mfind i s.dev.images) ∧
            ((x.img.routines.map RoutineDesc.point).Nodup → ∀ r ∈ x.img.routines,
              t.routine req.tenant r.point = if (refused r).isNone then some
                { image := req.image, code := r.code, window := r.window, wsize := r.wsize, qid := req.qid }
                else s.routine req.tenant r.point) ∧
            (∀ w bs, x.pocket = [(w, bs)] → x.copies = [] → x.img.routines = [] → t.bytes w bs.length = bs) ∧
            (∀ va b p, x.bodies = [(va, [b])] → x.pocket = [] → x.copies = [] → x.img.routines = [] → x.img.pages = [p] →
              p.va = va / 2 ^ p.size * 2 ^ p.size → (pageLeaf p).route = .cached →
              let ha := (pageLeaf p).ha va
              s.down (ha / 4 * 4) = false → s.cutWord (ha / 4 * 4) = false →
              ∃ w : Word, t.homeRead (ha / 4 * 4) = .word w ∧ w.extractLsb' (8 * (ha % 4)) 8 = b)))) ∧
  (∀ (s : State) (image : Nat), s.dev.recovery = false →
    (mfind image s.dev.images = none → Machine.exec (.unloadImage image) s = .next (s.answerCmd 6)) ∧
    ∀ x, mfind image s.dev.images = some x →
      ((∀ p ∈ s.teams, p.2.image ≠ image) → (∀ p ∈ s.launches, p.2.kind = 1 → p.2.image = image → p.2.st = .ended) →
        ∃ t : State, Machine.exec (.unloadImage image) s = .next t ∧ t.dev.status = 0 ∧ mfind image t.dev.images = none ∧
          (∀ p ∈ t.routines, p.2.image ≠ image) ∧
          ∀ w ∈ x.windows, ∀ a, w.1 ≤ a → a < w.1 + w.2 → t.byte a = memDefault) ∧
      ((∃ p ∈ s.teams, p.2.image = image) ∨ (∃ p ∈ s.launches, p.2.kind = 1 ∧ p.2.image = image ∧ p.2.st ≠ .ended) →
        ∃ t : State, Machine.exec (.unloadImage image) s = .next t ∧ t.dev.status = 0 ∧
          mfind image t.dev.images = some { x with unload := true } ∧
          ∀ k r, mfind k s.routines = some r → r.image = image → mfind k t.routines = some r)) ∧
  (∀ (s : State), s.dev.recovery = false →
    (∀ i (ap : Aperture), i < 8 → ap.node ≤ 0xFFFE → ap.base % 65536 = 0 → ap.base < 2 ^ 52 → ap.size % 65536 = 0 →
      0 < ap.size → ap.size ≤ 2 ^ 48 → Machine.exec (.aperture i ap) s =
        .next { s with dev := { s.dev with apertures := mset i ap s.dev.apertures, status := 0, report := [] } }) ∧
    (∀ i (e : ImportEntry), i < 64 → e.node ≤ 0xFFFF → e.home ≤ 2 → e.loc ≤ 1023 → (e.home ≠ 2 → e.loc = 0) →
      bits e.loc 3 0 + bits e.loc 7 4 ≤ 11 → e.base + e.size ≤ 2 ^ 52 →
      Machine.exec (.importWrite i e) s =
        .next { s with dev := { s.dev with imports := mset i e s.dev.imports, status := 0, report := [] } }) ∧
    (∀ set (c : CollectiveSet), set ≤ 4095 → 2 ≤ c.nodes.length → c.nodes.length ≤ 256 → (∀ n ∈ c.nodes, n ≤ 0xFFFF) →
      ((∀ p ∈ s.groups, ∀ o ∈ p.2.ops, ∀ e, o.kind = .engine e → e.code = 3 → e.arg 4 ≠ set) →
        Machine.exec (.colset set c) s =
          .next { s with dev := { s.dev with
            colsets := mset set c s.dev.colsets, colCount := s.dev.colCount.filter fun p => p.1 / 256 != set,
            colLate := mdel set s.dev.colLate, status := 0, report := [] } }) ∧
      ((∃ p ∈ s.groups, ∃ o ∈ p.2.ops, ∃ e, o.kind = .engine e ∧ e.code = 3 ∧ e.arg 4 = set) →
        Machine.exec (.colset set c) s = .next (s.answerCmd 2))) ∧
    (∀ i (ap : Aperture), 8 ≤ i → Machine.exec (.aperture i ap) s = .next (s.answerCmd 3)) ∧
    (∀ i (e : ImportEntry), 64 ≤ i ∨ 11 < bits e.loc 3 0 + bits e.loc 7 4 → Machine.exec (.importWrite i e) s = .next (s.answerCmd 3)) ∧
    (∀ set (c : CollectiveSet), 4095 < set ∨ c.nodes.length < 2 ∨ 256 < c.nodes.length →
      Machine.exec (.colset set c) s = .next (s.answerCmd 3))) ∧
  (∀ (s : State) (fw : Firmware) (nonce : List Byte),
    (Config.ed25519Verifies (fwContents fw) fw.sigE = true → Config.mldsaVerifies (fwContents fw) fw.sigM = true →
      s.dev.svnMin ≤ fw.svn → Machine.exec (.fwStage fw) s =
        .next ((({ s with dev := { s.dev with staged := some fw } } : State).deviceEvent 0x18 0 0).answerCmd 0)) ∧
    (Config.ed25519Verifies (fwContents fw) fw.sigE = false → Machine.exec (.fwStage fw) s =
      .next ((s.deviceEvent 0x18 1 1).answerCmd 1)) ∧
    (Config.ed25519Verifies (fwContents fw) fw.sigE = true → Config.mldsaVerifies (fwContents fw) fw.sigM = false →
      Machine.exec (.fwStage fw) s = .next ((s.deviceEvent 0x18 1 2).answerCmd 1)) ∧
    (Config.ed25519Verifies (fwContents fw) fw.sigE = true → Config.mldsaVerifies (fwContents fw) fw.sigM = true →
      fw.svn < s.dev.svnMin → Machine.exec (.fwStage fw) s = .next ((s.deviceEvent 0x18 1 3).answerCmd 1)) ∧
    (32 < nonce.length → Machine.exec (.attest nonce) s = .next (s.answerCmd 1)) ∧
    (nonce.length ≤ 32 →
      let r := nonce ++ leBytes 48 (Config.sha384 (fwContents s.dev.fw)).toNat ++ leBytes 4 s.dev.fw.svn ++
        leBytes 16 Config.capMask.toNat ++ s.capacity
      Machine.exec (.attest nonce) s = .next { s with dev := { s.dev with
        status := 0, report := r ++ Config.identitySign 0 r ++ Config.identitySign 1 r } })) ∧
  (∀ (s : State) (code : Nat),
    (1 ≤ code → code ≤ 0x0B → s.otherCommand code = s) ∧
    (s.dev.recovery = false → code = 0 ∨ 0x0B < code → s.otherCommand code = s.answerCmd 1)) ∧
  ∀ f g : Firmware, f.granules = g.granules → f.svn < 2 ^ 64 → g.svn < 2 ^ 64 → fwContents f = fwContents g →
    f.svn = g.svn ∧ f.body = g.body

/-- DERIVED (R48, R99, R100, R102, R103, R106, R107, R312): the GRO files that LOAD_IMAGE reads. A file whose header breaks
R99, whose table offset is not a multiple of 8, a table of which reaches past the end of the file, or whose string table does
not begin with NUL, or a kernel descriptor of which has a reserved byte that is not zero, is malformed (reason 1, log entry
62); so is one in which a table or a section's contents overlap another, or the header (log entry 88). A symbol's final
address is its offset in its section's window or addresses, or its value. ABS64 writes S + A into eight bytes and changes no
other; LIT64 and LO32 are refused where the value fails its check. A page's leaf has the fields of its request, with AC and DY
zero, and takes the frame that the runtime gives; its window is as long as its routines ask and its section needs. -/
def Obligations.ObjectFiles : Prop :=
  (∀ (r : ImageReq) (gm : Nat → Nat),
    (r.file.length < 64 ∨ gnum r.file 0 4 ≠ 0x004F5247 ∨ gnum r.file 4 2 ≠ 1 ∨ gnum r.file 6 2 ≠ 2 ∨ gnum r.file 0x2C 4 = 0 ∨
        65519 < gnum r.file 0x1C 2 ∨ gnum r.file 0x3C 4 ≠ 0 →
      groLoad r gm = .error 1) ∧
    (∀ o, o ∈ ([0x18, 0x20, 0x28, 0x30, 0x38] : List Nat) → gnum r.file o 4 % 8 ≠ 0 → groLoad r gm = .error 1) ∧
    (∀ x ∈ groRanges r.file, x.2 ≠ 0 → r.file.length < x.1 + x.2 → groLoad r gm = .error 1) ∧
    ((groOf r.file).strs.head? ≠ some 0#8 → groLoad r gm = .error 1) ∧
    (apart (groRanges r.file) = false → groLoad r gm = .error 1) ∧
    (∀ d ∈ (groOf r.file).descs, dtype d = 1 →
      (∃ i, ((i = 0x03 ∨ i = 0x11 ∨ (0x34 ≤ i ∧ i < 0x38) ∨ (0x48 ≤ i ∧ i < 0x60)) ∧ d.getD i 0#8 ≠ 0#8)) →
        groLoad r gm = .error 1)) ∧
  (∀ (g : Gro) (ws : List (Nat × Nat × Nat)) (y : GSym),
    ((∀ w ∈ ws, w.1 ≠ y.sect) → g.sects[y.sect]? = none → g.symAddr ws y = y.value) ∧
    (∀ x, (∀ w ∈ ws, w.1 ≠ y.sect) → g.sects[y.sect]? = some x → g.symAddr ws y = x.va + y.value) ∧
    ∀ base n, ws = [(y.sect, base, n)] → g.symAddr ws y = base + y.value) ∧
  (∀ (b : List Byte) (r : GRel) (v : Int),
    (r.type = 1 →
      (b.length < r.off + 8 → relocate b r v = none) ∧
      (r.off + 8 ≤ b.length → ∃ e, relocate b r v = some e ∧ e.length = b.length ∧ (gnum e r.off 8 : Int) = v % 2 ^ 64 ∧
        ∀ i, i < r.off ∨ r.off + 8 ≤ i → e[i]? = b[i]?)) ∧
    (r.type = 2 → v < 0 ∨ 2 ^ 57 ≤ v → relocate b r v = none) ∧
    (r.type = 3 → v < 0 ∨ 2 ^ 32 ≤ v → relocate b r v = none) ∧
    ((r.type = 2 ∨ r.type = 3) → litAt b r.off = none → relocate b r v = none)) ∧
  (∀ (d : List Byte) (partid : Nat) (va size fa : Nat), gnum d 2 1 ≤ 8 → gnum d 3 1 ≤ 11 → gnum d 8 1 ≤ 3 → gnum d 9 1 ≤ 3 →
    gnum d 0x0A 2 < 1024 → gnum d 0x0C 1 < 32 → partid < 256 → fa % 65536 = 0 → fa < 2 ^ 52 →
    let p : PageReq := { va := va, size := size, leaf := reqLeaf d partid ||| BitVec.ofNat 128 fa }
    let l := pageLeaf p
    l.frame = fa ∧ l.home = gnum d 9 1 ∧ l.homeloc = gnum d 0x0A 2 ∧ l.fmt = gnum d 2 1 ∧
      l.scl * 4 + l.blk = gnum d 3 1 ∧ l.ilv = gnum d 8 1 ∧ l.partid = partid ∧ l.fld 111 96 = gnum d 0x0E 2 ∧
      l.bit 0 = true ∧ (∀ i, i < 5 → l.bit (i + 1) = (gnum d 0x0C 1).testBit i) ∧ l.bit 6 = false ∧ l.bit 7 = false ∧
      l.bit 8 = false ∧ l.va = va ∧ l.size = size) ∧
  (∀ (g : Gro) (i : Nat) (x : GSect) (base : Nat), g.sects[i]? = some x → x.bytes.length ≤ x.size →
    x.size ≤ g.windowSize i ∧ (g.windowBytes (i, base, g.windowSize i)).length = g.windowSize i ∧
      ∀ d ∈ g.descs, dtype d = 2 → gnum d 0x0E 2 = i → gnum d 0x14 4 ≤ 65536 → gnum d 0x14 4 ≤ g.windowSize i)

/-- DERIVED (R296, R338; the table's numbering is log entry 27): SCRUB of a frame of whole 64-KiB units, apart from every
frame not yet done, where the table of its stack or scratchpad has an entry for each unit: each sector's bit is set, every
byte of the frame reads as zero, the registrations, lines and marks of its words are gone, and no other byte changes.
SCRUB_SECTOR zero-fills a sector whose bit is set, which changes no byte's value, and clears the bit, whatever the system does
about it; a unit's entry is free with its last bit, and the last entry of a frame sends SCRUB_DONE, which is written to the
ring of the device queue, or counted where there is none. -/
def Obligations.Scrubs : Prop :=
  (∀ (s : State) (pa units : Nat), s.dev.recovery = false →
    let used := s.dev.frames.flatMap Prod.snd
    let asks := (List.range units).map fun i => pa + 65536 * i
    (scrubFrame pa units = false → Machine.exec (.scrub pa units) s = .next (s.answerCmd 3)) ∧
    (scrubFrame pa units = true → s.scrubEntries used asks = none →
      Machine.exec (.scrub pa units) s = .next (s.answerCmd 2)) ∧
    (scrubFrame pa units = true → (∃ u ∈ used, pa ≤ u.2 ∧ u.2 < pa + 65536 * units) →
      Machine.exec (.scrub pa units) s = .next (s.answerCmd 2)) ∧
    (∀ us, scrubFrame pa units = true → s.scrubEntries used asks = some us →
      (∀ u ∈ used, u.2 < pa ∨ pa + 65536 * units ≤ u.2) →
      us.map Prod.snd = asks ∧
      (∀ u ∈ us, u.1 < (s.scrubTable u.2).2 ∧
        ∀ v ∈ used, (s.scrubTable v.2).1 = (s.scrubTable u.2).1 → v.1 ≠ u.1) ∧
      ∃ t : State, Machine.exec (.scrub pa units) s = .next t ∧ t.dev.status = 0 ∧
        t.dev.frames = s.dev.frames ++ [((us.headD (0, 0)).1, us)] ∧ t.mem = s.mem ∧ t.groups = s.groups ∧
        (∀ a, pa ≤ a → a < pa + 65536 * units → t.byte a = 0#8) ∧
        (∀ a, a < pa ∨ pa + 65536 * units ≤ a → t.byte a = s.byte a) ∧
        (∀ ha, pa ≤ paOf ha → paOf ha < pa + 65536 * units →
          t.ownerOf ha = none ∧ t.isLost ha = false ∧ t.isBad ha = false ∧ mfind ha t.caches.l2 = none ∧
            ∀ core, ha < 2 ^ 64 → t.l1 core ha = none))) ∧
  (∀ (s : State) (unit sector : Nat),
    (1024 ≤ sector → Machine.exec (.scrubSector unit sector) s = .next s) ∧
    (sector < 1024 → s.pending (unit * 65536 + 64 * sector) = true →
      let pa := unit * 65536 + 64 * sector
      let u := s.settle pa
      let fs := s.dev.frames.map fun f => (f.1, f.2.filter fun x => u.scrubs.any fun p => inFrame x.2 65536 p.1)
      u.pending pa = false ∧ { u with mem := s.mem, scrubs := s.scrubs } = s ∧ (∀ a, u.byte a = s.byte a) ∧
      (∀ a, sectorOf a ≠ sectorOf pa → u.pending a = s.pending a) ∧
      ∃ t : State, Machine.exec (.scrubSector unit sector) s = .next t ∧
        t = (fs.filter fun f => f.2.isEmpty).foldl (fun v f => v.deviceEvent 0x19 f.1 0)
          { u with dev := { s.dev with frames := fs.filter fun f => !f.2.isEmpty } } ∧
        t.pending pa = false ∧ t.dev.frames = (fs.filter fun f => !f.2.isEmpty) ∧ t.groups = s.groups ∧ t.teams = s.teams ∧
        ((∀ f ∈ fs, f.2 ≠ []) ∨ s.dev.devq = none → ∀ a, t.byte a = s.byte a)))

/-! ### The whole machine -/

/-- DERIVED (the form of memory, log entry 4; R286): a step keeps memory in its canonical form: addresses strictly rising,
no entry that an unlisted address reads as. -/
def Obligations.MemoryInvariant : Prop :=
  ∀ s t : State, s.Inv → Machine.step s = .next t → t.Inv

/-- DERIVED (R128, R130, R132, R139, R145, R287, R296): the operations over memory that the instructions share. A byte written
is read, and no other changes; a word written under a mask keeps its other bytes (zero bytes where the word held an error that
cannot be corrected, log entry 71); a write at a home is read there, and leaves the word unregistered and unmarked; a
write-back of a word of plain memory changes no home's value. Each keeps memory's form. -/
def Obligations.MemoryOperations : Prop :=
  (∀ (s : State) (pa a : Nat) (b : Byte), (s.putByte pa b).byte a = if a = pa then b else s.byte a) ∧
  (∀ (s : State) (pa a : Nat) (bs : List Byte), (s.putBytes pa bs).byte a =
    if pa ≤ a ∧ a < pa + bs.length then bs.getD (a - pa) 0#8 else s.byte a) ∧
  (∀ (s : State) (a : Nat) (m : BitVec 4) (w : Word), isWindow a = false →
    (s.putWord a m w).ctlWord a = mergeBytes m w (if s.isBad a then 0#32 else s.ctlWord a) ∧
      (s.putWord a m w).isBad a = false ∧ ∀ x, x < a ∨ a + 4 ≤ x → (s.putWord a m w).byte x = s.byte x) ∧
  (∀ (s : State) (ha : Nat) (m : BitVec 4) (w : Word), s.down ha = false → s.cutWord ha = false →
    (s.homeWrite ha m w).homeRead ha = .word (mergeBytes m w ((s.revoke ha).mergeOld ha)) ∧
      (s.homeWrite ha 15#4 w).homeRead ha = .word w ∧ (s.homeWrite ha m w).ownerOf ha = none ∧
      (s.homeWrite ha m w).isLost ha = false ∧
      ∀ x, (s.homeWrite ha m w).byte x = s.byte x) ∧
  (∀ (s : State) (ha : Nat), s.plain (paOf ha) → s.pending (paOf ha) = false →
    (s.writeBack ha).homeRead ha = s.homeRead ha) ∧
  (∀ (s : State) (pa : Nat) (bs : List Byte) (m : BitVec 4) (w : Word), s.Inv →
    (s.settle pa).Inv ∧ (s.putBytes pa bs).Inv ∧ (s.putWord pa m w).Inv ∧ (s.ctlWrite pa m w).Inv ∧
      (s.homeWrite pa m w).Inv ∧ (s.writeBack pa).Inv)

/-- DERIVED (R287, R305, R311, R325, R327, R328, R343): what reset leaves. The manual gives: every partition entry zero, TPER
100, ALLOW 2,048 and WDOG 2^24 for every tenant, the default granule table, the node number 0xFFFF, an empty import table, the
window length 4,096 ns, every accumulator fresh with the null tag. The rest is the model's (log entry 5, which says so of each):
no team, group, queue, launch or image; no L1, registry, L2 or TLB entry, no pending scrub, no memory listed; not synchronised,
every die up, no unit spared, so every row of a lane set there, keyed queues disabled, device time 0; and what memory reads as
where nothing is listed (log entry 4). Memory has its canonical form. -/
def Obligations.ResetMachine : Prop :=
  State.reset.Inv ∧ State.reset.groups = [] ∧ State.reset.teams = [] ∧ State.reset.queues = [] ∧ State.reset.launches = [] ∧
  State.reset.dev.images = [] ∧ State.reset.caches = {} ∧ State.reset.scrubs = [] ∧ State.reset.mem = [] ∧
  (∀ p, State.reset.part p = 0) ∧ (∀ p, partEn (State.reset.part p) = false) ∧ (∀ die, State.reset.tperNs die = 100000) ∧
  (∀ die tenant, State.reset.allowOf die tenant = 2048) ∧ (∀ t, State.reset.wdogOf t = 2 ^ 24) ∧
  State.reset.dev.node = 0xFFFF#16 ∧ State.reset.dev.imports = [] ∧ State.reset.dev.wlen = 4096 ∧ State.reset.dev.sync = 2 ∧
  (∀ die, State.reset.dieReset die = false) ∧ (∀ k u, State.reset.sparedUnit k u = false) ∧
  (∀ core ls, State.reset.laneRows core ls = 384) ∧ (∀ g, State.reset.gmode g = gmodeDefault g) ∧
  (∀ core u p, State.reset.acc core u p = .fresh nullTag none) ∧ (∀ a, State.reset.byte a = memDefault) ∧
  State.reset.dev.time = 0 ∧ ∀ n, (State.reset.kq n).en = false
end

