-- ==== Sys2Proof/Laws/Maps.lean ====
section
/-!
SUPPORT. The laws of sparse maps: reading after writing, and canonical forms.
-/

namespace Sys2Proof.Machine

variable {α : Type}

@[simp] theorem mfind_nil (k : Nat) : mfind k ([] : Map α) = none := rfl
theorem mfind_cons (k j : Nat) (v : α) (m : Map α) : mfind k ((j, v) :: m) = if j = k then some v else mfind k m := rfl
@[simp] theorem mget_nil (d : α) (k : Nat) : mget d [] k = d := rfl

@[simp] theorem mfind_mset_same (k : Nat) (v : α) (m : Map α) : mfind k (mset k v m) = some v := by
  induction m with
  | nil => simp [mset, mfind]
  | cons p m ih =>
    obtain ⟨j, w⟩ := p
    simp only [mset]
    split
    · simp [mfind]
    · split
      · simp [mfind]
      · rename_i h
        simp [mfind, h, ih]

theorem mfind_mset_other {k j : Nat} (h : j ≠ k) (v : α) (m : Map α) : mfind j (mset k v m) = mfind j m := by
  induction m with
  | nil => simp [mset, mfind, Ne.symm h]
  | cons p m ih =>
    obtain ⟨i, w⟩ := p
    simp only [mset]
    split
    · simp [mfind, Ne.symm h]
    · split
      · rename_i e
        simp [mfind, e, Ne.symm h]
      · simp [mfind, ih]

theorem mfind_mset (k j : Nat) (v : α) (m : Map α) : mfind j (mset k v m) = if j = k then some v else mfind j m := by
  split
  · next h => subst h; exact mfind_mset_same j v m
  · next h => exact mfind_mset_other h v m

theorem mfind_mdel (k j : Nat) (m : Map α) : mfind j (mdel k m) = if j = k then none else mfind j m := by
  induction m with
  | nil => simp [mdel, mfind]
  | cons p m ih =>
    obtain ⟨i, w⟩ := p
    have : mdel k ((i, w) :: m) = if i = k then mdel k m else (i, w) :: mdel k m := by
      by_cases h : i = k <;> simp [mdel, h]
    rw [this]
    by_cases h : i = k
    · subst h
      by_cases e : j = i
      · subst e
        simpa using ih
      · simp [mfind, ih, e, Ne.symm e]
    · by_cases e : j = k
      · subst e
        simp_all [mfind]
      · simp [mfind, ih, e, h]

theorem mget_mset (d : α) (k j : Nat) (v : α) (m : Map α) : mget d (mset k v m) j = if j = k then v else mget d m j := by
  unfold mget; rw [mfind_mset]; split <;> rfl

theorem mget_mdel (d : α) (k j : Nat) (m : Map α) : mget d (mdel k m) j = if j = k then d else mget d m j := by
  unfold mget; rw [mfind_mdel]; split <;> rfl

theorem mget_mput [DecidableEq α] (d : α) (m : Map α) (k j : Nat) (v : α) :
    mget d (mput d m k v) j = if j = k then v else mget d m j := by
  unfold mput
  split
  · next h => rw [mget_mdel, h]
  · exact mget_mset d k j v m

@[simp] theorem mget_mset_same (d : α) (k : Nat) (v : α) (m : Map α) : mget d (mset k v m) k = v := by simp [mget_mset]
@[simp] theorem mget_mput_same [DecidableEq α] (d : α) (m : Map α) (k : Nat) (v : α) : mget d (mput d m k v) k = v := by
  simp [mget_mput]

/-! ### Writing several keys -/

/-- Writing one value per element of a list, under a key that tells the elements apart. -/
theorem mget_foldl_mput [DecidableEq α] {β : Type} (d : α) (key : β → Nat) (val : β → α) (j : Nat) :
    ∀ (ls : List β) (m : Map α), (∀ x ∈ ls, ∀ y ∈ ls, key x = key y → val x = val y) →
      mget d (ls.foldl (fun m x => mput d m (key x) (val x)) m) j =
        match ls.find? fun x => key x == j with
        | some x => val x
        | none => mget d m j := by
  intro ls
  induction ls with
  | nil => intro m _; rfl
  | cons x xs ih =>
    intro m h
    rw [List.foldl_cons, ih _ fun a ha b hb => h a (List.mem_cons_of_mem x ha) b (List.mem_cons_of_mem x hb)]
    by_cases e : key x = j
    · have hx : ((x :: xs).find? fun x => key x == j) = some x := by simp [List.find?, e]
      rw [hx]
      cases hf : xs.find? fun x => key x == j with
      | none => simp [e]
      | some y =>
        have hy := List.find?_some hf
        have hm := List.mem_of_find?_eq_some hf
        simp only [beq_iff_eq] at hy
        exact h y (List.mem_cons_of_mem x hm) x (List.mem_cons_self) (by rw [hy, e])
    · have hx : ((x :: xs).find? fun x => key x == j) = xs.find? fun x => key x == j := List.find?_cons_of_neg (by simpa using e)
      rw [hx]
      cases hf : xs.find? fun x => key x == j with
      | none => simp [mget_mput, Ne.symm e]
      | some y => rfl

/-! ### Canonical forms -/

/-- Every key of a map is above a bound. -/
def mabove (n : Nat) (m : Map α) : Prop := ∀ p ∈ m, n < p.1

theorem msorted_cons (k : Nat) (v : α) (m : Map α) : msorted ((k, v) :: m) = true ↔ mabove k m ∧ msorted m = true := by
  induction m generalizing k v with
  | nil => simp [msorted, mabove]
  | cons p m ih =>
    obtain ⟨j, w⟩ := p
    simp only [msorted, Bool.and_eq_true, decide_eq_true_eq]
    constructor
    · rintro ⟨h, hs⟩
      refine ⟨?_, hs⟩
      intro q hq
      rcases List.mem_cons.1 hq with rfl | hq
      · exact h
      · exact Nat.lt_trans h (((ih j w).1 hs).1 q hq)
    · rintro ⟨h, hs⟩
      exact ⟨h (j, w) (List.mem_cons_self), hs⟩

theorem mabove_mset {n k : Nat} (h : n < k) (v : α) {m : Map α} (hm : mabove n m) : mabove n (mset k v m) := by
  induction m with
  | nil => intro p hp; simp [mset] at hp; subst hp; exact h
  | cons p m ih =>
    obtain ⟨j, w⟩ := p
    have hj := hm (j, w) (List.mem_cons_self)
    have hr : mabove n m := fun q hq => hm q (List.mem_cons_of_mem _ hq)
    simp only [mset]
    split
    · intro q hq
      rcases List.mem_cons.1 hq with rfl | hq
      · exact h
      · exact hm q hq
    · split
      · intro q hq
        rcases List.mem_cons.1 hq with rfl | hq
        · exact h
        · exact hr q hq
      · intro q hq
        rcases List.mem_cons.1 hq with rfl | hq
        · exact hj
        · exact ih hr q hq

theorem msorted_mset (k : Nat) (v : α) {m : Map α} (h : msorted m = true) : msorted (mset k v m) = true := by
  induction m with
  | nil => rfl
  | cons p m ih =>
    obtain ⟨j, w⟩ := p
    obtain ⟨ha, hs⟩ := (msorted_cons j w m).1 h
    simp only [mset]
    split
    · next hk =>
      refine (msorted_cons _ _ _).2 ⟨?_, h⟩
      intro q hq
      rcases List.mem_cons.1 hq with rfl | hq
      · exact hk
      · exact Nat.lt_trans hk (ha q hq)
    · split
      · next e => subst e; exact (msorted_cons _ _ _).2 ⟨ha, hs⟩
      · next hk e => exact (msorted_cons _ _ _).2 ⟨mabove_mset (by omega) v ha, ih hs⟩

theorem msorted_filter (p : Nat × α → Bool) {m : Map α} (h : msorted m = true) : msorted (m.filter p) = true := by
  induction m with
  | nil => rfl
  | cons q m ih =>
    obtain ⟨j, w⟩ := q
    obtain ⟨ha, hs⟩ := (msorted_cons j w m).1 h
    by_cases e : p (j, w) = true
    · simp only [List.filter_cons, e, if_true]
      exact (msorted_cons _ _ _).2 ⟨fun q hq => ha q ((List.mem_filter.1 hq).1), ih hs⟩
    · simpa [List.filter_cons, e] using ih hs

theorem mem_mset {k : Nat} {v : α} {m : Map α} {p : Nat × α} (h : p ∈ mset k v m) : p = (k, v) ∨ p ∈ m := by
  induction m with
  | nil => simpa [mset] using h
  | cons q m ih =>
    obtain ⟨j, w⟩ := q
    simp only [mset] at h
    split at h
    · simpa using h
    · split at h
      · rcases List.mem_cons.1 h with h | h
        · exact .inl h
        · exact .inr (List.mem_cons_of_mem _ h)
      · rcases List.mem_cons.1 h with h | h
        · exact .inr (h ▸ List.mem_cons_self)
        · exact (ih h).imp id (List.mem_cons_of_mem _)

/-- A write keeps the canonical form. -/
theorem mcanon_mput [DecidableEq α] (d : α) {m : Map α} (k : Nat) (v : α) (h : mcanon d m = true) :
    mcanon d (mput d m k v) = true := by
  simp only [mcanon, Bool.and_eq_true, List.all_eq_true] at h ⊢
  unfold mput
  split
  · exact ⟨msorted_filter _ h.1, fun p hp => h.2 p ((List.mem_filter.1 hp).1)⟩
  · next hv =>
    refine ⟨msorted_mset k v h.1, fun p hp => ?_⟩
    rcases mem_mset hp with rfl | hp
    · simpa using hv
    · exact h.2 p hp

theorem mcanon_mdel [DecidableEq α] (d : α) {m : Map α} (k : Nat) (h : mcanon d m = true) : mcanon d (mdel k m) = true := by
  simp only [mcanon, Bool.and_eq_true, List.all_eq_true] at h ⊢
  exact ⟨msorted_filter _ h.1, fun p hp => h.2 p ((List.mem_filter.1 hp).1)⟩

/-- Equal readings of maps in canonical form are equal maps. -/
theorem mcanon_ext [DecidableEq α] (d : α) {m n : Map α} (hm : mcanon d m = true) (hn : mcanon d n = true)
    (h : ∀ k, mget d m k = mget d n k) : m = n := by
  induction m generalizing n with
  | nil =>
    cases n with
    | nil => rfl
    | cons p n =>
      obtain ⟨j, w⟩ := p
      have := h j
      simp only [mcanon, List.all_cons, Bool.and_eq_true] at hn
      simp [mget, mfind] at this
      simp [this] at hn
  | cons p m ih =>
    obtain ⟨i, v⟩ := p
    cases n with
    | nil =>
      have := h i
      simp only [mcanon, List.all_cons, Bool.and_eq_true] at hm
      simp [mget, mfind] at this
      simp [this] at hm
    | cons q n =>
      obtain ⟨j, w⟩ := q
      simp only [mcanon, List.all_cons, Bool.and_eq_true, List.all_eq_true] at hm hn
      obtain ⟨ai, si⟩ := (msorted_cons i v m).1 hm.1
      obtain ⟨aj, sj⟩ := (msorted_cons j w n).1 hn.1
      have low : ∀ {k : Nat} {m : Map α}, mabove k m → ∀ i ≤ k, mfind i m = none := by
        intro k m
        induction m with
        | nil => intros; rfl
        | cons p m ih =>
          intro ha i hi
          have h1 := ha p (List.mem_cons_self)
          have : ¬ p.1 = i := by omega
          simp [mfind, this]
          exact ih (fun q hq => ha q (List.mem_cons_of_mem _ hq)) i hi
      have hij : i = j := by
        rcases Nat.lt_trichotomy i j with hlt | rfl | hlt
        · have := h i
          simp [mget, mfind, low aj i (by omega), show ¬ j = i by omega] at this
          simp [this] at hm
        · rfl
        · have := h j
          simp [mget, mfind, low ai j (by omega), show ¬ i = j by omega] at this
          simp [← this] at hn
      subst hij
      have hvw : v = w := by simpa [mget, mfind] using h i
      subst hvw
      congr 1
      refine ih (by simp only [mcanon, Bool.and_eq_true, List.all_eq_true]; exact ⟨si, hm.2.2⟩)
        (by simp only [mcanon, Bool.and_eq_true, List.all_eq_true]; exact ⟨sj, hn.2.2⟩) fun k => ?_
      by_cases e : i = k
      · subst e
        simp [mget, low ai i (Nat.le_refl i), low aj i (Nat.le_refl i)]
      · simpa [mget, mfind, e] using h k

end Sys2Proof.Machine
end

