-- ==== Sys2Proof/Laws/State.lean ====
section
/-!
SUPPORT. What each named update of a state and of a group changes, field by field.
-/

namespace Sys2Proof.Machine

/-! ### Groups of a state -/

@[simp] theorem State.setGroup_groups (s : State) (k : Nat) (g : Group) : (s.setGroup k g).groups = mset k g s.groups := rfl
@[simp] theorem State.setGroup_cur (s : State) (k : Nat) (g : Group) : (s.setGroup k g).cur = s.cur := rfl
@[simp] theorem State.setGroup_teams (s : State) (k : Nat) (g : Group) : (s.setGroup k g).teams = s.teams := rfl
@[simp] theorem State.setGroup_gangs (s : State) (k : Nat) (g : Group) : (s.setGroup k g).gangs = s.gangs := rfl
@[simp] theorem State.setGroup_accs (s : State) (k : Nat) (g : Group) : (s.setGroup k g).accs = s.accs := rfl
@[simp] theorem State.setGroup_sysImages (s : State) (k : Nat) (g : Group) : (s.setGroup k g).sysImages = s.sysImages := rfl
@[simp] theorem State.setGroup_sfu (s : State) (k : Nat) (g : Group) : (s.setGroup k g).sfu = s.sfu := rfl
@[simp] theorem State.setGroup_mem (s : State) (k : Nat) (g : Group) : (s.setGroup k g).mem = s.mem := rfl
@[simp] theorem State.setGroup_scrubs (s : State) (k : Nat) (g : Group) : (s.setGroup k g).scrubs = s.scrubs := rfl
@[simp] theorem State.setGroup_caches (s : State) (k : Nat) (g : Group) : (s.setGroup k g).caches = s.caches := rfl
@[simp] theorem State.setGroup_kqs (s : State) (k : Nat) (g : Group) : (s.setGroup k g).kqs = s.kqs := rfl
@[simp] theorem State.setGroup_queues (s : State) (k : Nat) (g : Group) : (s.setGroup k g).queues = s.queues := rfl
@[simp] theorem State.setGroup_launches (s : State) (k : Nat) (g : Group) : (s.setGroup k g).launches = s.launches := rfl
@[simp] theorem State.setGroup_engines (s : State) (k : Nat) (g : Group) : (s.setGroup k g).engines = s.engines := rfl
@[simp] theorem State.setGroup_dev (s : State) (k : Nat) (g : Group) : (s.setGroup k g).dev = s.dev := rfl
@[simp] theorem State.setGroup_tick (s : State) (k : Nat) (g : Group) : (s.setGroup k g).tick = s.tick := rfl
@[simp] theorem State.setGroup_nextId (s : State) (k : Nat) (g : Group) : (s.setGroup k g).nextId = s.nextId := rfl
@[simp] theorem State.setGroup_teamOf (s : State) (k : Nat) (g : Group) (j : Nat) : (s.setGroup k g).teamOf j = s.teamOf j :=
  rfl
@[simp] theorem State.setGroup_coreOf (s : State) (k : Nat) (g : Group) (j : Nat) : (s.setGroup k g).coreOf j = s.coreOf j :=
  rfl

@[simp] theorem State.group_setGroup (s : State) (k : Nat) (g : Group) : (s.setGroup k g).group k = g := by
  simp [State.group, State.setGroup]

theorem State.group_setGroup_other (s : State) {k j : Nat} (h : j ≠ k) (g : Group) : (s.setGroup k g).group j = s.group j := by
  simp [State.group, State.setGroup, mget_mset, h]

/-- The last write of a key stands. -/
theorem mset_mset {α : Type} (k : Nat) (v w : α) (m : Map α) : mset k w (mset k v m) = mset k w m := by
  induction m with
  | nil => simp [mset]
  | cons p m ih =>
    obtain ⟨j, x⟩ := p
    simp only [mset]
    split
    · simp [mset]
    · split
      · simp [mset]
      · rename_i a b
        simp [mset, a, b, ih]

@[simp] theorem State.setGroup_setGroup (s : State) (k : Nat) (g h : Group) :
    (s.setGroup k g).setGroup k h = s.setGroup k h := by
  simp [State.setGroup, mset_mset]

theorem State.updGroup_eq (s : State) (k : Nat) (f : Group → Group) : s.updGroup k f = s.setGroup k (f (s.group k)) := rfl
@[simp] theorem State.group_updGroup (s : State) (k : Nat) (f : Group → Group) : (s.updGroup k f).group k = f (s.group k) := by
  simp [State.updGroup]
@[simp] theorem State.updGroup_setGroup (s : State) (k : Nat) (g : Group) (f : Group → Group) :
    (s.setGroup k g).updGroup k f = s.setGroup k (f g) := by
  simp [State.updGroup]
@[simp] theorem State.setGroup_updGroup (s : State) (k : Nat) (g : Group) (f : Group → Group) :
    (s.updGroup k f).setGroup k g = s.setGroup k g := by
  simp [State.updGroup]
@[simp] theorem State.updGroup_mem (s : State) (k : Nat) (f : Group → Group) : (s.updGroup k f).mem = s.mem := rfl
@[simp] theorem State.updGroup_teamOf (s : State) (k : Nat) (f : Group → Group) (j : Nat) :
    (s.updGroup k f).teamOf j = s.teamOf j := rfl
@[simp] theorem State.updGroup_coreOf (s : State) (k : Nat) (f : Group → Group) (j : Nat) :
    (s.updGroup k f).coreOf j = s.coreOf j := rfl
@[simp] theorem State.updGroup_cur (s : State) (k : Nat) (f : Group → Group) : (s.updGroup k f).cur = s.cur := rfl
@[simp] theorem State.updGroup_dev (s : State) (k : Nat) (f : Group → Group) : (s.updGroup k f).dev = s.dev := rfl
@[simp] theorem State.updGroup_caches (s : State) (k : Nat) (f : Group → Group) : (s.updGroup k f).caches = s.caches := rfl
@[simp] theorem State.updGroup_sfu (s : State) (k : Nat) (f : Group → Group) : (s.updGroup k f).sfu = s.sfu := rfl

/-! ### Teams -/

@[simp] theorem State.setTeam_groups (s : State) (c : Nat) (t : Team) : (s.setTeam c t).groups = s.groups := rfl
@[simp] theorem State.setTeam_teams (s : State) (c : Nat) (t : Team) : (s.setTeam c t).teams = mset c t s.teams := rfl
@[simp] theorem State.setTeam_mem (s : State) (c : Nat) (t : Team) : (s.setTeam c t).mem = s.mem := rfl
@[simp] theorem State.setTeam_group (s : State) (c : Nat) (t : Team) (k : Nat) : (s.setTeam c t).group k = s.group k := rfl
@[simp] theorem State.updTeam_groups (s : State) (c : Nat) (f : Team → Team) : (s.updTeam c f).groups = s.groups := rfl
@[simp] theorem State.updTeam_mem (s : State) (c : Nat) (f : Team → Team) : (s.updTeam c f).mem = s.mem := rfl
@[simp] theorem State.updTeam_group (s : State) (c : Nat) (f : Team → Team) (k : Nat) : (s.updTeam c f).group k = s.group k :=
  rfl

/-! ### Accumulators and stalls -/

@[simp] theorem State.setAcc_mem (s : State) (c u p : Nat) (a : Acc) : (s.setAcc c u p a).mem = s.mem := rfl
@[simp] theorem State.setAcc_groups (s : State) (c u p : Nat) (a : Acc) : (s.setAcc c u p a).groups = s.groups := rfl
@[simp] theorem State.acc_setAcc (s : State) (c u p : Nat) (a : Acc) : (s.setAcc c u p a).acc c u p = a := by
  simp [State.acc, State.setAcc]
@[simp] theorem State.stall_mem (s : State) : s.stall.mem = s.mem := rfl
@[simp] theorem State.stall_groups (s : State) : s.stall.groups = s.groups := rfl

/-! ### Registers -/

/-- The key of a register names it. -/
theorem regKey_inj {r l r' l' : Nat} (h : l < 32) (h' : l' < 32) (e : 32 * r + l = 32 * r' + l') : r = r' ∧ l = l' := by
  omega

theorem Group.reg_setReg (g : Group) (r l r' l' : Nat) (w : Word) (h : l < 32) (h' : l' < 32) :
    (g.setReg r l w).reg r' l' = if r' = r ∧ l' = l then w else g.reg r' l' := by
  simp only [Group.reg, Group.setReg, mget_mput]
  by_cases e : r' = r ∧ l' = l
  · simp [e]
  · rw [if_neg e, if_neg]; intro k; exact e (regKey_inj h' h k)

theorem Group.markOf_setReg (g : Group) (r l r' l' : Nat) (w : Word) (h : l < 32) (h' : l' < 32) :
    (g.setReg r l w).markOf r' l' = if r' = r ∧ l' = l then none else g.markOf r' l' := by
  simp only [Group.markOf, Group.setReg, mget_mdel]
  by_cases e : r' = r ∧ l' = l
  · simp [e]
  · rw [if_neg e, if_neg]; intro k; exact e (regKey_inj h' h k)

/-- Writing registers changes the registers and their marks, nothing else. -/
theorem Group.setRegs_rest (g : Group) (r : Nat) (ls : List Nat) (v : Nat → Word) :
    g.setRegs r ls v = { g with regs := (g.setRegs r ls v).regs, marks := (g.setRegs r ls v).marks } := by
  unfold Group.setRegs
  induction ls generalizing g with
  | nil => rfl
  | cons l ls ih => rw [List.foldl_cons, ih]; rfl

theorem Group.reg_setRegs (g : Group) (r : Nat) (ls : List Nat) (v : Nat → Word) (r' l' : Nat) (h' : l' < 32)
    (h : ∀ l ∈ ls, l < 32) : (g.setRegs r ls v).reg r' l' = if r' = r ∧ l' ∈ ls then v l' else g.reg r' l' := by
  unfold Group.setRegs
  induction ls generalizing g with
  | nil => simp
  | cons l ls ih =>
    rw [List.foldl_cons, ih _ fun x hx => h x (List.mem_cons_of_mem l hx), Group.reg_setReg _ _ _ _ _ _ (h l (by simp)) h']
    by_cases a : r' = r <;> by_cases b : l' ∈ ls <;> by_cases c : l' = l <;> simp_all

theorem Group.markOf_setRegs (g : Group) (r : Nat) (ls : List Nat) (v : Nat → Word) (r' l' : Nat) (h' : l' < 32)
    (h : ∀ l ∈ ls, l < 32) : (g.setRegs r ls v).markOf r' l' = if r' = r ∧ l' ∈ ls then none else g.markOf r' l' := by
  unfold Group.setRegs
  induction ls generalizing g with
  | nil => simp
  | cons l ls ih =>
    rw [List.foldl_cons, ih _ fun x hx => h x (List.mem_cons_of_mem l hx), Group.markOf_setReg _ _ _ _ _ _ (h l (by simp)) h']
    by_cases a : r' = r <;> by_cases b : l' ∈ ls <;> by_cases c : l' = l <;> simp_all

@[simp] theorem Group.setRegs_pc (g : Group) (r : Nat) (ls : List Nat) (v : Nat → Word) : (g.setRegs r ls v).pc = g.pc := by
  rw [Group.setRegs_rest]
@[simp] theorem Group.setRegs_park (g : Group) (r : Nat) (ls : List Nat) (v : Nat → Word) :
    (g.setRegs r ls v).park = g.park := by
  rw [Group.setRegs_rest]
@[simp] theorem Group.setRegs_ctl (g : Group) (r : Nat) (ls : List Nat) (v : Nat → Word) : (g.setRegs r ls v).ctl = g.ctl := by
  rw [Group.setRegs_rest]
@[simp] theorem Group.setRegs_pcOf (g : Group) (r : Nat) (ls : List Nat) (v : Nat → Word) (l : Nat) :
    (g.setRegs r ls v).pcOf l = g.pcOf l := by
  simp [Group.pcOf]

/-! ### Program counters -/

@[simp] theorem Group.setPcs_regs (g : Group) (ls : List Nat) (p : Nat → BitVec 64) : (g.setPcs ls p).regs = g.regs := rfl
@[simp] theorem Group.setPcs_marks (g : Group) (ls : List Nat) (p : Nat → BitVec 64) : (g.setPcs ls p).marks = g.marks := rfl
@[simp] theorem Group.setPcs_park (g : Group) (ls : List Nat) (p : Nat → BitVec 64) : (g.setPcs ls p).park = g.park := rfl
@[simp] theorem Group.setPcs_reg (g : Group) (ls : List Nat) (p : Nat → BitVec 64) (r l : Nat) :
    (g.setPcs ls p).reg r l = g.reg r l := rfl
@[simp] theorem Group.setPcs_markOf (g : Group) (ls : List Nat) (p : Nat → BitVec 64) (r l : Nat) :
    (g.setPcs ls p).markOf r l = g.markOf r l := rfl

theorem Group.pcOf_setPcs (g : Group) (ls : List Nat) (p : Nat → BitVec 64) (l : Nat) :
    (g.setPcs ls p).pcOf l = if l ∈ ls then p l else g.pcOf l := by
  simp only [Group.pcOf, Group.setPcs]
  rw [mget_foldl_mput exitedPC (fun l => l) p l ls g.pc (fun x _ y _ h => by rw [show x = y from h])]
  by_cases h : l ∈ ls
  · rw [if_pos h]
    cases hf : ls.find? fun x => x == l with
    | none => exact absurd (List.find?_eq_none.1 hf l h) (by simp)
    | some x => have := List.find?_some hf; simp only [beq_iff_eq] at this; simp [this]
  · rw [if_neg h]
    rw [List.find?_eq_none.2 (fun x hx => by simp; rintro rfl; exact h hx)]

/-- The lanes at the issue PC are lanes of the group. -/
theorem Group.atIssue_lt (g : Group) {l : Nat} (h : l ∈ g.atIssue) : l < 32 := by
  have hl : ∀ l ∈ g.live, l < 32 := fun l h => by
    have := (List.mem_filter.1 h).1
    simpa [allLanes] using this
  have h := (List.mem_filter.1 h).1
  simp only [Group.cand] at h
  split at h
  · exact hl l h
  · exact hl l (List.mem_filter.1 h).1

end Sys2Proof.Machine
end

