-- ==== Sys2Proof/Laws/Issue.lean ====
section
/-!
SUPPORT. What the shared shape of an issue does: once its conditions hold, the body runs in the executing lanes and the
lanes at the issue PC advance; what the register instructions built on it do to their group.
-/

namespace Sys2Proof.Machine

/-! ### The shape of an issue -/

/-- The lanes that execute are at the issue PC. -/
theorem executing_sub {g : Group} {op : Nat} {f : Fields} {l : Nat} (h : l ∈ executing g op f) : l ∈ g.atIssue := by
  unfold executing at h
  split at h
  · exact h
  · exact (List.mem_filter.1 h).1

/-- An executing lane is among those that check 9 goes by. -/
theorem expected_of_executing {g : Group} {op : Nat} {f : Fields} {l : Nat} (h : l ∈ executing g op f) :
    l ∈ expected g op f := by
  unfold executing at h; unfold expected
  split at h
  · rename_i ho; rw [if_pos ho]; exact h
  · rename_i ho
    obtain ⟨ha, hp⟩ := List.mem_filter.1 h
    rw [if_neg ho]
    refine List.mem_filter.2 ⟨ha, ?_⟩
    simp only [passes, Bool.and_eq_true] at hp
    simp [hp.1, hp.2]

/-- Where every guard is ready, check 9 goes by the executing lanes (R25, R28). -/
theorem expected_eq {g : Group} {op : Nat} {f : Fields}
    (h : ∀ l ∈ g.atIssue, ∀ gd ∈ [f.g0, f.g1], g.fullIn gd.reg.toNat [quarter l] = true) :
    expected g op f = executing g op f := by
  unfold expected executing
  split
  · rfl
  · refine List.filter_congr fun l hl => ?_
    have h0 := h l hl f.g0 (by simp)
    have h1 := h l hl f.g1 (by simp)
    simp [passes, h0, h1]

theorem exLanes_lt {s : State} {op : Nat} {f : Fields} {l : Nat} (h : l ∈ s.exLanes op f) : l < 32 :=
  s.g.atIssue_lt (executing_sub h)

variable {s : State} {op : Nat} {f : Fields} {legal : Team → Group → Bool} {fx : Bool}

theorem gate_of_issues (h : Issues s op f legal fx) : gate s s.cur op f legal fx = .go s.g.atIssue (s.exLanes op f) := by
  have hne : (s.group s.cur).atIssue.isEmpty = false := by
    rw [Bool.eq_false_iff]
    intro he
    apply h.lanes
    have : s.g.atIssue = [] := List.isEmpty_iff.1 he
    apply List.eq_nil_iff_forall_not_mem.2
    intro l hl
    have := executing_sub hl
    simp_all
  have hf : checkFields (s.teamOf s.cur) (s.group s.cur) (isPolicy s.cur) op f (legal (s.teamOf s.cur) (s.group s.cur)) =
      none := h.fields
  have hu : unmet (s.group s.cur) op f fx = [] := h.ready
  have hd : dstReady (s.group s.cur) (quartersOf (executing (s.group s.cur) op f)) op f = true := h.dst
  simp only [gate, hne, hf, hu, hd]
  rfl

theorem marks_of_issues (h : Issues s op f legal fx) : markRaises s.g op f fx s.g.atIssue (s.exLanes op f) = [] := by
  apply List.filterMap_eq_nil_iff.2
  intro l hl
  simp [h.marks l hl]

theorem issue_of_issues (h : Issues s op f legal fx) (adv : Bool) (body : State → Nat → List Nat → List Nat → Res) :
    issue op f legal fx adv body s =
      match body s.opened s.cur (s.exLanes op f) (s.exLanes op f) with
      | .wait t => t.stall
      | .trap t rs => (t.pass s.cur (s.excluded op f) (formLen f.form)).takeTrap s.cur rs
      | .done t rs =>
        let ok := (s.exLanes op f).filter fun l => !(rs.map Raised.lane).contains l
        let t := t.pass s.cur (s.excluded op f) (formLen f.form)
        let t := if adv then t.pass s.cur ok (formLen f.form) else t
        t.takeTrap s.cur rs := by
  have hm : markRaises (s.group s.cur) op f fx s.g.atIssue (s.exLanes op f) = [] := marks_of_issues h
  have hr : (s.exLanes op f).isEmpty = false := by
    rw [Bool.eq_false_iff]; intro he; exact h.lanes (List.isEmpty_iff.1 he)
  have hf : (s.exLanes op f).filter (fun _ => true) = s.exLanes op f := List.filter_eq_self.2 fun _ _ => rfl
  simp only [issue, gate_of_issues h, hm]
  simp only [List.map_nil, List.contains_nil, Bool.not_false, Bool.and_true, hf, hr, Bool.false_eq_true, if_false,
    List.nil_append, State.opened, State.excluded] <;> rfl

/-- Nothing raised: no trap. -/
@[simp] theorem takeTrap_nil (s : State) (k : Nat) : s.takeTrap k [] = s := rfl

/-- A body that completes in every executing lane. -/
theorem issue_done (h : Issues s op f legal fx) (adv : Bool) {body : State → Nat → List Nat → List Nat → Res} {t : State}
    (hb : body s.opened s.cur (s.exLanes op f) (s.exLanes op f) = .done t []) :
    issue op f legal fx adv body s =
      if adv then (t.pass s.cur (s.excluded op f) (formLen f.form)).pass s.cur (s.exLanes op f) (formLen f.form)
      else t.pass s.cur (s.excluded op f) (formLen f.form) := by
  rw [issue_of_issues h adv body, hb]
  have : (s.exLanes op f).filter (fun l => !(([] : List Raised).map Raised.lane).contains l) = s.exLanes op f :=
    List.filter_eq_self.2 fun _ _ => rfl
  simp only [this, takeTrap_nil]

theorem issue_wait (h : Issues s op f legal fx) (adv : Bool) {body : State → Nat → List Nat → List Nat → Res} {t : State}
    (hb : body s.opened s.cur (s.exLanes op f) (s.exLanes op f) = .wait t) : issue op f legal fx adv body s = t.stall := by
  rw [issue_of_issues h adv body, hb]

theorem issue_traps (h : Issues s op f legal fx) (adv : Bool) {body : State → Nat → List Nat → List Nat → Res} {t : State}
    {rs : List Raised} (hb : body s.opened s.cur (s.exLanes op f) (s.exLanes op f) = .trap t rs) :
    issue op f legal fx adv body s = (t.pass s.cur (s.excluded op f) (formLen f.form)).takeTrap s.cur rs := by
  rw [issue_of_issues h adv body, hb]

/-! ### Groups after an issue -/

@[simp] theorem Group.unpark_regs (g : Group) : g.unpark.regs = g.regs := by unfold Group.unpark; split <;> rfl
@[simp] theorem Group.unpark_marks (g : Group) : g.unpark.marks = g.marks := by unfold Group.unpark; split <;> rfl
@[simp] theorem Group.unpark_pc (g : Group) : g.unpark.pc = g.pc := by unfold Group.unpark; split <;> rfl
@[simp] theorem Group.unpark_reg (g : Group) (r l : Nat) : g.unpark.reg r l = g.reg r l := by simp [Group.reg]
@[simp] theorem Group.unpark_markOf (g : Group) (r l : Nat) : g.unpark.markOf r l = g.markOf r l := by simp [Group.markOf]
@[simp] theorem Group.unpark_pcOf (g : Group) (l : Nat) : g.unpark.pcOf l = g.pcOf l := by simp [Group.pcOf]
@[simp] theorem Group.unpark_ctl (g : Group) : g.unpark.ctl = g.ctl := by unfold Group.unpark; split <;> rfl
@[simp] theorem Group.unpark_ports (g : Group) : g.unpark.ports = g.ports := by unfold Group.unpark; split <;> rfl
@[simp] theorem Group.unpark_tiles (g : Group) : g.unpark.tiles = g.tiles := by unfold Group.unpark; split <;> rfl
@[simp] theorem Group.unpark_ops (g : Group) : g.unpark.ops = g.ops := by unfold Group.unpark; split <;> rfl
@[simp] theorem Group.unpark_fails (g : Group) : g.unpark.fails = g.fails := by unfold Group.unpark; split <;> rfl
@[simp] theorem Group.unpark_wait (g : Group) : g.unpark.wait = g.wait := by unfold Group.unpark; split <;> rfl
@[simp] theorem Group.unpark_src (g : Group) (ls : List Nat) (r l : Nat) : g.unpark.src ls r l = g.src ls r l := by
  simp [Group.src, Group.port, Group.reg]

theorem Group.unpark_rest (g : Group) : g.unpark = { g with park := g.unpark.park } := by
  unfold Group.unpark; split <;> rfl

/-- Lanes of a list split by a predicate: advancing both parts moves each lane once. -/
theorem pc_split (g : Group) (p : List Nat) (len : Nat) (l : Nat) :
    ((g.setPcs (g.atIssue.filter fun x => !p.contains x) fun x => g.pcOf x + BitVec.ofNat 64 len).setPcs
        (g.atIssue.filter fun x => p.contains x) fun x =>
          (g.setPcs (g.atIssue.filter fun x => !p.contains x) fun x => g.pcOf x + BitVec.ofNat 64 len).pcOf x +
            BitVec.ofNat 64 len).pcOf l = g.nextPc len l := by
  rw [Group.pcOf_setPcs, Group.pcOf_setPcs]
  unfold Group.nextPc
  by_cases h : l ∈ g.atIssue <;> by_cases e : l ∈ p <;> simp [h, e]

/-- The operands that a body reads: those of the group before. -/
theorem opened_rd : (⟨s.opened.group s.cur, s.exLanes op f, s.exLanes op f⟩ : Rd) = ⟨s.g.unpark, s.exLanes op f, s.exLanes op f⟩ := by
  simp [State.opened, State.g]

theorem Rd.a_unpark (g : Group) (e r : List Nat) : (⟨g.unpark, e, r⟩ : Rd).a f = (⟨g, e, r⟩ : Rd).a f := by
  funext l; simp [Rd.a]
theorem Rd.b_unpark (g : Group) (e r : List Nat) : (⟨g.unpark, e, r⟩ : Rd).b op f = (⟨g, e, r⟩ : Rd).b op f := by
  funext l; simp [Rd.b]
theorem Rd.c_unpark (g : Group) (e r : List Nat) : (⟨g.unpark, e, r⟩ : Rd).c f = (⟨g, e, r⟩ : Rd).c f := by
  funext l; simp [Rd.c]

/-- A group whose registers `w` writes from `g`, with the park bits of `g` settled, then the lanes at the issue PC moved
past the instruction. -/
theorem groupStep_of {g h : Group} {ex : List Nat} {len : Nat} {out : Nat → Nat → Option Word}
    (hex : ∀ l, l ∈ ex → l ∈ g.atIssue)
    (regs : ∀ r l, l < 32 → h.reg r l = (out r l).getD (g.reg r l))
    (marks : ∀ r l, l < 32 → h.markOf r l = if (out r l).isSome then none else g.markOf r l)
    (pcs : h.pc = g.pc) (park : h.park = g.unpark.park)
    (rest : { h with regs := g.regs, marks := g.marks, pc := g.pc, park := g.park } = g) :
    GroupStep g ((h.advance (g.atIssue.filter fun l => !ex.contains l) len).advance ex len) out (g.nextPc len) := by
  have hp : ∀ l, h.pcOf l = g.pcOf l := fun l => by simp [Group.pcOf, pcs]
  refine ⟨fun r l hl => regs r l hl, fun r l hl => marks r l hl, fun l => ?_, park, ?_⟩
  · simp only [Group.advance]
    rw [Group.pcOf_setPcs, Group.pcOf_setPcs, hp]
    unfold Group.nextPc
    by_cases e : l ∈ ex
    · simp [e, hex l e]
    · by_cases a : l ∈ g.atIssue <;> simp [e, a]
  · exact rest

/-! ### Register instructions -/

theorem popSources_none (k op : Nat) (f : Fields) (ok : List Nat) (h : queueFed op f = false) (s : State) :
    popSources s k op f ok = s.updGroup k id := by
  simp only [queueFed, Bool.or_eq_false_iff, Bool.and_eq_false_iff] at h
  unfold popSources State.updGroup
  obtain ⟨ha, hb⟩ := h
  by_cases x : (shapeOf op f.sub.toNat).a.isSrc = true
  · have pa : isPort f.a.toNat = false := by simpa [x] using ha
    by_cases y : (bIsReg f && (shapeOf op f.sub.toNat).b.isSrc) = true
    · have pb : isPort f.b.toNat = false := by simp only [Bool.and_eq_true] at y; simpa [y.1, y.2] using hb
      simp [x, y, Group.pop, pa, pb]
    · simp [x, y, Group.pop, pa]
  · by_cases y : (bIsReg f && (shapeOf op f.sub.toNat).b.isSrc) = true
    · have pb : isPort f.b.toNat = false := by simp only [Bool.and_eq_true] at y; simpa [y.1, y.2] using hb
      simp [x, y, Group.pop, pb]
    · simp [x, y]

/-- A body that only changes the current group. -/
theorem issue_group (h : Issues s op f legal fx) {body : State → Nat → List Nat → List Nat → Res} {x : Group}
    (hb : body s.opened s.cur (s.exLanes op f) (s.exLanes op f) = .done (s.setGroup s.cur x) []) :
    issue op f legal fx true body s =
      s.setGroup s.cur ((x.advance (s.excluded op f) (formLen f.form)).advance (s.exLanes op f) (formLen f.form)) := by
  rw [issue_done h true hb]
  simp [State.pass]

/-- The same for a body that moves the PCs of the executing lanes itself. -/
theorem issue_group_stay (h : Issues s op f legal fx) {body : State → Nat → List Nat → List Nat → Res} {x : Group}
    (hb : body s.opened s.cur (s.exLanes op f) (s.exLanes op f) = .done (s.setGroup s.cur x) []) :
    issue op f legal fx false body s = s.setGroup s.cur (x.advance (s.excluded op f) (formLen f.form)) := by
  rw [issue_done h false hb]
  simp [State.pass]

/-- Register writes after the park bits are settled, and the advance of every lane at the issue PC. -/
theorem setRegs_step (d : Nat) (v : Nat → Word) :
    GroupStep s.g (((s.g.unpark.setRegs d (s.exLanes op f) v).advance (s.excluded op f) (formLen f.form)).advance
      (s.exLanes op f) (formLen f.form)) (oneReg d (s.exLanes op f) v) (s.g.nextPc (formLen f.form)) := by
  refine groupStep_of (fun l hl => executing_sub hl) (fun r l hl => ?_) (fun r l hl => ?_) ?_ ?_ ?_
  · rw [Group.reg_setRegs _ _ _ _ _ _ hl fun x hx => exLanes_lt hx]
    simp only [oneReg]
    split <;> simp
  · rw [Group.markOf_setRegs _ _ _ _ _ _ hl fun x hx => exLanes_lt hx]
    simp only [oneReg]
    split <;> simp
  · simp
  · simp
  · rw [Group.setRegs_rest, Group.unpark_rest]

theorem oneReg_none (d : Nat) (v : Nat → Word) : oneReg d [] v = noReg := by
  funext r l; simp [oneReg, noReg]

/-- An instruction that changes no register: the lanes move on. -/
theorem nothing_step :
    GroupStep s.g ((s.g.unpark.advance (s.excluded op f) (formLen f.form)).advance (s.exLanes op f) (formLen f.form)) noReg
      (s.g.nextPc (formLen f.form)) := by
  refine groupStep_of (fun l hl => executing_sub hl) (fun r l _ => by simp [noReg]) (fun r l _ => by simp [noReg]) (by simp)
    rfl ?_
  rw [Group.unpark_rest]

/-- What a register instruction does to its group: D in the executing lanes, and the lanes move on. -/
theorem aluIssue_step {ok : Bool} {v : Rd → Nat → Word} (hv : ∀ g e r, v ⟨Group.unpark g, e, r⟩ = v ⟨g, e, r⟩)
    (h : Issues s op f (fun _ _ => ok) false) (hp : noPorts op f) :
    ∃ g', aluIssue op f ok v s = s.setGroup s.cur g' ∧
      GroupStep s.g g' (oneReg f.d.toNat (s.exLanes op f) (v (s.rd op f))) (s.g.nextPc (formLen f.form)) := by
  refine ⟨_, issue_group h (x := s.g.unpark.setRegs f.d.toNat (s.exLanes op f) (v (s.rd op f))) ?_, setRegs_step _ _⟩
  simp only [writeD, hp.1, hp.2, popSources_none _ _ _ _ hp.1, opened_rd, hv]
  simp only [State.opened, State.updGroup_eq, State.setGroup_setGroup, State.group_setGroup, if_false, Bool.false_eq_true, id]
  rfl

end Sys2Proof.Machine
end

