-- ==== Sys2Proof/Laws/Memory.lean ====
section
/-!
SUPPORT. Memory: every operation over it keeps its canonical form, and what a byte reads as after each.
-/

namespace Sys2Proof.Machine

theorem memPut_wf {m : List Host.Cell} (pa : Nat) (b : Byte) (h : Memory.wf m = true) : Memory.wf (memPut m pa b) = true :=
  mcanon_mput _ pa b h

theorem memPuts_wf (bs : List Byte) : ∀ {m : List Host.Cell} (pa : Nat), Memory.wf m = true → Memory.wf (memPuts m pa bs) = true := by
  induction bs with
  | nil => intro m pa h; exact h
  | cons b bs ih => intro m pa h; exact ih (pa + 1) (memPut_wf pa b h)

theorem memPuts_get (bs : List Byte) : ∀ (m : List Host.Cell) (pa a : Nat),
    mget memDefault (memPuts m pa bs) a =
      if pa ≤ a ∧ a < pa + bs.length then bs.getD (a - pa) 0#8 else mget memDefault m a := by
  induction bs with
  | nil => intro m pa a; simp [memPuts] <;> omega
  | cons b bs ih =>
    intro m pa a
    rw [memPuts, ih, memPut, mget_mput]
    by_cases h1 : a = pa
    · subst h1; simp <;> omega
    · by_cases h2 : pa + 1 ≤ a ∧ a < pa + 1 + bs.length
      · have h3 : pa ≤ a ∧ a < pa + (b :: bs).length := by simp; omega
        rw [if_pos h2, if_pos h3, show a - pa = (a - (pa + 1)) + 1 by omega, List.getD_cons_succ]
      · have h3 : ¬ (pa ≤ a ∧ a < pa + (b :: bs).length) := by simp; omega
        rw [if_neg h2, if_neg h3, if_neg h1]

/-! ### Keeping the form -/

/-- The form is a matter of memory alone. -/
theorem State.inv_of_mem {s t : State} (e : t.mem = s.mem) (h : s.Inv) : t.Inv := by
  unfold State.Inv at *
  rw [e]
  exact h

/-- What a zero-fill leaves in memory comes from memory and the pending bits. -/
theorem State.settle_mem_congr {s t : State} (pa : Nat) (e : t.mem = s.mem) (c : t.scrubs = s.scrubs) :
    (t.settle pa).mem = (s.settle pa).mem := by
  unfold State.settle State.pending
  rw [c]
  split
  · simp only [e]
  · exact e

theorem State.settle_mem (s : State) (pa : Nat) :
    (s.settle pa).mem = if s.pending pa then memPuts s.mem (sectorOf pa) (List.replicate 64 0#8) else s.mem := by
  by_cases hp : s.pending pa = true <;> simp [State.settle, hp]

/-- `settle` changes memory and the pending bits only. -/
theorem State.settle_rest (s : State) (pa : Nat) : { s.settle pa with mem := s.mem, scrubs := s.scrubs } = s := by
  by_cases hp : s.pending pa = true <;> simp [State.settle, hp]

/-- What a grant leaves in memory is what its zero-fill leaves. -/
theorem State.grant_mem (s : State) (core ha : Nat) :
    (s.grant core ha).mem = s.mem ∨
      (s.grant core ha).mem = (((s.revoke ha).setLost ha false).settle (paOf ha)).mem := by
  unfold State.grant
  split
  · split
    · right
      simp only [State.wakeWord, State.mapSlots, State.noteGrant, State.setOwner, State.setL1]
      try exact State.settle_mem_congr _ rfl rfl
    · left; rfl
  · left; rfl

theorem State.settle_inv {s : State} (pa : Nat) (h : s.Inv) : (s.settle pa).Inv := by
  unfold State.Inv at *
  rw [State.settle_mem]
  split
  · exact memPuts_wf _ _ h
  · exact h

theorem State.putByte_inv {s : State} (pa : Nat) (b : Byte) (h : s.Inv) : (s.putByte pa b).Inv :=
  memPut_wf pa b (State.settle_inv pa h)

theorem State.putBytes_inv (bs : List Byte) : ∀ {s : State} (pa : Nat), s.Inv → (s.putBytes pa bs).Inv := by
  induction bs with
  | nil => intro s pa h; exact h
  | cons b bs ih => intro s pa h; exact ih (pa + 1) (State.putByte_inv pa b h)

theorem State.setBad_inv {s : State} (a : Nat) (b : Bool) (h : s.Inv) : (s.setBad a b).Inv :=
  State.inv_of_mem (s := s) rfl h

theorem State.delSlice_inv {s : State} (a : Nat) (h : s.Inv) : (s.delSlice a).Inv := State.inv_of_mem (s := s) rfl h

theorem State.cleanBad_inv {s : State} (a : Nat) (h : s.Inv) : (s.cleanBad a).Inv := by
  unfold State.cleanBad
  split
  · exact State.putBytes_inv _ _ (State.inv_of_mem (s := s) rfl h)
  · exact h

/-- Noting a fence word changes no memory. -/
theorem State.noteFence_mem (s : State) (a : Nat) : (s.noteFence a).mem = s.mem := by unfold State.noteFence; split <;> rfl

theorem State.putWord_inv {s : State} (a : Nat) (m : BitVec 4) (w : Word) (h : s.Inv) : (s.putWord a m w).Inv := by
  have step : ∀ (t : State) (i : Nat), t.Inv →
      (if m.getLsbD i then t.putByte (a + i) (w.extractLsb' (8 * i) 8) else t).Inv := by
    intro t i ht
    split
    · exact State.putByte_inv _ _ ht
    · exact ht
  exact State.inv_of_mem (State.noteFence_mem _ _) (step _ 3 (step _ 2 (step _ 1 (step _ 0 (State.cleanBad_inv a h)))))

/-- A fold of steps that keep the form keeps it. -/
theorem foldl_inv {α : Type} (f : State → α → State) (hf : ∀ s x, s.Inv → (f s x).Inv) (xs : List α) :
    ∀ {s : State}, s.Inv → (xs.foldl f s).Inv := by
  induction xs with
  | nil => intro s h; exact h
  | cons x xs ih => intro s h; exact ih (hf s x h)

theorem State.setQueue_inv {s : State} (qid : Nat) (q : VQueue) (h : s.Inv) : (s.setQueue qid q).Inv :=
  State.inv_of_mem (s := s) rfl h

theorem State.backWord_inv {s : State} (a : Nat) (w : Word) (h : s.Inv) : (s.backWord a w).Inv := by
  unfold State.backWord
  split
  · exact State.putWord_inv _ _ _ h
  · split
    · exact State.setQueue_inv _ _ (State.putWord_inv a 15#4 w h)
    · exact h

theorem State.writeBack_inv {s : State} (ha : Nat) (h : s.Inv) : (s.writeBack ha).Inv := by
  unfold State.writeBack
  split
  · exact State.setBad_inv _ _ (State.backWord_inv _ _ (State.delSlice_inv ha h))
  · exact h

/-- Joining the notes of one write changes no memory. -/
theorem State.joinFences_inv {s : State} (n : Nat) (h : s.Inv) : (s.joinFences n).Inv := State.inv_of_mem (s := s) rfl h

theorem State.clearSlice_inv {s : State} (pa : Nat) (h : s.Inv) : (s.clearSlice pa).Inv :=
  State.joinFences_inv _ (foldl_inv _ (fun _ _ ht => State.writeBack_inv _ ht) _ h)

theorem State.ctlWrite_inv {s : State} (a : Nat) (m : BitVec 4) (w : Word) (h : s.Inv) : (s.ctlWrite a m w).Inv :=
  State.putWord_inv _ _ _ (State.clearSlice_inv a h)

theorem State.setSlice_inv {s : State} (ha : Nat) (w : Word) (h : s.Inv) : (s.setSlice ha w).Inv :=
  State.inv_of_mem (s := s.settle (paOf ha)) rfl (State.settle_inv (paOf ha) h)

/-- An error mark of a slice's word is no memory. -/
theorem State.setSliceErr_inv {s : State} (ha : Nat) (b : Bool) (h : s.Inv) : (s.setSliceErr ha b).Inv :=
  State.inv_of_mem (s := s) rfl h

theorem State.revoke_inv {s : State} (ha : Nat) (h : s.Inv) : (s.revoke ha).Inv := by
  unfold State.revoke
  split
  · exact h
  · dsimp only
    split
    · exact State.inv_of_mem (s := s) rfl h
    · split
      · rename_i w _ _
        have hs := State.setSlice_inv ha w.val (State.inv_of_mem (s := s) (t := s.delOwner ha) rfl h)
        exact State.inv_of_mem rfl hs
      · exact State.inv_of_mem (s := s) rfl h

theorem State.homeWrite_inv {s : State} (ha : Nat) (m : BitVec 4) (w : Word) (h : s.Inv) : (s.homeWrite ha m w).Inv :=
  State.setSlice_inv _ _
    (State.inv_of_mem (s := s.revoke ha) (t := (s.revoke ha).setLost ha false) rfl (State.revoke_inv ha h))

theorem State.mapSlots_inv {s : State} (core : Nat) (f : Slot → Slot) (h : s.Inv) : (s.mapSlots core f).Inv :=
  State.inv_of_mem (s := s) rfl h

theorem State.grant_inv {s : State} (core ha : Nat) (h : s.Inv) : (s.grant core ha).Inv := by
  rcases State.grant_mem s core ha with e | e
  · exact State.inv_of_mem e h
  · have hr := State.inv_of_mem (t := (s.revoke ha).setLost ha false) rfl (State.revoke_inv ha h)
    exact State.inv_of_mem e (State.settle_inv (paOf ha) hr)

theorem State.drainCore_inv {s : State} (core : Nat) (h : s.Inv) : (s.drainCore core).Inv := by
  refine foldl_inv _ (fun t p ht => ?_) _ h
  split
  · exact State.grant_inv _ _ ht
  · exact ht

theorem State.surrender_inv {s : State} (core ha : Nat) (h : s.Inv) : (s.surrender core ha).Inv := by
  have hg := State.grant_inv core ha h
  unfold State.surrender
  dsimp only
  split
  · split
    · rename_i x _ _
      have hd := State.setSlice_inv ha x.val (State.inv_of_mem (t := (s.grant core ha).delOwner ha) rfl hg)
      exact State.inv_of_mem rfl (State.writeBack_inv ha hd)
    · exact hg
  · exact hg

/-- What surrenders a region keeps the form (R139). -/
theorem State.surrenderRegion_inv {s : State} (core : Nat) (w : Who) (base len : Nat) (h : s.Inv) :
    (s.surrenderRegion core w base len).Inv := by
  refine foldl_inv _ (fun t a ht => ?_) _ (foldl_inv _ (fun t a ht => State.surrender_inv core a ht) _ h)
  split
  · exact ht
  · exact State.writeBack_inv a ht

/-! ### Context frames (R316) -/

theorem State.frameWord_inv {s : State} (a : Nat) (w : Word) (h : s.Inv) : (s.frameWord a w).Inv := by
  unfold State.frameWord
  split
  · exact h
  · exact State.homeWrite_inv _ _ _ h

theorem State.frameWrite_inv {s : State} (a : Nat) (bs : List Byte) (h : s.Inv) : (s.frameWrite a bs).Inv :=
  foldl_inv _ (fun _ _ ht => State.frameWord_inv _ _ ht) _ h

theorem State.frameFree_inv {s : State} (a n : Nat) (h : s.Inv) : (s.frameFree a n).Inv :=
  foldl_inv _ (fun _ _ ht => State.frameWord_inv _ _ ht) _ h

theorem State.saveHeader_inv {s : State} (ctx : Nat) (h : s.Inv) : (s.saveHeader ctx).Inv := by
  unfold State.saveHeader
  exact State.frameFree_inv _ _ h

theorem State.saveParts_inv {s : State} (k : Nat) (h : s.Inv) : (s.saveParts k).Inv :=
  foldl_inv _ (fun _ _ ht => State.frameWrite_inv _ _ (State.frameFree_inv _ _ ht)) _ (State.frameFree_inv _ _ h)

theorem State.spillRow_inv {s : State} (k r : Nat) (h : s.Inv) : (s.spillRow k r).Inv := by
  unfold State.spillRow
  exact State.inv_of_mem (State.updGroup_mem ..) (State.frameWrite_inv _ _ (State.frameWrite_inv _ _ h))

/-- The overflow area goes to memory through its words' homes. -/
theorem State.saveOver_inv {s : State} (ctx : Nat) (h : s.Inv) : (s.saveOver ctx).Inv :=
  foldl_inv _ (fun _ _ ht => State.frameWrite_inv _ _ ht) _ h

/-- A tile of a group without a CLASP side goes to the frame. -/
theorem State.spillTile_inv {s : State} (k i : Nat) (hc : (s.group k).wait.clasp = none) (h : s.Inv) :
    (s.spillTile k i).Inv := by
  unfold State.spillTile
  simp only [hc, Option.any_none, Bool.false_eq_true, if_false]
  exact State.inv_of_mem (State.updGroup_mem ..) (State.frameWrite_inv _ _ h)

/-! ### Requests to another device (R148, R325) -/

/-- Stamping a request numbers it and leaves all but its stream. -/
theorem State.stamp_eq (s : State) (fl : Flight) :
    (s.stamp fl).2 = { s with dev := { s.dev with streams := (s.stamp fl).2.dev.streams } } := rfl

theorem State.sendFlight_inv {s : State} (fl : Flight) (h : s.Inv) : (s.sendFlight fl).Inv :=
  State.inv_of_mem (s := s) rfl h

/-! ### What a byte reads as -/

theorem State.pending_settle (s : State) (pa a : Nat) :
    (s.settle pa).pending a = if sectorOf a = sectorOf pa then false else s.pending a := by
  unfold State.settle
  split
  · simp only [State.pending, mget_mdel]
  · rename_i h
    split
    · rename_i e
      simp only [State.pending, e] at h ⊢
      simpa using h
    · rfl

theorem State.byte_settle (s : State) (pa a : Nat) : (s.settle pa).byte a = s.byte a := by
  unfold State.byte
  rw [State.pending_settle]
  by_cases hp : s.pending pa = true
  · have hm : (s.settle pa).mem = memPuts s.mem (sectorOf pa) (List.replicate 64 0#8) := by
      unfold State.settle; rw [if_pos hp]
    rw [hm, memPuts_get]
    by_cases e : sectorOf a = sectorOf pa
    · have hb : sectorOf pa ≤ a ∧ a < sectorOf pa + (List.replicate 64 (0#8 : Byte)).length := by
        rw [← e]; simp [sectorOf]; omega
      have hs : s.pending a = true := by simp only [State.pending, e] at hp ⊢; exact hp
      rw [if_pos e, if_pos hb, hs]
      have hz : ∀ n i : Nat, (List.replicate n (0#8 : Byte)).getD i 0#8 = 0#8 := by
        intro n i; rw [List.getD_eq_getElem?_getD, List.getElem?_replicate]; split <;> rfl
      simp only [hz, if_true, Bool.false_eq_true, if_false]
    · have hb : ¬ (sectorOf pa ≤ a ∧ a < sectorOf pa + (List.replicate 64 (0#8 : Byte)).length) := by
        simp [sectorOf] at e ⊢; omega
      rw [if_neg e, if_neg hb]
  · have hs : s.settle pa = s := by unfold State.settle; rw [if_neg hp]
    rw [hs]
    by_cases e : sectorOf a = sectorOf pa
    · have : s.pending a = false := by
        simp only [State.pending, e] at hp ⊢; simpa using hp
      rw [if_pos e, this]
    · rw [if_neg e]

theorem State.byte_putByte (s : State) (pa a : Nat) (b : Byte) : (s.putByte pa b).byte a = if a = pa then b else s.byte a := by
  have hb : (s.putByte pa b).byte a =
      if (s.settle pa).pending a then 0#8 else if a = pa then b else mget memDefault (s.settle pa).mem a := by
    show (if (s.settle pa).pending a then 0#8 else mget memDefault (memPut (s.settle pa).mem pa b) a) = _
    rw [memPut, mget_mput]
  rw [hb]
  by_cases e : a = pa
  · subst e; rw [State.pending_settle]; simp
  · rw [if_neg e, if_neg e, ← State.byte_settle s pa a]; rfl

end Sys2Proof.Machine
end

