-- ==== Sys2Proof/Laws/PerInstr.lean ====
section
/-!
SUPPORT. The family Opcode: an instruction of the table's encoded rows has an 8-bit OP and fields, an event row neither
(R60).
-/

open Sys2Proof Sys2Proof.Machine

/-- An encoded row has an OP of 8 bits and fields; an event row has neither, and no words. -/
def Sys2Proof.Laws.Opcode.Statement (i : Instr) : Prop :=
  (opOf i).isSome = (fieldsOf i).isSome ∧ (∀ op, opOf i = some op → op < 256) ∧ (opOf i = none → encode i = [])

theorem Sys2Proof.Laws.Opcode.coded {i : Instr} {op : Nat} {f : Fields} (ho : opOf i = some op) (hf : fieldsOf i = some f)
    (h : op < 256) : Sys2Proof.Laws.Opcode.Statement i :=
  ⟨by rw [ho, hf]; rfl, fun x hx => by rw [ho] at hx; exact Option.some.inj hx ▸ h, fun hn => by rw [ho] at hn; cases hn⟩

theorem Sys2Proof.Laws.Opcode.event {i : Instr} (ho : opOf i = none) (hf : fieldsOf i = none) :
    Sys2Proof.Laws.Opcode.Statement i :=
  ⟨by rw [ho, hf]; rfl, fun x hx => (by rw [ho] at hx; cases hx), fun _ => (by simp [encode, ho])⟩

theorem Sys2Proof.Laws.Opcode.nop (f : Fields) : Sys2Proof.Laws.Opcode.Statement (.nop f) :=
  Sys2Proof.Laws.Opcode.coded rfl rfl (by decide)
theorem Sys2Proof.Laws.Opcode.bra (f : Fields) : Sys2Proof.Laws.Opcode.Statement (.bra f) :=
  Sys2Proof.Laws.Opcode.coded rfl rfl (by decide)
theorem Sys2Proof.Laws.Opcode.brc (f : Fields) : Sys2Proof.Laws.Opcode.Statement (.brc f) :=
  Sys2Proof.Laws.Opcode.coded rfl rfl (by decide)
theorem Sys2Proof.Laws.Opcode.brx (f : Fields) : Sys2Proof.Laws.Opcode.Statement (.brx f) :=
  Sys2Proof.Laws.Opcode.coded rfl rfl (by decide)
theorem Sys2Proof.Laws.Opcode.call (f : Fields) : Sys2Proof.Laws.Opcode.Statement (.call f) :=
  Sys2Proof.Laws.Opcode.coded rfl rfl (by decide)
theorem Sys2Proof.Laws.Opcode.ret (f : Fields) : Sys2Proof.Laws.Opcode.Statement (.ret f) :=
  Sys2Proof.Laws.Opcode.coded rfl rfl (by decide)
theorem Sys2Proof.Laws.Opcode.loopb (f : Fields) : Sys2Proof.Laws.Opcode.Statement (.loopb f) :=
  Sys2Proof.Laws.Opcode.coded rfl rfl (by decide)
theorem Sys2Proof.Laws.Opcode.exit (f : Fields) : Sys2Proof.Laws.Opcode.Statement (.exit f) :=
  Sys2Proof.Laws.Opcode.coded rfl rfl (by decide)
theorem Sys2Proof.Laws.Opcode.yield (f : Fields) : Sys2Proof.Laws.Opcode.Statement (.yield f) :=
  Sys2Proof.Laws.Opcode.coded rfl rfl (by decide)
theorem Sys2Proof.Laws.Opcode.waitc (f : Fields) : Sys2Proof.Laws.Opcode.Statement (.waitc f) :=
  Sys2Proof.Laws.Opcode.coded rfl rfl (by decide)
theorem Sys2Proof.Laws.Opcode.bar (f : Fields) : Sys2Proof.Laws.Opcode.Statement (.bar f) :=
  Sys2Proof.Laws.Opcode.coded rfl rfl (by decide)
theorem Sys2Proof.Laws.Opcode.barPhaseComplete (ctx : Nat) : Sys2Proof.Laws.Opcode.Statement (.barPhaseComplete ctx) :=
  Sys2Proof.Laws.Opcode.event rfl rfl
theorem Sys2Proof.Laws.Opcode.gbarSync (f : Fields) : Sys2Proof.Laws.Opcode.Statement (.gbarSync f) :=
  Sys2Proof.Laws.Opcode.coded rfl rfl (by decide)
theorem Sys2Proof.Laws.Opcode.gbarArrive (f : Fields) : Sys2Proof.Laws.Opcode.Statement (.gbarArrive f) :=
  Sys2Proof.Laws.Opcode.coded rfl rfl (by decide)
theorem Sys2Proof.Laws.Opcode.gbarWait (f : Fields) : Sys2Proof.Laws.Opcode.Statement (.gbarWait f) :=
  Sys2Proof.Laws.Opcode.coded rfl rfl (by decide)
theorem Sys2Proof.Laws.Opcode.gbarPhaseComplete (gang : Nat) : Sys2Proof.Laws.Opcode.Statement (.gbarPhaseComplete gang) :=
  Sys2Proof.Laws.Opcode.event rfl rfl
theorem Sys2Proof.Laws.Opcode.twait (f : Fields) : Sys2Proof.Laws.Opcode.Statement (.twait f) :=
  Sys2Proof.Laws.Opcode.coded rfl rfl (by decide)
theorem Sys2Proof.Laws.Opcode.twaitExpire (g : Nat) : Sys2Proof.Laws.Opcode.Statement (.twaitExpire g) :=
  Sys2Proof.Laws.Opcode.event rfl rfl
theorem Sys2Proof.Laws.Opcode.movc (f : Fields) : Sys2Proof.Laws.Opcode.Statement (.movc f) :=
  Sys2Proof.Laws.Opcode.coded rfl rfl (by decide)
theorem Sys2Proof.Laws.Opcode.movcTimelo (f : Fields) : Sys2Proof.Laws.Opcode.Statement (.movcTimelo f) :=
  Sys2Proof.Laws.Opcode.coded rfl rfl (by decide)
theorem Sys2Proof.Laws.Opcode.movtc (f : Fields) : Sys2Proof.Laws.Opcode.Statement (.movtc f) :=
  Sys2Proof.Laws.Opcode.coded rfl rfl (by decide)
theorem Sys2Proof.Laws.Opcode.movtcQmap (f : Fields) : Sys2Proof.Laws.Opcode.Statement (.movtcQmap f) :=
  Sys2Proof.Laws.Opcode.coded rfl rfl (by decide)
theorem Sys2Proof.Laws.Opcode.movtcParkmask (f : Fields) : Sys2Proof.Laws.Opcode.Statement (.movtcParkmask f) :=
  Sys2Proof.Laws.Opcode.coded rfl rfl (by decide)
theorem Sys2Proof.Laws.Opcode.movtcPart (f : Fields) : Sys2Proof.Laws.Opcode.Statement (.movtcPart f) :=
  Sys2Proof.Laws.Opcode.coded rfl rfl (by decide)
theorem Sys2Proof.Laws.Opcode.movtcAccst (f : Fields) : Sys2Proof.Laws.Opcode.Statement (.movtcAccst f) :=
  Sys2Proof.Laws.Opcode.coded rfl rfl (by decide)
theorem Sys2Proof.Laws.Opcode.movtcTc (f : Fields) : Sys2Proof.Laws.Opcode.Statement (.movtcTc f) :=
  Sys2Proof.Laws.Opcode.coded rfl rfl (by decide)
theorem Sys2Proof.Laws.Opcode.trap (f : Fields) : Sys2Proof.Laws.Opcode.Statement (.trap f) :=
  Sys2Proof.Laws.Opcode.coded rfl rfl (by decide)
theorem Sys2Proof.Laws.Opcode.tret (f : Fields) : Sys2Proof.Laws.Opcode.Statement (.tret f) :=
  Sys2Proof.Laws.Opcode.coded rfl rfl (by decide)
theorem Sys2Proof.Laws.Opcode.iadd (f : Fields) : Sys2Proof.Laws.Opcode.Statement (.iadd f) :=
  Sys2Proof.Laws.Opcode.coded rfl rfl (by decide)
theorem Sys2Proof.Laws.Opcode.iaddImm (f : Fields) : Sys2Proof.Laws.Opcode.Statement (.iaddImm f) :=
  Sys2Proof.Laws.Opcode.coded rfl rfl (by decide)
theorem Sys2Proof.Laws.Opcode.isub (f : Fields) : Sys2Proof.Laws.Opcode.Statement (.isub f) :=
  Sys2Proof.Laws.Opcode.coded rfl rfl (by decide)
theorem Sys2Proof.Laws.Opcode.isubImm (f : Fields) : Sys2Proof.Laws.Opcode.Statement (.isubImm f) :=
  Sys2Proof.Laws.Opcode.coded rfl rfl (by decide)
theorem Sys2Proof.Laws.Opcode.imul (f : Fields) : Sys2Proof.Laws.Opcode.Statement (.imul f) :=
  Sys2Proof.Laws.Opcode.coded rfl rfl (by decide)
theorem Sys2Proof.Laws.Opcode.imulImm (f : Fields) : Sys2Proof.Laws.Opcode.Statement (.imulImm f) :=
  Sys2Proof.Laws.Opcode.coded rfl rfl (by decide)
theorem Sys2Proof.Laws.Opcode.imulh (f : Fields) : Sys2Proof.Laws.Opcode.Statement (.imulh f) :=
  Sys2Proof.Laws.Opcode.coded rfl rfl (by decide)
theorem Sys2Proof.Laws.Opcode.imulhImm (f : Fields) : Sys2Proof.Laws.Opcode.Statement (.imulhImm f) :=
  Sys2Proof.Laws.Opcode.coded rfl rfl (by decide)
theorem Sys2Proof.Laws.Opcode.imin (f : Fields) : Sys2Proof.Laws.Opcode.Statement (.imin f) :=
  Sys2Proof.Laws.Opcode.coded rfl rfl (by decide)
theorem Sys2Proof.Laws.Opcode.iminImm (f : Fields) : Sys2Proof.Laws.Opcode.Statement (.iminImm f) :=
  Sys2Proof.Laws.Opcode.coded rfl rfl (by decide)
theorem Sys2Proof.Laws.Opcode.imax (f : Fields) : Sys2Proof.Laws.Opcode.Statement (.imax f) :=
  Sys2Proof.Laws.Opcode.coded rfl rfl (by decide)
theorem Sys2Proof.Laws.Opcode.imaxImm (f : Fields) : Sys2Proof.Laws.Opcode.Statement (.imaxImm f) :=
  Sys2Proof.Laws.Opcode.coded rfl rfl (by decide)
theorem Sys2Proof.Laws.Opcode.and (f : Fields) : Sys2Proof.Laws.Opcode.Statement (.and f) :=
  Sys2Proof.Laws.Opcode.coded rfl rfl (by decide)
theorem Sys2Proof.Laws.Opcode.andImm (f : Fields) : Sys2Proof.Laws.Opcode.Statement (.andImm f) :=
  Sys2Proof.Laws.Opcode.coded rfl rfl (by decide)
theorem Sys2Proof.Laws.Opcode.or (f : Fields) : Sys2Proof.Laws.Opcode.Statement (.or f) :=
  Sys2Proof.Laws.Opcode.coded rfl rfl (by decide)
theorem Sys2Proof.Laws.Opcode.orImm (f : Fields) : Sys2Proof.Laws.Opcode.Statement (.orImm f) :=
  Sys2Proof.Laws.Opcode.coded rfl rfl (by decide)
theorem Sys2Proof.Laws.Opcode.xor (f : Fields) : Sys2Proof.Laws.Opcode.Statement (.xor f) :=
  Sys2Proof.Laws.Opcode.coded rfl rfl (by decide)
theorem Sys2Proof.Laws.Opcode.xorImm (f : Fields) : Sys2Proof.Laws.Opcode.Statement (.xorImm f) :=
  Sys2Proof.Laws.Opcode.coded rfl rfl (by decide)
theorem Sys2Proof.Laws.Opcode.andn (f : Fields) : Sys2Proof.Laws.Opcode.Statement (.andn f) :=
  Sys2Proof.Laws.Opcode.coded rfl rfl (by decide)
theorem Sys2Proof.Laws.Opcode.andnImm (f : Fields) : Sys2Proof.Laws.Opcode.Statement (.andnImm f) :=
  Sys2Proof.Laws.Opcode.coded rfl rfl (by decide)
theorem Sys2Proof.Laws.Opcode.shl (f : Fields) : Sys2Proof.Laws.Opcode.Statement (.shl f) :=
  Sys2Proof.Laws.Opcode.coded rfl rfl (by decide)
theorem Sys2Proof.Laws.Opcode.shlImm (f : Fields) : Sys2Proof.Laws.Opcode.Statement (.shlImm f) :=
  Sys2Proof.Laws.Opcode.coded rfl rfl (by decide)
theorem Sys2Proof.Laws.Opcode.shr (f : Fields) : Sys2Proof.Laws.Opcode.Statement (.shr f) :=
  Sys2Proof.Laws.Opcode.coded rfl rfl (by decide)
theorem Sys2Proof.Laws.Opcode.shrImm (f : Fields) : Sys2Proof.Laws.Opcode.Statement (.shrImm f) :=
  Sys2Proof.Laws.Opcode.coded rfl rfl (by decide)
theorem Sys2Proof.Laws.Opcode.sar (f : Fields) : Sys2Proof.Laws.Opcode.Statement (.sar f) :=
  Sys2Proof.Laws.Opcode.coded rfl rfl (by decide)
theorem Sys2Proof.Laws.Opcode.sarImm (f : Fields) : Sys2Proof.Laws.Opcode.Statement (.sarImm f) :=
  Sys2Proof.Laws.Opcode.coded rfl rfl (by decide)
theorem Sys2Proof.Laws.Opcode.rot (f : Fields) : Sys2Proof.Laws.Opcode.Statement (.rot f) :=
  Sys2Proof.Laws.Opcode.coded rfl rfl (by decide)
theorem Sys2Proof.Laws.Opcode.rotImm (f : Fields) : Sys2Proof.Laws.Opcode.Statement (.rotImm f) :=
  Sys2Proof.Laws.Opcode.coded rfl rfl (by decide)
theorem Sys2Proof.Laws.Opcode.iabs (f : Fields) : Sys2Proof.Laws.Opcode.Statement (.iabs f) :=
  Sys2Proof.Laws.Opcode.coded rfl rfl (by decide)
theorem Sys2Proof.Laws.Opcode.mov (f : Fields) : Sys2Proof.Laws.Opcode.Statement (.mov f) :=
  Sys2Proof.Laws.Opcode.coded rfl rfl (by decide)
theorem Sys2Proof.Laws.Opcode.popc (f : Fields) : Sys2Proof.Laws.Opcode.Statement (.popc f) :=
  Sys2Proof.Laws.Opcode.coded rfl rfl (by decide)
theorem Sys2Proof.Laws.Opcode.clz (f : Fields) : Sys2Proof.Laws.Opcode.Statement (.clz f) :=
  Sys2Proof.Laws.Opcode.coded rfl rfl (by decide)
theorem Sys2Proof.Laws.Opcode.brev (f : Fields) : Sys2Proof.Laws.Opcode.Statement (.brev f) :=
  Sys2Proof.Laws.Opcode.coded rfl rfl (by decide)
theorem Sys2Proof.Laws.Opcode.movi (f : Fields) : Sys2Proof.Laws.Opcode.Statement (.movi f) :=
  Sys2Proof.Laws.Opcode.coded rfl rfl (by decide)
theorem Sys2Proof.Laws.Opcode.iaddc (f : Fields) : Sys2Proof.Laws.Opcode.Statement (.iaddc f) :=
  Sys2Proof.Laws.Opcode.coded rfl rfl (by decide)
theorem Sys2Proof.Laws.Opcode.isubb (f : Fields) : Sys2Proof.Laws.Opcode.Statement (.isubb f) :=
  Sys2Proof.Laws.Opcode.coded rfl rfl (by decide)
theorem Sys2Proof.Laws.Opcode.imad (f : Fields) : Sys2Proof.Laws.Opcode.Statement (.imad f) :=
  Sys2Proof.Laws.Opcode.coded rfl rfl (by decide)
theorem Sys2Proof.Laws.Opcode.imadw (f : Fields) : Sys2Proof.Laws.Opcode.Statement (.imadw f) :=
  Sys2Proof.Laws.Opcode.coded rfl rfl (by decide)
theorem Sys2Proof.Laws.Opcode.icmp (f : Fields) : Sys2Proof.Laws.Opcode.Statement (.icmp f) :=
  Sys2Proof.Laws.Opcode.coded rfl rfl (by decide)
theorem Sys2Proof.Laws.Opcode.sel (f : Fields) : Sys2Proof.Laws.Opcode.Statement (.sel f) :=
  Sys2Proof.Laws.Opcode.coded rfl rfl (by decide)
theorem Sys2Proof.Laws.Opcode.lea (f : Fields) : Sys2Proof.Laws.Opcode.Statement (.lea f) :=
  Sys2Proof.Laws.Opcode.coded rfl rfl (by decide)
theorem Sys2Proof.Laws.Opcode.bfe (f : Fields) : Sys2Proof.Laws.Opcode.Statement (.bfe f) :=
  Sys2Proof.Laws.Opcode.coded rfl rfl (by decide)
theorem Sys2Proof.Laws.Opcode.bfi (f : Fields) : Sys2Proof.Laws.Opcode.Statement (.bfi f) :=
  Sys2Proof.Laws.Opcode.coded rfl rfl (by decide)
theorem Sys2Proof.Laws.Opcode.bytx (f : Fields) : Sys2Proof.Laws.Opcode.Statement (.bytx f) :=
  Sys2Proof.Laws.Opcode.coded rfl rfl (by decide)
theorem Sys2Proof.Laws.Opcode.fadd (f : Fields) : Sys2Proof.Laws.Opcode.Statement (.fadd f) :=
  Sys2Proof.Laws.Opcode.coded rfl rfl (by decide)
theorem Sys2Proof.Laws.Opcode.fsub (f : Fields) : Sys2Proof.Laws.Opcode.Statement (.fsub f) :=
  Sys2Proof.Laws.Opcode.coded rfl rfl (by decide)
theorem Sys2Proof.Laws.Opcode.fmul (f : Fields) : Sys2Proof.Laws.Opcode.Statement (.fmul f) :=
  Sys2Proof.Laws.Opcode.coded rfl rfl (by decide)
theorem Sys2Proof.Laws.Opcode.ffma (f : Fields) : Sys2Proof.Laws.Opcode.Statement (.ffma f) :=
  Sys2Proof.Laws.Opcode.coded rfl rfl (by decide)
theorem Sys2Proof.Laws.Opcode.fmin (f : Fields) : Sys2Proof.Laws.Opcode.Statement (.fmin f) :=
  Sys2Proof.Laws.Opcode.coded rfl rfl (by decide)
theorem Sys2Proof.Laws.Opcode.fmax (f : Fields) : Sys2Proof.Laws.Opcode.Statement (.fmax f) :=
  Sys2Proof.Laws.Opcode.coded rfl rfl (by decide)
theorem Sys2Proof.Laws.Opcode.fcmp (f : Fields) : Sys2Proof.Laws.Opcode.Statement (.fcmp f) :=
  Sys2Proof.Laws.Opcode.coded rfl rfl (by decide)
theorem Sys2Proof.Laws.Opcode.fclass (f : Fields) : Sys2Proof.Laws.Opcode.Statement (.fclass f) :=
  Sys2Proof.Laws.Opcode.coded rfl rfl (by decide)
theorem Sys2Proof.Laws.Opcode.frnd (f : Fields) : Sys2Proof.Laws.Opcode.Statement (.frnd f) :=
  Sys2Proof.Laws.Opcode.coded rfl rfl (by decide)
theorem Sys2Proof.Laws.Opcode.cvt (f : Fields) : Sys2Proof.Laws.Opcode.Statement (.cvt f) :=
  Sys2Proof.Laws.Opcode.coded rfl rfl (by decide)
theorem Sys2Proof.Laws.Opcode.f2i (f : Fields) : Sys2Proof.Laws.Opcode.Statement (.f2i f) :=
  Sys2Proof.Laws.Opcode.coded rfl rfl (by decide)
theorem Sys2Proof.Laws.Opcode.i2f (f : Fields) : Sys2Proof.Laws.Opcode.Statement (.i2f f) :=
  Sys2Proof.Laws.Opcode.coded rfl rfl (by decide)
theorem Sys2Proof.Laws.Opcode.pack (f : Fields) : Sys2Proof.Laws.Opcode.Statement (.pack f) :=
  Sys2Proof.Laws.Opcode.coded rfl rfl (by decide)
theorem Sys2Proof.Laws.Opcode.unpk (f : Fields) : Sys2Proof.Laws.Opcode.Statement (.unpk f) :=
  Sys2Proof.Laws.Opcode.coded rfl rfl (by decide)
theorem Sys2Proof.Laws.Opcode.bscl (f : Fields) : Sys2Proof.Laws.Opcode.Statement (.bscl f) :=
  Sys2Proof.Laws.Opcode.coded rfl rfl (by decide)
theorem Sys2Proof.Laws.Opcode.duadd (f : Fields) : Sys2Proof.Laws.Opcode.Statement (.duadd f) :=
  Sys2Proof.Laws.Opcode.coded rfl rfl (by decide)
theorem Sys2Proof.Laws.Opcode.dumul (f : Fields) : Sys2Proof.Laws.Opcode.Statement (.dumul f) :=
  Sys2Proof.Laws.Opcode.coded rfl rfl (by decide)
theorem Sys2Proof.Laws.Opcode.dufma (f : Fields) : Sys2Proof.Laws.Opcode.Statement (.dufma f) :=
  Sys2Proof.Laws.Opcode.coded rfl rfl (by decide)
theorem Sys2Proof.Laws.Opcode.dumax (f : Fields) : Sys2Proof.Laws.Opcode.Statement (.dumax f) :=
  Sys2Proof.Laws.Opcode.coded rfl rfl (by decide)
theorem Sys2Proof.Laws.Opcode.rcp (f : Fields) : Sys2Proof.Laws.Opcode.Statement (.rcp f) :=
  Sys2Proof.Laws.Opcode.coded rfl rfl (by decide)
theorem Sys2Proof.Laws.Opcode.rsq (f : Fields) : Sys2Proof.Laws.Opcode.Statement (.rsq f) :=
  Sys2Proof.Laws.Opcode.coded rfl rfl (by decide)
theorem Sys2Proof.Laws.Opcode.sqrt (f : Fields) : Sys2Proof.Laws.Opcode.Statement (.sqrt f) :=
  Sys2Proof.Laws.Opcode.coded rfl rfl (by decide)
theorem Sys2Proof.Laws.Opcode.ex2 (f : Fields) : Sys2Proof.Laws.Opcode.Statement (.ex2 f) :=
  Sys2Proof.Laws.Opcode.coded rfl rfl (by decide)
theorem Sys2Proof.Laws.Opcode.lg2 (f : Fields) : Sys2Proof.Laws.Opcode.Statement (.lg2 f) :=
  Sys2Proof.Laws.Opcode.coded rfl rfl (by decide)
theorem Sys2Proof.Laws.Opcode.sin (f : Fields) : Sys2Proof.Laws.Opcode.Statement (.sin f) :=
  Sys2Proof.Laws.Opcode.coded rfl rfl (by decide)
theorem Sys2Proof.Laws.Opcode.cos (f : Fields) : Sys2Proof.Laws.Opcode.Statement (.cos f) :=
  Sys2Proof.Laws.Opcode.coded rfl rfl (by decide)
theorem Sys2Proof.Laws.Opcode.tanh (f : Fields) : Sys2Proof.Laws.Opcode.Statement (.tanh f) :=
  Sys2Proof.Laws.Opcode.coded rfl rfl (by decide)
theorem Sys2Proof.Laws.Opcode.sfuResultLand (core : Nat) : Sys2Proof.Laws.Opcode.Statement (.sfuResultLand core) :=
  Sys2Proof.Laws.Opcode.event rfl rfl
theorem Sys2Proof.Laws.Opcode.vote (f : Fields) : Sys2Proof.Laws.Opcode.Statement (.vote f) :=
  Sys2Proof.Laws.Opcode.coded rfl rfl (by decide)
theorem Sys2Proof.Laws.Opcode.shfl (f : Fields) : Sys2Proof.Laws.Opcode.Statement (.shfl f) :=
  Sys2Proof.Laws.Opcode.coded rfl rfl (by decide)
theorem Sys2Proof.Laws.Opcode.mred (f : Fields) : Sys2Proof.Laws.Opcode.Statement (.mred f) :=
  Sys2Proof.Laws.Opcode.coded rfl rfl (by decide)
theorem Sys2Proof.Laws.Opcode.matchLanes (f : Fields) : Sys2Proof.Laws.Opcode.Statement (.matchLanes f) :=
  Sys2Proof.Laws.Opcode.coded rfl rfl (by decide)
theorem Sys2Proof.Laws.Opcode.scan (f : Fields) : Sys2Proof.Laws.Opcode.Statement (.scan f) :=
  Sys2Proof.Laws.Opcode.coded rfl rfl (by decide)
theorem Sys2Proof.Laws.Opcode.tred (f : Fields) : Sys2Proof.Laws.Opcode.Statement (.tred f) :=
  Sys2Proof.Laws.Opcode.coded rfl rfl (by decide)
theorem Sys2Proof.Laws.Opcode.part (f : Fields) : Sys2Proof.Laws.Opcode.Statement (.part f) :=
  Sys2Proof.Laws.Opcode.coded rfl rfl (by decide)
theorem Sys2Proof.Laws.Opcode.ld (f : Fields) : Sys2Proof.Laws.Opcode.Statement (.ld f) :=
  Sys2Proof.Laws.Opcode.coded rfl rfl (by decide)
theorem Sys2Proof.Laws.Opcode.ldFx (f : Fields) : Sys2Proof.Laws.Opcode.Statement (.ldFx f) :=
  Sys2Proof.Laws.Opcode.coded rfl rfl (by decide)
theorem Sys2Proof.Laws.Opcode.loadDataReturn (g op q : Nat) (reply : List (Option Word)) : Sys2Proof.Laws.Opcode.Statement (.loadDataReturn g op q reply) :=
  Sys2Proof.Laws.Opcode.event rfl rfl
theorem Sys2Proof.Laws.Opcode.st (f : Fields) : Sys2Proof.Laws.Opcode.Statement (.st f) :=
  Sys2Proof.Laws.Opcode.coded rfl rfl (by decide)
theorem Sys2Proof.Laws.Opcode.prf (f : Fields) : Sys2Proof.Laws.Opcode.Statement (.prf f) :=
  Sys2Proof.Laws.Opcode.coded rfl rfl (by decide)
theorem Sys2Proof.Laws.Opcode.amo (f : Fields) : Sys2Proof.Laws.Opcode.Statement (.amo f) :=
  Sys2Proof.Laws.Opcode.coded rfl rfl (by decide)
theorem Sys2Proof.Laws.Opcode.cas (f : Fields) : Sys2Proof.Laws.Opcode.Statement (.cas f) :=
  Sys2Proof.Laws.Opcode.coded rfl rfl (by decide)
theorem Sys2Proof.Laws.Opcode.atomicAck (g op i : Nat) (reply : Option (BitVec 64)) : Sys2Proof.Laws.Opcode.Statement (.atomicAck g op i reply) :=
  Sys2Proof.Laws.Opcode.event rfl rfl
theorem Sys2Proof.Laws.Opcode.fence (f : Fields) : Sys2Proof.Laws.Opcode.Statement (.fence f) :=
  Sys2Proof.Laws.Opcode.coded rfl rfl (by decide)
theorem Sys2Proof.Laws.Opcode.acq (f : Fields) : Sys2Proof.Laws.Opcode.Statement (.acq f) :=
  Sys2Proof.Laws.Opcode.coded rfl rfl (by decide)
theorem Sys2Proof.Laws.Opcode.rel (f : Fields) : Sys2Proof.Laws.Opcode.Statement (.rel f) :=
  Sys2Proof.Laws.Opcode.coded rfl rfl (by decide)
theorem Sys2Proof.Laws.Opcode.acqr (f : Fields) : Sys2Proof.Laws.Opcode.Statement (.acqr f) :=
  Sys2Proof.Laws.Opcode.coded rfl rfl (by decide)
theorem Sys2Proof.Laws.Opcode.invr (f : Fields) : Sys2Proof.Laws.Opcode.Statement (.invr f) :=
  Sys2Proof.Laws.Opcode.coded rfl rfl (by decide)
theorem Sys2Proof.Laws.Opcode.wbr (f : Fields) : Sys2Proof.Laws.Opcode.Statement (.wbr f) :=
  Sys2Proof.Laws.Opcode.coded rfl rfl (by decide)
theorem Sys2Proof.Laws.Opcode.registrationGrant (core pa : Nat) : Sys2Proof.Laws.Opcode.Statement (.registrationGrant core pa) :=
  Sys2Proof.Laws.Opcode.event rfl rfl
theorem Sys2Proof.Laws.Opcode.lineFill (core pa : Nat) : Sys2Proof.Laws.Opcode.Statement (.lineFill core pa) :=
  Sys2Proof.Laws.Opcode.event rfl rfl
theorem Sys2Proof.Laws.Opcode.l1Evict (core pa : Nat) : Sys2Proof.Laws.Opcode.Statement (.l1Evict core pa) :=
  Sys2Proof.Laws.Opcode.event rfl rfl
theorem Sys2Proof.Laws.Opcode.tld (f : Fields) : Sys2Proof.Laws.Opcode.Statement (.tld f) :=
  Sys2Proof.Laws.Opcode.coded rfl rfl (by decide)
theorem Sys2Proof.Laws.Opcode.tst (f : Fields) : Sys2Proof.Laws.Opcode.Statement (.tst f) :=
  Sys2Proof.Laws.Opcode.coded rfl rfl (by decide)
theorem Sys2Proof.Laws.Opcode.tmov (f : Fields) : Sys2Proof.Laws.Opcode.Statement (.tmov f) :=
  Sys2Proof.Laws.Opcode.coded rfl rfl (by decide)
theorem Sys2Proof.Laws.Opcode.mma (f : Fields) : Sys2Proof.Laws.Opcode.Statement (.mma f) :=
  Sys2Proof.Laws.Opcode.coded rfl rfl (by decide)
theorem Sys2Proof.Laws.Opcode.mmaComplete (g op : Nat) : Sys2Proof.Laws.Opcode.Statement (.mmaComplete g op) :=
  Sys2Proof.Laws.Opcode.event rfl rfl
theorem Sys2Proof.Laws.Opcode.accz (f : Fields) : Sys2Proof.Laws.Opcode.Statement (.accz f) :=
  Sys2Proof.Laws.Opcode.coded rfl rfl (by decide)
theorem Sys2Proof.Laws.Opcode.accwin (f : Fields) : Sys2Proof.Laws.Opcode.Statement (.accwin f) :=
  Sys2Proof.Laws.Opcode.coded rfl rfl (by decide)
theorem Sys2Proof.Laws.Opcode.accrd (f : Fields) : Sys2Proof.Laws.Opcode.Statement (.accrd f) :=
  Sys2Proof.Laws.Opcode.coded rfl rfl (by decide)
theorem Sys2Proof.Laws.Opcode.accadd (f : Fields) : Sys2Proof.Laws.Opcode.Statement (.accadd f) :=
  Sys2Proof.Laws.Opcode.coded rfl rfl (by decide)
theorem Sys2Proof.Laws.Opcode.accld (f : Fields) : Sys2Proof.Laws.Opcode.Statement (.accld f) :=
  Sys2Proof.Laws.Opcode.coded rfl rfl (by decide)
theorem Sys2Proof.Laws.Opcode.accst (f : Fields) : Sys2Proof.Laws.Opcode.Statement (.accst f) :=
  Sys2Proof.Laws.Opcode.coded rfl rfl (by decide)
theorem Sys2Proof.Laws.Opcode.clasp (f : Fields) : Sys2Proof.Laws.Opcode.Statement (.clasp f) :=
  Sys2Proof.Laws.Opcode.coded rfl rfl (by decide)
theorem Sys2Proof.Laws.Opcode.claspExchange (g h : Nat) : Sys2Proof.Laws.Opcode.Statement (.claspExchange g h) :=
  Sys2Proof.Laws.Opcode.event rfl rfl
theorem Sys2Proof.Laws.Opcode.claspTimeout (g : Nat) : Sys2Proof.Laws.Opcode.Statement (.claspTimeout g) :=
  Sys2Proof.Laws.Opcode.event rfl rfl
theorem Sys2Proof.Laws.Opcode.cpy (f : Fields) : Sys2Proof.Laws.Opcode.Statement (.cpy f) :=
  Sys2Proof.Laws.Opcode.coded rfl rfl (by decide)
theorem Sys2Proof.Laws.Opcode.cpyRequestApplied (g op : Nat) : Sys2Proof.Laws.Opcode.Statement (.cpyRequestApplied g op) :=
  Sys2Proof.Laws.Opcode.event rfl rfl
theorem Sys2Proof.Laws.Opcode.gath (f : Fields) : Sys2Proof.Laws.Opcode.Statement (.gath f) :=
  Sys2Proof.Laws.Opcode.coded rfl rfl (by decide)
theorem Sys2Proof.Laws.Opcode.scat (f : Fields) : Sys2Proof.Laws.Opcode.Statement (.scat f) :=
  Sys2Proof.Laws.Opcode.coded rfl rfl (by decide)
theorem Sys2Proof.Laws.Opcode.col (f : Fields) : Sys2Proof.Laws.Opcode.Statement (.col f) :=
  Sys2Proof.Laws.Opcode.coded rfl rfl (by decide)
theorem Sys2Proof.Laws.Opcode.collectiveJoin (set : Nat) (remote : List RankData) : Sys2Proof.Laws.Opcode.Statement (.collectiveJoin set remote) :=
  Sys2Proof.Laws.Opcode.event rfl rfl
theorem Sys2Proof.Laws.Opcode.collectiveTimeout (x : ColTimeout) : Sys2Proof.Laws.Opcode.Statement (.collectiveTimeout x) :=
  Sys2Proof.Laws.Opcode.event rfl rfl
theorem Sys2Proof.Laws.Opcode.bnk (f : Fields) : Sys2Proof.Laws.Opcode.Statement (.bnk f) :=
  Sys2Proof.Laws.Opcode.coded rfl rfl (by decide)
theorem Sys2Proof.Laws.Opcode.atwStart (g op : Nat) : Sys2Proof.Laws.Opcode.Statement (.atwStart g op) :=
  Sys2Proof.Laws.Opcode.event rfl rfl
theorem Sys2Proof.Laws.Opcode.engineOpComplete (g op : Nat) : Sys2Proof.Laws.Opcode.Statement (.engineOpComplete g op) :=
  Sys2Proof.Laws.Opcode.event rfl rfl
theorem Sys2Proof.Laws.Opcode.boini (f : Fields) : Sys2Proof.Laws.Opcode.Statement (.boini f) :=
  Sys2Proof.Laws.Opcode.coded rfl rfl (by decide)
theorem Sys2Proof.Laws.Opcode.boarr (f : Fields) : Sys2Proof.Laws.Opcode.Statement (.boarr f) :=
  Sys2Proof.Laws.Opcode.coded rfl rfl (by decide)
theorem Sys2Proof.Laws.Opcode.bowait (f : Fields) : Sys2Proof.Laws.Opcode.Statement (.bowait f) :=
  Sys2Proof.Laws.Opcode.coded rfl rfl (by decide)
theorem Sys2Proof.Laws.Opcode.kqcfg (f : Fields) : Sys2Proof.Laws.Opcode.Statement (.kqcfg f) :=
  Sys2Proof.Laws.Opcode.coded rfl rfl (by decide)
theorem Sys2Proof.Laws.Opcode.kqpush (f : Fields) : Sys2Proof.Laws.Opcode.Statement (.kqpush f) :=
  Sys2Proof.Laws.Opcode.coded rfl rfl (by decide)
theorem Sys2Proof.Laws.Opcode.kqtake (f : Fields) : Sys2Proof.Laws.Opcode.Statement (.kqtake f) :=
  Sys2Proof.Laws.Opcode.coded rfl rfl (by decide)
theorem Sys2Proof.Laws.Opcode.kqtakePort (f : Fields) : Sys2Proof.Laws.Opcode.Statement (.kqtakePort f) :=
  Sys2Proof.Laws.Opcode.coded rfl rfl (by decide)
theorem Sys2Proof.Laws.Opcode.kqsteal (f : Fields) : Sys2Proof.Laws.Opcode.Statement (.kqsteal f) :=
  Sys2Proof.Laws.Opcode.coded rfl rfl (by decide)
theorem Sys2Proof.Laws.Opcode.kqstat (f : Fields) : Sys2Proof.Laws.Opcode.Statement (.kqstat f) :=
  Sys2Proof.Laws.Opcode.coded rfl rfl (by decide)
theorem Sys2Proof.Laws.Opcode.kqWaiterServed (g : Nat) : Sys2Proof.Laws.Opcode.Statement (.kqWaiterServed g) :=
  Sys2Proof.Laws.Opcode.event rfl rfl
theorem Sys2Proof.Laws.Opcode.pctr (f : Fields) : Sys2Proof.Laws.Opcode.Statement (.pctr f) :=
  Sys2Proof.Laws.Opcode.coded rfl rfl (by decide)
theorem Sys2Proof.Laws.Opcode.pdec (f : Fields) : Sys2Proof.Laws.Opcode.Statement (.pdec f) :=
  Sys2Proof.Laws.Opcode.coded rfl rfl (by decide)
theorem Sys2Proof.Laws.Opcode.evnt (f : Fields) : Sys2Proof.Laws.Opcode.Statement (.evnt f) :=
  Sys2Proof.Laws.Opcode.coded rfl rfl (by decide)
theorem Sys2Proof.Laws.Opcode.tlbinv (f : Fields) : Sys2Proof.Laws.Opcode.Statement (.tlbinv f) :=
  Sys2Proof.Laws.Opcode.coded rfl rfl (by decide)
theorem Sys2Proof.Laws.Opcode.accspl (f : Fields) : Sys2Proof.Laws.Opcode.Statement (.accspl f) :=
  Sys2Proof.Laws.Opcode.coded rfl rfl (by decide)
theorem Sys2Proof.Laws.Opcode.accfil (f : Fields) : Sys2Proof.Laws.Opcode.Statement (.accfil f) :=
  Sys2Proof.Laws.Opcode.coded rfl rfl (by decide)
theorem Sys2Proof.Laws.Opcode.issueChoice (core ls : Nat) : Sys2Proof.Laws.Opcode.Statement (.issueChoice core ls) :=
  Sys2Proof.Laws.Opcode.event rfl rfl
theorem Sys2Proof.Laws.Opcode.groupEnd (g : Nat) : Sys2Proof.Laws.Opcode.Statement (.groupEnd g) :=
  Sys2Proof.Laws.Opcode.event rfl rfl
theorem Sys2Proof.Laws.Opcode.watchdog (ctx : Nat) : Sys2Proof.Laws.Opcode.Statement (.watchdog ctx) :=
  Sys2Proof.Laws.Opcode.event rfl rfl
theorem Sys2Proof.Laws.Opcode.packedRowStallSave (ctx : Nat) : Sys2Proof.Laws.Opcode.Statement (.packedRowStallSave ctx) :=
  Sys2Proof.Laws.Opcode.event rfl rfl
theorem Sys2Proof.Laws.Opcode.tailWrite (qid : Nat) (new : Word) : Sys2Proof.Laws.Opcode.Statement (.tailWrite qid new) :=
  Sys2Proof.Laws.Opcode.event rfl rfl
theorem Sys2Proof.Laws.Opcode.notifyForward (qid : Nat) : Sys2Proof.Laws.Opcode.Statement (.notifyForward qid) :=
  Sys2Proof.Laws.Opcode.event rfl rfl
theorem Sys2Proof.Laws.Opcode.recordRead (qid : Nat) : Sys2Proof.Laws.Opcode.Statement (.recordRead qid) :=
  Sys2Proof.Laws.Opcode.event rfl rfl
theorem Sys2Proof.Laws.Opcode.fenceWrite (pa : Nat) : Sys2Proof.Laws.Opcode.Statement (.fenceWrite pa) :=
  Sys2Proof.Laws.Opcode.event rfl rfl
theorem Sys2Proof.Laws.Opcode.markerStart (qid : Nat) : Sys2Proof.Laws.Opcode.Statement (.markerStart qid) :=
  Sys2Proof.Laws.Opcode.event rfl rfl
theorem Sys2Proof.Laws.Opcode.markerEnd (qid : Nat) : Sys2Proof.Laws.Opcode.Statement (.markerEnd qid) :=
  Sys2Proof.Laws.Opcode.event rfl rfl
theorem Sys2Proof.Laws.Opcode.teamPlace (launch : Nat) (grant : Grant) : Sys2Proof.Laws.Opcode.Statement (.teamPlace launch grant) :=
  Sys2Proof.Laws.Opcode.event rfl rfl
theorem Sys2Proof.Laws.Opcode.enq (kind inst : Nat) : Sys2Proof.Laws.Opcode.Statement (.enq kind inst) :=
  Sys2Proof.Laws.Opcode.event rfl rfl
theorem Sys2Proof.Laws.Opcode.pick (part : Nat) : Sys2Proof.Laws.Opcode.Statement (.pick part) :=
  Sys2Proof.Laws.Opcode.event rfl rfl
theorem Sys2Proof.Laws.Opcode.tick (part : Nat) : Sys2Proof.Laws.Opcode.Statement (.tick part) :=
  Sys2Proof.Laws.Opcode.event rfl rfl
theorem Sys2Proof.Laws.Opcode.block (qid : Nat) : Sys2Proof.Laws.Opcode.Statement (.block qid) :=
  Sys2Proof.Laws.Opcode.event rfl rfl
theorem Sys2Proof.Laws.Opcode.wake (qid : Nat) : Sys2Proof.Laws.Opcode.Statement (.wake qid) :=
  Sys2Proof.Laws.Opcode.event rfl rfl
theorem Sys2Proof.Laws.Opcode.migr (kind inst key : Nat) : Sys2Proof.Laws.Opcode.Statement (.migr kind inst key) :=
  Sys2Proof.Laws.Opcode.event rfl rfl
theorem Sys2Proof.Laws.Opcode.mwaitExpire (cluster q key : Nat) : Sys2Proof.Laws.Opcode.Statement (.mwaitExpire cluster q key) :=
  Sys2Proof.Laws.Opcode.event rfl rfl
theorem Sys2Proof.Laws.Opcode.tileTaskDispatch (cluster q : Nat) : Sys2Proof.Laws.Opcode.Statement (.tileTaskDispatch cluster q) :=
  Sys2Proof.Laws.Opcode.event rfl rfl
theorem Sys2Proof.Laws.Opcode.groupHalt (g : Nat) : Sys2Proof.Laws.Opcode.Statement (.groupHalt g) :=
  Sys2Proof.Laws.Opcode.event rfl rfl
theorem Sys2Proof.Laws.Opcode.contextSave (ctx : Nat) : Sys2Proof.Laws.Opcode.Statement (.contextSave ctx) :=
  Sys2Proof.Laws.Opcode.event rfl rfl
theorem Sys2Proof.Laws.Opcode.contextRestore (ctx : Nat) (grant : Grant) : Sys2Proof.Laws.Opcode.Statement (.contextRestore ctx grant) :=
  Sys2Proof.Laws.Opcode.event rfl rfl
theorem Sys2Proof.Laws.Opcode.messageArrive (ep src : Nat) (elems : List Word) : Sys2Proof.Laws.Opcode.Statement (.messageArrive ep src elems) :=
  Sys2Proof.Laws.Opcode.event rfl rfl
theorem Sys2Proof.Laws.Opcode.remoteAccessArrive (req : FabricReq) : Sys2Proof.Laws.Opcode.Statement (.remoteAccessArrive req) :=
  Sys2Proof.Laws.Opcode.event rfl rfl
theorem Sys2Proof.Laws.Opcode.windowBoundLost (node : Nat) : Sys2Proof.Laws.Opcode.Statement (.windowBoundLost node) :=
  Sys2Proof.Laws.Opcode.event rfl rfl
theorem Sys2Proof.Laws.Opcode.windowOrderRestore (node : Nat) : Sys2Proof.Laws.Opcode.Statement (.windowOrderRestore node) :=
  Sys2Proof.Laws.Opcode.event rfl rfl
theorem Sys2Proof.Laws.Opcode.linkDown (port : Nat) : Sys2Proof.Laws.Opcode.Statement (.linkDown port) :=
  Sys2Proof.Laws.Opcode.event rfl rfl
theorem Sys2Proof.Laws.Opcode.linkUp (port peer : Nat) : Sys2Proof.Laws.Opcode.Statement (.linkUp port peer) :=
  Sys2Proof.Laws.Opcode.event rfl rfl
theorem Sys2Proof.Laws.Opcode.streamTimeout (node : Nat) : Sys2Proof.Laws.Opcode.Statement (.streamTimeout node) :=
  Sys2Proof.Laws.Opcode.event rfl rfl
theorem Sys2Proof.Laws.Opcode.moduleRetrain (boundary mod : Nat) (repaired : Bool) : Sys2Proof.Laws.Opcode.Statement (.moduleRetrain boundary mod repaired) :=
  Sys2Proof.Laws.Opcode.event rfl rfl
theorem Sys2Proof.Laws.Opcode.softError (kind unit addr : Nat) (corrected : Bool) : Sys2Proof.Laws.Opcode.Statement (.softError kind unit addr corrected) :=
  Sys2Proof.Laws.Opcode.event rfl rfl
theorem Sys2Proof.Laws.Opcode.syncReceived (offset : Int) : Sys2Proof.Laws.Opcode.Statement (.syncReceived offset) :=
  Sys2Proof.Laws.Opcode.event rfl rfl
theorem Sys2Proof.Laws.Opcode.syncHoldover : Sys2Proof.Laws.Opcode.Statement .syncHoldover :=
  Sys2Proof.Laws.Opcode.event rfl rfl
theorem Sys2Proof.Laws.Opcode.syncLost : Sys2Proof.Laws.Opcode.Statement .syncLost :=
  Sys2Proof.Laws.Opcode.event rfl rfl
theorem Sys2Proof.Laws.Opcode.wlenApply : Sys2Proof.Laws.Opcode.Statement .wlenApply :=
  Sys2Proof.Laws.Opcode.event rfl rfl
theorem Sys2Proof.Laws.Opcode.thermalThrottle (temp : Nat) : Sys2Proof.Laws.Opcode.Statement (.thermalThrottle temp) :=
  Sys2Proof.Laws.Opcode.event rfl rfl
theorem Sys2Proof.Laws.Opcode.thermalShutdown (temp : Nat) : Sys2Proof.Laws.Opcode.Statement (.thermalShutdown temp) :=
  Sys2Proof.Laws.Opcode.event rfl rfl
theorem Sys2Proof.Laws.Opcode.deviceReset : Sys2Proof.Laws.Opcode.Statement .deviceReset :=
  Sys2Proof.Laws.Opcode.event rfl rfl
theorem Sys2Proof.Laws.Opcode.scrubSector (unit sector : Nat) : Sys2Proof.Laws.Opcode.Statement (.scrubSector unit sector) :=
  Sys2Proof.Laws.Opcode.event rfl rfl
theorem Sys2Proof.Laws.Opcode.enumerate (node : Nat) : Sys2Proof.Laws.Opcode.Statement (.enumerate node) :=
  Sys2Proof.Laws.Opcode.event rfl rfl
theorem Sys2Proof.Laws.Opcode.loadImage (req : ImageReq) : Sys2Proof.Laws.Opcode.Statement (.loadImage req) :=
  Sys2Proof.Laws.Opcode.event rfl rfl
theorem Sys2Proof.Laws.Opcode.unloadImage (image : Nat) : Sys2Proof.Laws.Opcode.Statement (.unloadImage image) :=
  Sys2Proof.Laws.Opcode.event rfl rfl
theorem Sys2Proof.Laws.Opcode.queueCreate (req : QueueReq) : Sys2Proof.Laws.Opcode.Statement (.queueCreate req) :=
  Sys2Proof.Laws.Opcode.event rfl rfl
theorem Sys2Proof.Laws.Opcode.queueEnable (qid : Nat) : Sys2Proof.Laws.Opcode.Statement (.queueEnable qid) :=
  Sys2Proof.Laws.Opcode.event rfl rfl
theorem Sys2Proof.Laws.Opcode.queueDisable (qid : Nat) : Sys2Proof.Laws.Opcode.Statement (.queueDisable qid) :=
  Sys2Proof.Laws.Opcode.event rfl rfl
theorem Sys2Proof.Laws.Opcode.deviceQueue (qid : Nat) : Sys2Proof.Laws.Opcode.Statement (.deviceQueue qid) :=
  Sys2Proof.Laws.Opcode.event rfl rfl
theorem Sys2Proof.Laws.Opcode.aperture (i : Nat) (ap : Aperture) : Sys2Proof.Laws.Opcode.Statement (.aperture i ap) :=
  Sys2Proof.Laws.Opcode.event rfl rfl
theorem Sys2Proof.Laws.Opcode.importWrite (i : Nat) (entry : ImportEntry) : Sys2Proof.Laws.Opcode.Statement (.importWrite i entry) :=
  Sys2Proof.Laws.Opcode.event rfl rfl
theorem Sys2Proof.Laws.Opcode.colset (set : Nat) (cs : CollectiveSet) : Sys2Proof.Laws.Opcode.Statement (.colset set cs) :=
  Sys2Proof.Laws.Opcode.event rfl rfl
theorem Sys2Proof.Laws.Opcode.wlen (ns : Nat) : Sys2Proof.Laws.Opcode.Statement (.wlen ns) :=
  Sys2Proof.Laws.Opcode.event rfl rfl
theorem Sys2Proof.Laws.Opcode.dieReset (die : Nat) : Sys2Proof.Laws.Opcode.Statement (.dieReset die) :=
  Sys2Proof.Laws.Opcode.event rfl rfl
theorem Sys2Proof.Laws.Opcode.dieReadmit (die : Nat) : Sys2Proof.Laws.Opcode.Statement (.dieReadmit die) :=
  Sys2Proof.Laws.Opcode.event rfl rfl
theorem Sys2Proof.Laws.Opcode.fwStage (fw : Firmware) : Sys2Proof.Laws.Opcode.Statement (.fwStage fw) :=
  Sys2Proof.Laws.Opcode.event rfl rfl
theorem Sys2Proof.Laws.Opcode.attest (nonce : List Byte) : Sys2Proof.Laws.Opcode.Statement (.attest nonce) :=
  Sys2Proof.Laws.Opcode.event rfl rfl
theorem Sys2Proof.Laws.Opcode.scrub (pa units : Nat) : Sys2Proof.Laws.Opcode.Statement (.scrub pa units) :=
  Sys2Proof.Laws.Opcode.event rfl rfl
theorem Sys2Proof.Laws.Opcode.msgepDefine (req : EndpointReq) : Sys2Proof.Laws.Opcode.Statement (.msgepDefine req) :=
  Sys2Proof.Laws.Opcode.event rfl rfl
theorem Sys2Proof.Laws.Opcode.msgepRemove (ep : Nat) : Sys2Proof.Laws.Opcode.Statement (.msgepRemove ep) :=
  Sys2Proof.Laws.Opcode.event rfl rfl
theorem Sys2Proof.Laws.Opcode.partitionWrite (core part : Nat) (w : BitVec 128) : Sys2Proof.Laws.Opcode.Statement (.partitionWrite core part w) :=
  Sys2Proof.Laws.Opcode.event rfl rfl
theorem Sys2Proof.Laws.Opcode.tileTaskBindingWrite (cluster q : Nat) (w : BitVec 128) : Sys2Proof.Laws.Opcode.Statement (.tileTaskBindingWrite cluster q w) :=
  Sys2Proof.Laws.Opcode.event rfl rfl
theorem Sys2Proof.Laws.Opcode.policyControlWrite (die field tenant value : Nat) : Sys2Proof.Laws.Opcode.Statement (.policyControlWrite die field tenant value) :=
  Sys2Proof.Laws.Opcode.event rfl rfl
theorem Sys2Proof.Laws.Opcode.storeAcknowledged (id : Nat) : Sys2Proof.Laws.Opcode.Statement (.storeAcknowledged id) :=
  Sys2Proof.Laws.Opcode.event rfl rfl
theorem Sys2Proof.Laws.Opcode.heldRemoteStoreSend (g : Nat) : Sys2Proof.Laws.Opcode.Statement (.heldRemoteStoreSend g) :=
  Sys2Proof.Laws.Opcode.event rfl rfl
theorem Sys2Proof.Laws.Opcode.fabricTakesPortElements (g port n : Nat) : Sys2Proof.Laws.Opcode.Statement (.fabricTakesPortElements g port n) :=
  Sys2Proof.Laws.Opcode.event rfl rfl
theorem Sys2Proof.Laws.Opcode.eheadWrite (qid : Nat) (head : Word) : Sys2Proof.Laws.Opcode.Statement (.eheadWrite qid head) :=
  Sys2Proof.Laws.Opcode.event rfl rfl
theorem Sys2Proof.Laws.Opcode.dieResetWithoutQuiesce (die : Nat) (core : Option Nat) : Sys2Proof.Laws.Opcode.Statement (.dieResetWithoutQuiesce die core) :=
  Sys2Proof.Laws.Opcode.event rfl rfl
theorem Sys2Proof.Laws.Opcode.thermalNormal (temp : Nat) : Sys2Proof.Laws.Opcode.Statement (.thermalNormal temp) :=
  Sys2Proof.Laws.Opcode.event rfl rfl
theorem Sys2Proof.Laws.Opcode.powerCapSet (watts : Nat) : Sys2Proof.Laws.Opcode.Statement (.powerCapSet watts) :=
  Sys2Proof.Laws.Opcode.event rfl rfl
theorem Sys2Proof.Laws.Opcode.hardwareStridePrefetch (core pa : Nat) : Sys2Proof.Laws.Opcode.Statement (.hardwareStridePrefetch core pa) :=
  Sys2Proof.Laws.Opcode.event rfl rfl
end

