-- ==== Sys2Proof/Tests/Slice0.lean ====
section
/-!
SUPPORT. Tests: words written out from the encodings decode to their instructions, ill-formed terms are refused, single
steps on small states, and for every statement with hypotheses a state and operands that meet them.
-/

namespace Sys2Proof.Tests

open Sys2Proof Sys2Proof.Machine

set_option maxRecDepth 100000

/-! ### Decoding (words from the layouts of R57 to R64 and the opcode table) -/

theorem test_decode_nop_to_exit :
    decodeWords [0x00000000#32] = .ok (.nop { form := .b3 }) 4 ∧
    decodeWords [0xFFE00004#32] = .ok (.bra { form := .bj, off := 32752#15 }) 4 ∧
    decodeWords [0x02080C0A#32, 0x00000000#32, 0x000FE07F#32] = .ok (.brc { form := .x, d := 3#7, a := 4#7, b := 2#7, wb := 0#5 }) 12 ∧
    decodeWords [0x00080C0C#32] = .ok (.brx { form := .b3, d := 3#7, a := 4#7 }) 4 ∧
    decodeWords [0xFFE00C10#32] = .ok (.call { form := .bj, d := 3#7, off := 32752#15 }) 4 ∧
    decodeWords [0x00080014#32] = .ok (.ret { form := .b3, a := 4#7 }) 4 ∧
    decodeWords [0x0006143A#32, 0x00000082#32, 0x000FE07F#32] = .ok (.loopb { form := .x, d := 5#7, a := 3#7, c := 2#7, e := 1#7, wb := 0#5 }) 12 ∧
    decodeWords [0x00000018#32] = .ok (.exit { form := .b3 }) 4 := by decide

theorem test_decode_yield_to_movc :
    decodeWords [0x0000001C#32] = .ok (.yield { form := .b3 }) 4 ∧
    decodeWords [0x15080020#32] = .ok (.waitc { form := .bi, a := 4#7, imm := 21#8 }) 4 ∧
    decodeWords [0x15000024#32] = .ok (.bar { form := .bi, imm := 21#8 }) 4 ∧
    decodeWords [0x0000002A#32, 0x00000000#32, 0x000FE07F#32] = .ok (.gbarSync { form := .x, wb := 0#5 }) 12 ∧
    decodeWords [0x0000002A#32, 0x00004000#32, 0x000FE07F#32] = .ok (.gbarArrive { form := .x, sub := 1#8, wb := 0#5 }) 12 ∧
    decodeWords [0x0000002A#32, 0x00008000#32, 0x000FE07F#32] = .ok (.gbarWait { form := .x, sub := 2#8, wb := 0#5 }) 12 ∧
    decodeWords [0x0200002E#32, 0x00800000#32, 0x000FE07F#32] = .ok (.twait { form := .x, b := 2#7, wb := 2#5 }) 12 ∧
    decodeWords [0x0A000C3C#32] = .ok (.movc { form := .bi, d := 3#7, imm := 10#8 }) 4 := by decide

theorem test_decode_movcTimelo_to_trap :
    decodeWords [0x09000C3C#32] = .ok (.movcTimelo { form := .bi, d := 3#7, imm := 9#8 }) 4 ∧
    decodeWords [0x0D080040#32] = .ok (.movtc { form := .bi, a := 4#7, imm := 13#8 }) 4 ∧
    decodeWords [0x0E080040#32] = .ok (.movtcQmap { form := .bi, a := 4#7, imm := 14#8 }) 4 ∧
    decodeWords [0x12080040#32] = .ok (.movtcParkmask { form := .bi, a := 4#7, imm := 18#8 }) 4 ∧
    decodeWords [0x0C080040#32] = .ok (.movtcPart { form := .bi, a := 4#7, imm := 12#8 }) 4 ∧
    decodeWords [0x1A080040#32] = .ok (.movtcAccst { form := .bi, a := 4#7, imm := 26#8 }) 4 ∧
    decodeWords [0x23080040#32] = .ok (.movtcTc { form := .bi, a := 4#7, imm := 35#8 }) 4 ∧
    decodeWords [0x15000030#32] = .ok (.trap { form := .bi, imm := 21#8 }) 4 := by decide

theorem test_decode_tret_to_imulh :
    decodeWords [0x00000034#32] = .ok (.tret { form := .b3 }) 4 ∧
    decodeWords [0x02080C80#32] = .ok (.iadd { form := .b3, d := 3#7, a := 4#7, b := 2#7 }) 4 ∧
    decodeWords [0x15080F00#32] = .ok (.iaddImm { form := .bi, d := 3#7, a := 4#7, imm := 21#8 }) 4 ∧
    decodeWords [0x02080C84#32] = .ok (.isub { form := .b3, d := 3#7, a := 4#7, b := 2#7 }) 4 ∧
    decodeWords [0x15080F04#32] = .ok (.isubImm { form := .bi, d := 3#7, a := 4#7, imm := 21#8 }) 4 ∧
    decodeWords [0x02080C90#32] = .ok (.imul { form := .b3, d := 3#7, a := 4#7, b := 2#7 }) 4 ∧
    decodeWords [0x15080F10#32] = .ok (.imulImm { form := .bi, d := 3#7, a := 4#7, imm := 21#8 }) 4 ∧
    decodeWords [0x02080C94#32] = .ok (.imulh { form := .b3, d := 3#7, a := 4#7, b := 2#7 }) 4 := by decide

theorem test_decode_imulhImm_to_or :
    decodeWords [0x15080F14#32] = .ok (.imulhImm { form := .bi, d := 3#7, a := 4#7, imm := 21#8 }) 4 ∧
    decodeWords [0x02080CA0#32] = .ok (.imin { form := .b3, d := 3#7, a := 4#7, b := 2#7 }) 4 ∧
    decodeWords [0x15080F20#32] = .ok (.iminImm { form := .bi, d := 3#7, a := 4#7, imm := 21#8 }) 4 ∧
    decodeWords [0x02080CA4#32] = .ok (.imax { form := .b3, d := 3#7, a := 4#7, b := 2#7 }) 4 ∧
    decodeWords [0x15080F24#32] = .ok (.imaxImm { form := .bi, d := 3#7, a := 4#7, imm := 21#8 }) 4 ∧
    decodeWords [0x02080CC0#32] = .ok (.and { form := .b3, d := 3#7, a := 4#7, b := 2#7 }) 4 ∧
    decodeWords [0x15080F40#32] = .ok (.andImm { form := .bi, d := 3#7, a := 4#7, imm := 21#8 }) 4 ∧
    decodeWords [0x02080CC4#32] = .ok (.or { form := .b3, d := 3#7, a := 4#7, b := 2#7 }) 4 := by decide

theorem test_decode_orImm_to_shr :
    decodeWords [0x15080F44#32] = .ok (.orImm { form := .bi, d := 3#7, a := 4#7, imm := 21#8 }) 4 ∧
    decodeWords [0x02080CC8#32] = .ok (.xor { form := .b3, d := 3#7, a := 4#7, b := 2#7 }) 4 ∧
    decodeWords [0x15080F48#32] = .ok (.xorImm { form := .bi, d := 3#7, a := 4#7, imm := 21#8 }) 4 ∧
    decodeWords [0x02080CCC#32] = .ok (.andn { form := .b3, d := 3#7, a := 4#7, b := 2#7 }) 4 ∧
    decodeWords [0x15080F4C#32] = .ok (.andnImm { form := .bi, d := 3#7, a := 4#7, imm := 21#8 }) 4 ∧
    decodeWords [0x02080CD0#32] = .ok (.shl { form := .b3, d := 3#7, a := 4#7, b := 2#7 }) 4 ∧
    decodeWords [0x15080F50#32] = .ok (.shlImm { form := .bi, d := 3#7, a := 4#7, imm := 21#8 }) 4 ∧
    decodeWords [0x02080CD4#32] = .ok (.shr { form := .b3, d := 3#7, a := 4#7, b := 2#7 }) 4 := by decide

theorem test_decode_shrImm_to_popc :
    decodeWords [0x15080F54#32] = .ok (.shrImm { form := .bi, d := 3#7, a := 4#7, imm := 21#8 }) 4 ∧
    decodeWords [0x02080CD8#32] = .ok (.sar { form := .b3, d := 3#7, a := 4#7, b := 2#7 }) 4 ∧
    decodeWords [0x15080F58#32] = .ok (.sarImm { form := .bi, d := 3#7, a := 4#7, imm := 21#8 }) 4 ∧
    decodeWords [0x02080CDC#32] = .ok (.rot { form := .b3, d := 3#7, a := 4#7, b := 2#7 }) 4 ∧
    decodeWords [0x15080F5C#32] = .ok (.rotImm { form := .bi, d := 3#7, a := 4#7, imm := 21#8 }) 4 ∧
    decodeWords [0x00080CA8#32] = .ok (.iabs { form := .b3, d := 3#7, a := 4#7 }) 4 ∧
    decodeWords [0x00080CB8#32] = .ok (.mov { form := .b3, d := 3#7, a := 4#7 }) 4 ∧
    decodeWords [0x00080CE8#32] = .ok (.popc { form := .b3, d := 3#7, a := 4#7 }) 4 := by decide

theorem test_decode_clz_to_icmp :
    decodeWords [0x00080CEC#32] = .ok (.clz { form := .b3, d := 3#7, a := 4#7 }) 4 ∧
    decodeWords [0x00080CF0#32] = .ok (.brev { form := .b3, d := 3#7, a := 4#7 }) 4 ∧
    decodeWords [0x15000CBC#32] = .ok (.movi { form := .bi, d := 3#7, imm := 21#8 }) 4 ∧
    decodeWords [0x02080C8A#32, 0x01C00386#32, 0x000FE07F#32] = .ok (.iaddc { form := .x, d := 3#7, a := 4#7, b := 2#7, c := 6#7, e := 7#7, wb := 7#5 }) 12 ∧
    decodeWords [0x02080C8E#32, 0x01C00386#32, 0x000FE07F#32] = .ok (.isubb { form := .x, d := 3#7, a := 4#7, b := 2#7, c := 6#7, e := 7#7, wb := 7#5 }) 12 ∧
    decodeWords [0x02080C9A#32, 0x01C00006#32, 0x000FE07F#32] = .ok (.imad { form := .x, d := 3#7, a := 4#7, b := 2#7, c := 6#7, wb := 7#5 }) 12 ∧
    decodeWords [0x02080C9E#32, 0x01C04006#32, 0x000FE07F#32] = .ok (.imadw { form := .x, d := 3#7, a := 4#7, b := 2#7, c := 6#7, sub := 1#8, wb := 7#5 }) 12 ∧
    decodeWords [0x02080CAE#32, 0x00C1C380#32, 0x000FE07F#32] = .ok (.icmp { form := .x, d := 3#7, a := 4#7, b := 2#7, e := 7#7, sub := 7#8, wb := 3#5 }) 12 := by decide

theorem test_decode_sel_to_fmul :
    decodeWords [0x02080CB2#32, 0x01C00386#32, 0x000FE07F#32] = .ok (.sel { form := .x, d := 3#7, a := 4#7, b := 2#7, c := 6#7, e := 7#7, wb := 7#5 }) 12 ∧
    decodeWords [0x02080CB6#32, 0x00C00380#32, 0x000FE07F#32] = .ok (.lea { form := .x, d := 3#7, a := 4#7, b := 2#7, e := 7#7, wb := 3#5 }) 12 ∧
    decodeWords [0x02080CE2#32, 0x00C04000#32, 0x000FE07F#32] = .ok (.bfe { form := .x, d := 3#7, a := 4#7, b := 2#7, sub := 1#8, wb := 3#5 }) 12 ∧
    decodeWords [0x02080CE6#32, 0x01C00006#32, 0x000FE07F#32] = .ok (.bfi { form := .x, d := 3#7, a := 4#7, b := 2#7, c := 6#7, wb := 7#5 }) 12 ∧
    decodeWords [0x02080CF6#32, 0x01C04006#32, 0x000FE07F#32] = .ok (.bytx { form := .x, d := 3#7, a := 4#7, b := 2#7, c := 6#7, sub := 1#8, wb := 7#5 }) 12 ∧
    decodeWords [0x02080D00#32] = .ok (.fadd { form := .b3, d := 3#7, a := 4#7, b := 2#7 }) 4 ∧
    decodeWords [0x02080D04#32] = .ok (.fsub { form := .b3, d := 3#7, a := 4#7, b := 2#7 }) 4 ∧
    decodeWords [0x02080D08#32] = .ok (.fmul { form := .b3, d := 3#7, a := 4#7, b := 2#7 }) 4 := by decide

theorem test_decode_ffma_to_f2i :
    decodeWords [0x02080D0E#32, 0x01C00006#32, 0x000FE07F#32] = .ok (.ffma { form := .x, d := 3#7, a := 4#7, b := 2#7, c := 6#7, wb := 7#5 }) 12 ∧
    decodeWords [0x02080D10#32] = .ok (.fmin { form := .b3, d := 3#7, a := 4#7, b := 2#7 }) 4 ∧
    decodeWords [0x02080D14#32] = .ok (.fmax { form := .b3, d := 3#7, a := 4#7, b := 2#7 }) 4 ∧
    decodeWords [0x02080D1A#32, 0x00C0C380#32, 0x000FE07F#32] = .ok (.fcmp { form := .x, d := 3#7, a := 4#7, b := 2#7, e := 7#7, sub := 3#8, wb := 3#5 }) 12 ∧
    decodeWords [0x00080D1E#32, 0x00400000#32, 0x000FE07F#32] = .ok (.fclass { form := .x, d := 3#7, a := 4#7, wb := 1#5 }) 12 ∧
    decodeWords [0x00080D22#32, 0x00410000#32, 0x000FE07F#32] = .ok (.frnd { form := .x, d := 3#7, a := 4#7, sub := 4#8, wb := 1#5 }) 12 ∧
    decodeWords [0x00080D36#32, 0x00580000#32, 0x000FE07F#32] = .ok (.cvt { form := .x, d := 3#7, a := 4#7, sub := 96#8, wb := 1#5 }) 12 ∧
    decodeWords [0x00080D3A#32, 0x00424000#32, 0x000FE07F#32] = .ok (.f2i { form := .x, d := 3#7, a := 4#7, sub := 9#8, wb := 1#5 }) 12 := by decide

theorem test_decode_i2f_to_dumax :
    decodeWords [0x00080D3E#32, 0x00400000#32, 0x000FE07F#32] = .ok (.i2f { form := .x, d := 3#7, a := 4#7, wb := 1#5 }) 12 ∧
    decodeWords [0x00080D42#32, 0x00584000#32, 0x000FE07F#32] = .ok (.pack { form := .x, d := 3#7, a := 4#7, sub := 97#8, wb := 1#5 }) 12 ∧
    decodeWords [0x00080D46#32, 0x00584000#32, 0x000FE07F#32] = .ok (.unpk { form := .x, d := 3#7, a := 4#7, sub := 97#8, wb := 1#5 }) 12 ∧
    decodeWords [0x00080D4A#32, 0x00408000#32, 0x000FE07F#32] = .ok (.bscl { form := .x, d := 3#7, a := 4#7, sub := 2#8, wb := 1#5 }) 12 ∧
    decodeWords [0x02080D26#32, 0x00C08000#32, 0x000FE07F#32] = .ok (.duadd { form := .x, d := 3#7, a := 4#7, b := 2#7, sub := 2#8, wb := 3#5 }) 12 ∧
    decodeWords [0x02080D28#32] = .ok (.dumul { form := .b3, d := 3#7, a := 4#7, b := 2#7 }) 4 ∧
    decodeWords [0x02080D2E#32, 0x01C00006#32, 0x000FE07F#32] = .ok (.dufma { form := .x, d := 3#7, a := 4#7, b := 2#7, c := 6#7, wb := 7#5 }) 12 ∧
    decodeWords [0x02080D32#32, 0x00C14000#32, 0x000FE07F#32] = .ok (.dumax { form := .x, d := 3#7, a := 4#7, b := 2#7, sub := 5#8, wb := 3#5 }) 12 := by decide

theorem test_decode_rcp_to_tanh :
    decodeWords [0x00080D60#32] = .ok (.rcp { form := .b3, d := 3#7, a := 4#7 }) 4 ∧
    decodeWords [0x00080D64#32] = .ok (.rsq { form := .b3, d := 3#7, a := 4#7 }) 4 ∧
    decodeWords [0x00080D68#32] = .ok (.sqrt { form := .b3, d := 3#7, a := 4#7 }) 4 ∧
    decodeWords [0x00080D6C#32] = .ok (.ex2 { form := .b3, d := 3#7, a := 4#7 }) 4 ∧
    decodeWords [0x00080D70#32] = .ok (.lg2 { form := .b3, d := 3#7, a := 4#7 }) 4 ∧
    decodeWords [0x00080D74#32] = .ok (.sin { form := .b3, d := 3#7, a := 4#7 }) 4 ∧
    decodeWords [0x00080D78#32] = .ok (.cos { form := .b3, d := 3#7, a := 4#7 }) 4 ∧
    decodeWords [0x00080D7C#32] = .ok (.tanh { form := .b3, d := 3#7, a := 4#7 }) 4 := by decide

theorem test_decode_vote_to_ld :
    decodeWords [0x02080D82#32, 0x01C10386#32, 0x000FE07F#32] = .ok (.vote { form := .x, d := 3#7, a := 4#7, b := 2#7, c := 6#7, e := 7#7, sub := 4#8, wb := 7#5 }) 12 ∧
    decodeWords [0x02080D86#32, 0x01C0C386#32, 0x000FE07F#32] = .ok (.shfl { form := .x, d := 3#7, a := 4#7, b := 2#7, c := 6#7, e := 7#7, sub := 3#8, wb := 7#5 }) 12 ∧
    decodeWords [0x02080D8A#32, 0x01C14386#32, 0x000FE07F#32] = .ok (.mred { form := .x, d := 3#7, a := 4#7, b := 2#7, c := 6#7, e := 7#7, sub := 5#8, wb := 7#5 }) 12 ∧
    decodeWords [0x02080D8E#32, 0x01C04386#32, 0x000FE07F#32] = .ok (.matchLanes { form := .x, d := 3#7, a := 4#7, b := 2#7, c := 6#7, e := 7#7, sub := 1#8, wb := 7#5 }) 12 ∧
    decodeWords [0x02080D92#32, 0x01C54386#32, 0x000FE07F#32] = .ok (.scan { form := .x, d := 3#7, a := 4#7, b := 2#7, c := 6#7, e := 7#7, sub := 21#8, wb := 7#5 }) 12 ∧
    decodeWords [0x02080D96#32, 0x01C18386#32, 0x000FE07F#32] = .ok (.tred { form := .x, d := 3#7, a := 4#7, b := 2#7, c := 6#7, e := 7#7, sub := 6#8, wb := 7#5 }) 12 ∧
    decodeWords [0x00000D9A#32, 0x0000C000#32, 0x000FE07F#32] = .ok (.part { form := .x, d := 3#7, sub := 3#8, wb := 0#5 }) 12 ∧
    decodeWords [0x00080DC2#32, 0x004A0386#32, 0x000FE07F#32] = .ok (.ld { form := .x, d := 3#7, a := 4#7, c := 6#7, e := 7#7, sub := 40#8, wb := 1#5 }) 12 := by decide

theorem test_decode_ldFx_to_rel :
    decodeWords [0x02080DC2#32, 0x00CE0386#32, 0x000FE07F#32] = .ok (.ldFx { form := .x, d := 3#7, a := 4#7, b := 2#7, c := 6#7, e := 7#7, sub := 56#8, wb := 3#5 }) 12 ∧
    decodeWords [0x020801C6#32, 0x00CA0386#32, 0x000FE07F#32] = .ok (.st { form := .x, a := 4#7, b := 2#7, c := 6#7, e := 7#7, sub := 40#8, wb := 3#5 }) 12 ∧
    decodeWords [0x000801CA#32, 0x00400386#32, 0x000FE07F#32] = .ok (.prf { form := .x, a := 4#7, c := 6#7, e := 7#7, wb := 1#5 }) 12 ∧
    decodeWords [0x02080DCE#32, 0x00C50386#32, 0x000FE07F#32] = .ok (.amo { form := .x, d := 3#7, a := 4#7, b := 2#7, c := 6#7, e := 7#7, sub := 20#8, wb := 3#5 }) 12 ∧
    decodeWords [0x02080DD2#32, 0x01C04006#32, 0x000FE07F#32] = .ok (.cas { form := .x, d := 3#7, a := 4#7, b := 2#7, c := 6#7, sub := 1#8, wb := 7#5 }) 12 ∧
    decodeWords [0x000001D6#32, 0x0000C000#32, 0x000FE07F#32] = .ok (.fence { form := .x, sub := 3#8, wb := 0#5 }) 12 ∧
    decodeWords [0x000001DA#32, 0x00008000#32, 0x000FE07F#32] = .ok (.acq { form := .x, sub := 2#8, wb := 0#5 }) 12 ∧
    decodeWords [0x000001DE#32, 0x00010000#32, 0x000FE07F#32] = .ok (.rel { form := .x, sub := 4#8, wb := 0#5 }) 12 := by decide

theorem test_decode_acqr_to_accz :
    decodeWords [0x020801E2#32, 0x01C0C006#32, 0x000FE07F#32] = .ok (.acqr { form := .x, a := 4#7, b := 2#7, c := 6#7, sub := 3#8, wb := 7#5 }) 12 ∧
    decodeWords [0x020801E6#32, 0x00C00000#32, 0x000FE07F#32] = .ok (.invr { form := .x, a := 4#7, b := 2#7, wb := 3#5 }) 12 ∧
    decodeWords [0x020801EA#32, 0x00C00000#32, 0x000FE07F#32] = .ok (.wbr { form := .x, a := 4#7, b := 2#7, wb := 3#5 }) 12 ∧
    decodeWords [0x02080E02#32, 0x01C04006#32, 0x000FE07F#32] = .ok (.tld { form := .x, d := 3#7, a := 4#7, b := 2#7, c := 6#7, sub := 1#8, wb := 7#5 }) 12 ∧
    decodeWords [0x02080206#32, 0x01C00006#32, 0x000FE07F#32] = .ok (.tst { form := .x, a := 4#7, b := 2#7, c := 6#7, wb := 7#5 }) 12 ∧
    decodeWords [0x00080E0A#32, 0x00400000#32, 0x000FE07F#32] = .ok (.tmov { form := .x, d := 3#7, a := 4#7, wb := 1#5 }) 12 ∧
    decodeWords [0x02080E0E#32, 0x00C48000#32, 0x000FE07F#32] = .ok (.mma { form := .x, d := 3#7, a := 4#7, b := 2#7, sub := 18#8, wb := 3#5 }) 12 ∧
    decodeWords [0x00000E12#32, 0x00000000#32, 0x000FE07F#32] = .ok (.accz { form := .x, d := 3#7, wb := 0#5 }) 12 := by decide

theorem test_decode_accwin_to_gath :
    decodeWords [0x00080E16#32, 0x00400000#32, 0x000FE07F#32] = .ok (.accwin { form := .x, d := 3#7, a := 4#7, wb := 1#5 }) 12 ∧
    decodeWords [0x02080E1A#32, 0x0080C000#32, 0x000FE07F#32] = .ok (.accrd { form := .x, d := 3#7, a := 4#7, b := 2#7, sub := 3#8, wb := 2#5 }) 12 ∧
    decodeWords [0x00080E1E#32, 0x00000000#32, 0x000FE07F#32] = .ok (.accadd { form := .x, d := 3#7, a := 4#7, wb := 0#5 }) 12 ∧
    decodeWords [0x00080E22#32, 0x00400000#32, 0x000FE07F#32] = .ok (.accld { form := .x, d := 3#7, a := 4#7, wb := 1#5 }) 12 ∧
    decodeWords [0x02080226#32, 0x00400000#32, 0x000FE07F#32] = .ok (.accst { form := .x, a := 4#7, b := 2#7, wb := 1#5 }) 12 ∧
    decodeWords [0x02080E2A#32, 0x01C00006#32, 0x000FE07F#32] = .ok (.clasp { form := .x, d := 3#7, a := 4#7, b := 2#7, c := 6#7, wb := 7#5 }) 12 ∧
    decodeWords [0x00080242#32, 0x00410000#32, 0x000FE07F#32] = .ok (.cpy { form := .x, a := 4#7, sub := 4#8, wb := 1#5 }) 12 ∧
    decodeWords [0x02080E46#32, 0x02C00380#32, 0x000FE07F#32] = .ok (.gath { form := .x, d := 3#7, a := 4#7, b := 2#7, e := 7#7, wb := 11#5 }) 12 := by decide

theorem test_decode_scat_to_kqpush :
    decodeWords [0x0208024A#32, 0x03C00386#32, 0x000FE07F#32] = .ok (.scat { form := .x, a := 4#7, b := 2#7, c := 6#7, e := 7#7, wb := 15#5 }) 12 ∧
    decodeWords [0x0008024E#32, 0x00428000#32, 0x000FE07F#32] = .ok (.col { form := .x, a := 4#7, sub := 10#8, wb := 1#5 }) 12 ∧
    decodeWords [0x00080252#32, 0x00408000#32, 0x000FE07F#32] = .ok (.bnk { form := .x, a := 4#7, sub := 2#8, wb := 1#5 }) 12 ∧
    decodeWords [0x02080256#32, 0x00C00000#32, 0x000FE07F#32] = .ok (.boini { form := .x, a := 4#7, b := 2#7, wb := 3#5 }) 12 ∧
    decodeWords [0x02080E5A#32, 0x00C00000#32, 0x000FE07F#32] = .ok (.boarr { form := .x, d := 3#7, a := 4#7, b := 2#7, wb := 3#5 }) 12 ∧
    decodeWords [0x0208025E#32, 0x00C00000#32, 0x000FE07F#32] = .ok (.bowait { form := .x, a := 4#7, b := 2#7, wb := 3#5 }) 12 ∧
    decodeWords [0x02080282#32, 0x00C00000#32, 0x000FE07F#32] = .ok (.kqcfg { form := .x, a := 4#7, b := 2#7, wb := 3#5 }) 12 ∧
    decodeWords [0x02080286#32, 0x01C04386#32, 0x000FE07F#32] = .ok (.kqpush { form := .x, a := 4#7, b := 2#7, c := 6#7, e := 7#7, sub := 1#8, wb := 7#5 }) 12 := by decide

theorem test_decode_kqtake_to_tlbinv :
    decodeWords [0x02000E8A#32, 0x00800000#32, 0x000FE07F#32] = .ok (.kqtake { form := .x, d := 3#7, b := 2#7, wb := 2#5 }) 12 ∧
    decodeWords [0x02080E8A#32, 0x00C08006#32, 0x000FE07F#32] = .ok (.kqtakePort { form := .x, d := 3#7, a := 4#7, b := 2#7, c := 6#7, sub := 2#8, wb := 3#5 }) 12 ∧
    decodeWords [0x02000E8E#32, 0x00804000#32, 0x000FE07F#32] = .ok (.kqsteal { form := .x, d := 3#7, b := 2#7, sub := 1#8, wb := 2#5 }) 12 ∧
    decodeWords [0x02000E92#32, 0x00800000#32, 0x000FE07F#32] = .ok (.kqstat { form := .x, d := 3#7, b := 2#7, wb := 2#5 }) 12 ∧
    decodeWords [0x02080EC2#32, 0x00C00000#32, 0x000FE07F#32] = .ok (.pctr { form := .x, d := 3#7, a := 4#7, b := 2#7, wb := 3#5 }) 12 ∧
    decodeWords [0x150802C4#32] = .ok (.pdec { form := .bi, a := 4#7, imm := 21#8 }) 4 ∧
    decodeWords [0x150802C8#32] = .ok (.evnt { form := .bi, a := 4#7, imm := 21#8 }) 4 ∧
    decodeWords [0x020802CE#32, 0x01C04006#32, 0x000FE07F#32] = .ok (.tlbinv { form := .x, a := 4#7, b := 2#7, c := 6#7, sub := 1#8, wb := 7#5 }) 12 := by decide

theorem test_decode_accspl_to_accfil :
    decodeWords [0x020802D2#32, 0x01C00006#32, 0x000FE07F#32] = .ok (.accspl { form := .x, a := 4#7, b := 2#7, c := 6#7, wb := 7#5 }) 12 ∧
    decodeWords [0x020802D6#32, 0x01C00006#32, 0x000FE07F#32] = .ok (.accfil { form := .x, a := 4#7, b := 2#7, c := 6#7, wb := 7#5 }) 12 := by decide

/-- U, the guards, the scheduling controls and the literal, each bit in its place (R63, R64). -/
theorem test_decode_fields :
    (let f : Fields := { form := .x, d := 3#7, a := 4#7, b := 2#7, u := true, wb := 0#5, g0 := ⟨5#7, 3#5, true⟩ }
     decodeWords [0x82080C82#32, 0#32, 0xD80FF185#32] = .ok (.iadd { f with hold := 2#2, burst := 5#3, cede := true }) 12) ∧
    (let f : Fields := { form := .xL, d := 3#7, a := 4#7, wb := 1#5, lit := 0x0123456789ABCDEF#64 }
     decodeWords [0x00080C83#32, 0x00400000#32, 0x000FE07F#32, 0x89ABCDEF#32, 0x01234567#32] = .ok (.iadd f) 20) := by decide

/-- Decoding refuses by cause (R69, R70): no OP, a form the OP does not take, a SUB outside its table, a reserved bit; too
few bytes. -/
theorem test_decode_refuses :
    decodeWords [0x00000044#32] = .bad .illegalOp 4 ∧ decodeWords [0x00000002#32, 0#32, 0x000FE07F#32] = .bad .illegalForm 12 ∧
    decodeWords [0x02080C82#32, 0x00008000#32, 0x000FE07F#32] = .bad .illegalSub 12 ∧
    decodeWords [0x02080C82#32, 0x80000000#32, 0x000FE07F#32] = .bad .illegalRsv 12 ∧
    decode [0x82#8, 0x0C#8, 0x08#8, 0x02#8] = .short := by decide

/-- The table's bit numbers: the first word holds bits 31..0. -/
theorem test_table_word : decodeTableWord 32 0x02020C80 = some (.iadd { form := .b3, d := 3#7, a := 1#7, b := 2#7 }) ∧
    decodeTableWord 32 0x00000044 = none := by decide

/-! ### Well-formed terms: each check refuses an ill-formed one -/

theorem test_wf_accepts : wf (.iadd { form := .b3, d := 3#7, a := 1#7, b := 2#7 }) = true := by decide
/-- A literal in a form that has none; a field of another form; a base form with other than its fixed settings (R61). -/
theorem test_wf_canonical :
    wf (.iadd { form := .b3, lit := 1#64 }) = false ∧ wf (.iadd { form := .b3, imm := 1#8 }) = false ∧
    wf (.iadd { form := .b3, wb := 0#5 }) = false := by decide
theorem test_wf_form : wf (.nop { form := .x, wb := 0#5 }) = false ∧ wf (.shlImm { form := .b3 }) = false := by decide
theorem test_wf_sub : wf (.iadd { form := .x, wb := 0#5, sub := 2#8 }) = false := by decide
theorem test_wf_reserved : wf (.iadd { form := .x, wb := 0#5, c := 1#7 }) = false ∧ wf (.nop { form := .b3, d := 1#7 }) = false := by
  decide
theorem test_wf_constructor : wf (.movcTimelo { form := .bi, d := 1#7, imm := 0x0A#8 }) = false ∧
    wf (.gbarSync { form := .x, wb := 0#5, sub := 1#8 }) = false := by decide
theorem test_wf_event : wf (.groupEnd 3) = false ∧ encode (.groupEnd 3) = [] := by decide

/-! ### Small states -/

/-- The conditions of an issue, computed. -/
def issuesB (s : State) (op : Nat) (f : Fields) (legal : Team → Group → Bool) (fx : Bool) : Bool :=
  s.exLanes op f != [] && (checkFields s.t s.g (isPolicy s.cur) op f (legal s.t s.g)).isNone &&
    (unmet s.g op f fx).isEmpty &&
    dstReady s.g (quartersOf (s.exLanes op f)) op f && s.g.atIssue.all fun l => (markedIn s.g op f fx (s.exLanes op f) l).isNone

theorem issues_of {s : State} {op : Nat} {f : Fields} {legal : Team → Group → Bool} {fx : Bool}
    (h : issuesB s op f legal fx = true) : Issues s op f legal fx := by
  simp only [issuesB, Bool.and_eq_true, List.all_eq_true, bne_iff_ne, Option.isNone_iff_eq_none, List.isEmpty_iff] at h
  obtain ⟨⟨⟨⟨h1, h2⟩, h3⟩, h4⟩, h5⟩ := h
  exact ⟨h1, h2, h3, h4, h5⟩

/-- A team of one group on core 0, and its group with lanes 0 and 1 at 0x1000. -/
def tm : Team := { regs := 64, tiles := 4, accs := 2, gang := 7 }
def gr : Group := { pc := [(0, 0x1000#64), (1, 0x1000#64)] }
def gr.at (rs : List (Nat × Word)) : Group := { gr with regs := rs }
/-- The machine with that team as context 1; `st gr` in a user context. -/
def st (g : Group) (t : Team := tm) : State := { cur := 64, groups := [(64, g)], teams := [(1, t)] }
/-- Fields of the X form. -/
def fx (d a b c e sub : Nat) (wb : BitVec 5 := 0#5) : Fields :=
  { form := .x, d := BitVec.ofNat 7 d, a := BitVec.ofNat 7 a, b := BitVec.ofNat 7 b, c := BitVec.ofNat 7 c,
    e := BitVec.ofNat 7 e, sub := BitVec.ofNat 8 sub, wb := wb }
def fb (d a b : Nat) : Fields := { form := .b3, d := BitVec.ofNat 7 d, a := BitVec.ofNat 7 a, b := BitVec.ofNat 7 b }
def fi (d a imm : Nat) : Fields := { form := .bi, d := BitVec.ofNat 7 d, a := BitVec.ofNat 7 a, imm := BitVec.ofNat 8 imm }

/-! ### Witnesses: checks, traps and stalls -/

theorem witness_StepRunsDecoded :
    let s := State.reset.withFetchWord 32 0x02020C80
    s.agenda = [] ∧ s.dev.off = false ∧ s.passTime.ended = none ∧ s.passTime.canIssue s.cur = true ∧
    isPolicy s.cur = false ∧ (s.passTime.group s.cur).issuePc.toNat % 4 = 0 ∧
    s.passTime.fetchWord s.cur (s.passTime.group s.cur).issuePc.toNat = .ok 0x02020C80#32 ∧
    s.passTime.fetchWords s.cur (s.passTime.group s.cur).issuePc.toNat (instrLen 0x02020C80#32 / 4) = .ok [0x02020C80#32] ∧
    decode (wordBytes [0x02020C80#32]) = .ok (.iadd { form := .b3, d := 3#7, a := 1#7, b := 2#7 }) 4 :=
  ⟨by decide, by decide, by decide, by decide, by decide, by decide, rfl, rfl, by decide⟩

/-- A policy engine whose routine is at a NOP. -/
def pol : State :=
  { cur := policyBase, groups := [(policyBase, { pc := [(0, 0#64)] })],
    engines := [(0, { run := some { req := ⟨1, 0, 0, 0⟩, tenant := 0, code := [0#32] } })] }
theorem witness_StepRunsDecoded_policy :
    pol.agenda = [] ∧ pol.dev.off = false ∧ pol.passTime.ended = none ∧ pol.passTime.canIssue pol.cur = true ∧
    isPolicy pol.cur = true ∧ (pol.passTime.engine (clusterOfEngine pol.cur)).run =
      some { req := ⟨1, 0, 0, 0⟩, tenant := 0, code := [0#32] } ∧
    decode (wordBytes (([0#32].drop ((pol.passTime.group pol.cur).issuePc.toNat / 4)).take 5)) = .ok (.nop { form := .b3 }) 4 ∧
    (pol.passTime.charge pol.cur (.nop { form := .b3 })).isSome = true := by decide

theorem witness_DecodeEncode : wf (.part { form := .x, d := 3#7, sub := 5#8, wb := 0#5 }) = true ∧
    decode (wordBytes (encode (.part { form := .x, d := 3#7, sub := 5#8, wb := 0#5 })) ++ [7#8]) =
      .ok (.part { form := .x, d := 3#7, sub := 5#8, wb := 0#5 }) 12 := by decide
theorem witness_EncodeDecode : decodeWords [0x02020C80#32] = .ok (.iadd (fb 3 1 2)) 4 := by decide

theorem witness_ChecksTrapEveryLane : (st gr).g.atIssue ≠ [] ∧ isPolicy (st gr).cur = false ∧ (st gr).t.sys = false ∧
    5 < bits (fx 0 0 0 0 0 6).sub.toNat 2 0 ∧ 5 < bits (fx 0 0 0 0 0 7).sub.toNat 2 0 := by decide

theorem witness_TrapEntersHandler :
    let s := st { gr with ctl := { troute := 0xFFFF#32 } }
    let r : Raised := ⟨1, .userTrap, some 5⟩
    isPolicy 64 = false ∧ trapCause [r] = some r ∧ (s.group 64).h = false ∧
    r.cause ∉ [Cause.notPresent, .accClaim, .preempt, .watchdog] ∧
    (∃ b, r.cause.routeBit = some b ∧ (s.group 64).ctl.troute.getLsbD b = true) ∧ ∀ x ∈ [r], x.lane < 32 := by
  refine ⟨by decide, by decide, by decide, by decide, ⟨_, rfl, by decide⟩, by decide⟩

theorem witness_SystemCauses :
    isPolicy 64 = false ∧ trapCause [⟨0, .accClaim, none⟩] = some ⟨0, .accClaim, none⟩ ∧
    trapCause [⟨0, .preempt, none⟩] = some ⟨0, .preempt, none⟩ ∧ trapCause [⟨31, .watchdog, none⟩] = some ⟨31, .watchdog, none⟩ ∧
    trapCause [⟨0, .userTrap, none⟩] = some ⟨0, .userTrap, none⟩ ∧
    Cause.userTrap ∉ [Cause.notPresent, .accClaim, .preempt, .watchdog] ∧ ((st { gr with h := true }).group 64).h = true ∧
    ((st gr).group 64).h = false ∧ (∀ b, Cause.userTrap.routeBit = some b → ((st gr).group 64).ctl.troute.getLsbD b = false) := by
  refine ⟨by decide, by decide, by decide, by decide, by decide, by decide, by decide, by decide, fun b _ => ?_⟩
  show (0#32).getLsbD b = false
  simp

/-- A waiting and a trapping form of IADD with an empty source, and one with an empty destination. -/
theorem witness_NotReady :
    let s := st { gr with empties := [(4 * 1, true)] }
    let f := fx 3 1 2 0 0 0
    let w := fx 3 1 2 0 0 0 1#5
    let d := fx 1 2 2 0 0 0
    aluOf (.iadd f) = some (.two 0x20 f (iaddRes 0)) ∧ s.g.atIssue ≠ [] ∧
    checkFields s.t s.g (isPolicy s.cur) 0x20 f true = none ∧ checkFields s.t s.g (isPolicy s.cur) 0x20 w true = none ∧
    checkFields s.t s.g (isPolicy s.cur) 0x20 d true = none ∧
    (unmet s.g 0x20 f false).findSome? Need.trap = some .feEmpty ∧
    (unmet s.g 0x20 w false).findSome? Need.trap = none ∧ unmet s.g 0x20 w false ≠ [] ∧
    (unmet s.g 0x20 d false).findSome? Need.trap = none ∧
    dstReady s.g (quartersOf (s.exLanes 0x20 d)) 0x20 d = false ∧
    -- a guard; a source before a guard that waits, in the order of check 9; and a source of a quarter that the guards exclude
    (unmet s.g 0x20 { w with a := 2#7, g0 := ⟨1#7, 0#5, true⟩ } false).findSome? Need.trap = some .feEmpty ∧
    (unmet { gr with empties := [(4 * 1, true), (4 * 5, true)] } 0x20
      { fx 3 1 2 0 0 0 16#5 with g0 := ⟨5#7, 0#5, true⟩ } false).findSome? Need.trap = some .feEmpty ∧
    unmet { gr with pc := gr.pc ++ [(9, 0x1000#64)], regs := [(32 * 5 + 9, 1#32)], empties := [(4 * 1, true)] } 0x20
      { w with g0 := ⟨5#7, 0#5, false⟩ } false = [] := by
  refine ⟨rfl, ?_⟩
  decide

/-- A guard whose bit is 0 in both lanes, with sense 1. -/
theorem witness_GuardedOff :
    let f := { fx 3 1 2 0 0 0 with g0 := ⟨5#7, 0#5, false⟩ }
    let s := st gr
    aluOf (.iadd f) = some (.two 0x20 f (iaddRes 0)) ∧ s.g.atIssue ≠ [] ∧
    checkFields s.t s.g (isPolicy s.cur) 0x20 f true = none ∧
    ((needs 0x20 f false).all fun n => n.met s.g [] 0) = true ∧ expected s.g 0x20 f = [] ∧
    (s.g.atIssue.all fun l => (markedIn s.g 0x20 f false [] l).isNone) = true := by
  refine ⟨rfl, ?_⟩
  decide

/-! ### Witnesses: register, SFU, cross-lane and control instructions -/

def gv : Group := gr.at [(32 * 1, 7#32), (32 * 1 + 1, 9#32), (32 * 2, 5#32), (32 * 2 + 1, 6#32), (32 * 8, 0x2000#32), (32 * 8 + 1, 0x2000#32),
  (32 * 10, 0xFFFFFFFF#32), (32 * 10 + 1, 0xFFFFFFFF#32)]
/-- Port 0 of kind 3 with two elements; port 1 of kind 4. -/
def gp : Group := { gv with ctl := { qmap := 0x43#32 }, ports := [(0, { elems := [1#32, 2#32] })] }

theorem witness_RegisterInstructions : aluOf (.iadd (fb 3 1 2)) = some (.two 0x20 (fb 3 1 2) (iaddRes 0)) ∧
    Issues (st gv) 0x20 (fb 3 1 2) (fun _ _ => true) false ∧ noPorts 0x20 (fb 3 1 2) :=
  ⟨rfl, issues_of (by decide), by decide⟩

theorem witness_PortsAndQueueFed :
    (aluOf (.iadd (fb 121 1 2)) = some (.two 0x20 (fb 121 1 2) (iaddRes 0)) ∧
      Issues (st gp) 0x20 (fb 121 1 2) (fun _ _ => true) false ∧ isPort (fb 121 1 2).d.toNat = true) ∧
    (aluOf (.iadd (fb 3 120 2)) = some (.two 0x20 (fb 3 120 2) (iaddRes 0)) ∧
      Issues (st gp) 0x20 (fb 3 120 2) (fun _ _ => true) false ∧ queueFed 0x20 (fb 3 120 2) = true ∧
      isPort (fb 3 120 2).d.toNat = false) :=
  ⟨⟨rfl, issues_of (by decide), by decide⟩, rfl, issues_of (by decide), by decide, by decide⟩

theorem witness_PairsAndCarries :
    (Issues (st gv) 0x22 (fx 3 1 2 5 31 0) (fun _ _ => bitE (fx 3 1 2 5 31 0)) false ∧ noPorts 0x22 (fx 3 1 2 5 31 0)) ∧
    (Issues (st gv) 0x23 (fx 3 1 2 3 0 0) (fun _ _ => bitE (fx 3 1 2 3 0 0)) false ∧ noPorts 0x23 (fx 3 1 2 3 0 0)) ∧
    (Issues (st gv) 0x27 (fx 4 1 2 6 0 1) always false ∧ queueFed 0x27 (fx 4 1 2 6 0 1) = false) ∧
    (Issues (st gv) 0x2D (fx 4 8 2 0 3 0) (fun _ _ => (fx 4 8 2 0 3 0).e.toNat < 8) false ∧
      queueFed 0x2D (fx 4 8 2 0 3 0) = false) :=
  ⟨⟨issues_of (by decide), by decide⟩, ⟨issues_of (by decide), by decide⟩, ⟨issues_of (by decide), by decide⟩,
    issues_of (by decide), by decide⟩

theorem witness_QueueFedPairsAndCarries :
    (Issues (st gp) 0x23 (fx 3 1 120 5 31 0) (fun _ _ => bitE (fx 3 1 120 5 31 0)) false ∧ queueFed 0x23 (fx 3 1 120 5 31 0) = true ∧
      isPort (fx 3 1 120 5 31 0).d.toNat = false) ∧
    (Issues (st gp) 0x27 (fx 4 120 2 6 0 1) (fun _ _ => true) false ∧ queueFed 0x27 (fx 4 120 2 6 0 1) = true) ∧
    (Issues (st gp) 0x2D (fx 4 8 120 0 3 0) (fun _ _ => decide ((fx 4 8 120 0 3 0).e.toNat < 8)) false ∧
      queueFed 0x2D (fx 4 8 120 0 3 0) = true) :=
  ⟨⟨issues_of (by decide), by decide⟩, ⟨issues_of (by decide), by decide⟩, issues_of (by decide), by decide⟩

/-- The SFU's queue with 31 of 32 entries, the oldest for register 9 of the group's lanes 0 and 1. -/
def sfuSt : State := { st gv with sfu := [(0, ⟨64, 9, 0, [(0, 3#32), (1, 4#32)], false⟩ :: List.replicate 30 ⟨64, 9, 0, [], false⟩)] }
theorem witness_SfuInstructions :
    (sfuOf (.rcp (fx 3 1 0 0 0 0)) = some (0x58, fx 3 1 0 0 0 0) ∧
      Issues sfuSt 0x58 (fx 3 1 0 0 0 0) (fun _ _ => !isPort (fx 3 1 0 0 0 0).d.toNat) false ∧
      (mget [] sfuSt.sfu (sfuSt.coreOf sfuSt.cur)).length + (quartersOf (sfuSt.exLanes 0x58 (fx 3 1 0 0 0 0))).length ≤ 32) ∧
    (mget [] sfuSt.sfu 0 = ⟨64, 9, 0, [(0, 3#32), (1, 4#32)], false⟩ :: List.replicate 30 ⟨64, 9, 0, [], false⟩ ∧
      (mfind 64 sfuSt.groups).isSome = true ∧ ([(0, 3#32), (1, 4#32)].map Prod.fst : List Nat).Nodup ∧
      ∀ x ∈ [((0 : Nat), 3#32), (1, 4#32)], x.1 < 32) :=
  ⟨⟨rfl, issues_of (by decide), by decide⟩, rfl, by decide, by decide, by decide⟩

/-- An entry whose group has still to meet its next instruction, and one whose group has ended. -/
theorem witness_SfuResultLands :
    (let s := { st gv with sfu := [(0, [⟨64, 9, 0, [], true⟩])] }
     mget [] s.sfu 0 = [⟨64, 9, 0, [], true⟩] ∧ (s.group 64).live ≠ [] ∧ s.runs 64 = true) ∧
    (let s := { st gv with sfu := [(0, [⟨65, 9, 0, [], true⟩])] }
     mget [] s.sfu 0 = [⟨65, 9, 0, [], true⟩] ∧ (s.group 65).live = [] ∧ mfind 65 s.groups = none) := by decide

theorem witness_CrossLaneInstructions :
    (laneOf (.scan (fx 3 1 10 4 7 0)) = some (0x64, fx 3 1 10 4 7 0, scanRes (fx 3 1 10 4 7 0), fun r l => r.status 0x64 (fx 3 1 10 4 7 0) l) ∧
      Issues (st gv) 0x64 (fx 3 1 10 4 7 0) (fun _ _ => bitE (fx 3 1 10 4 7 0)) false) ∧
    (Issues (st gv) 0x61 (fx 3 1 10 4 7 0) (fun _ _ => bitE (fx 3 1 10 4 7 0)) false) ∧
    Issues (st gv) 0x62 (fx 4 2 10 6 7 0) (fun _ _ => bitE (fx 4 2 10 6 7 0)) false ∧
    Issues (st gv) 0x62 (fx 4 2 10 5 7 0) (fun _ _ => bitE (fx 4 2 10 5 7 0)) false ∧
    (fx 3 1 10 4 7 4).sub = 4#8 ∧ (0 : Nat) ∈ ((st gv).rd 0x60 (fx 3 1 10 4 7 4)).part 0x60 (fx 3 1 10 4 7 4) 1 :=
  ⟨⟨rfl, issues_of (by decide)⟩, issues_of (by decide), issues_of (by decide), issues_of (by decide), by decide, by decide⟩

/-- PART with the smallest and the largest size; guarded off; MOVTC to PART. -/
theorem witness_PartInstruction :
    (Issues (st gv) 0x66 (fx 3 0 0 0 0 1) always false ∧ Issues (st gv) 0x66 (fx 3 0 0 0 0 5) always false) ∧
    (let f := { fx 3 0 0 0 0 5 with g0 := ⟨5#7, 0#5, false⟩ }
     gate (st gv) 64 0x66 f always false = .go (st gv).g.atIssue [] ∧ (st gv).exLanes 0x66 f = [] ∧
      markRaises (st gv).g 0x66 f false (st gv).g.atIssue [] = []) ∧
    (Issues (st gv) 0x10 (fi 0 2 0x0C) (fun _ _ => ctlWritable 0x0C) false ∧
      1 ≤ ((st gv).g.reg 2 0).toNat ∧ ((st gv).g.reg 2 0).toNat ≤ 5 ∧ lowest ((st gv).exLanes 0x10 (fi 0 2 0x0C)) = 0) ∧
    subOk 0x66 0 = false ∧ subOk 0x66 6 = false ∧ decodeCheck 0x66 (fx 3 0 0 0 0 5) false = none :=
  ⟨⟨issues_of (by decide), issues_of (by decide)⟩, by decide, ⟨issues_of (by decide), by decide, by decide, by decide⟩, by decide⟩

theorem witness_BranchInstructions :
    (Issues (st gv) 0x00 (fb 0 0 0) always false ∧ Issues (st gv) 0x01 { form := .bj, off := 8#15 } always false ∧
      Issues (st gv) 0x02 { fx 8 0 0 0 0 0 with g0 := ⟨1#7, 1#5, false⟩ } always false ∧
      Issues (st gv) 0x04 { form := .bj, off := 8#15, d := 4#7 } (fun t _ => linkOk t 4) false) ∧
    (Issues (st gv) 0x03 (fb 4 8 0) (fun t _ => (fb 4 8 0).d == 0#7 || linkOk t (fb 4 8 0).d.toNat) false ∧
      Issues (st gv) 0x05 (fb 0 8 0) always false ∧
      ∀ l ∈ (st gv).exLanes 0x03 (fb 4 8 0), ((st gv).g.pair 8 l).toNat < 2 ^ 57) ∧
    (let f := fx 1 3 0 0 8 0
     Issues (st gv) 0x0E f (fun t _ => loopCnt f ≤ 4095 && loopOff f != 0 && f.d.toNat < t.regs) false) :=
  ⟨⟨issues_of (by decide), issues_of (by decide), issues_of (by decide), issues_of (by decide)⟩,
    ⟨issues_of (by decide), issues_of (by decide), by decide⟩, issues_of (by decide)⟩

/-- A gang of two teams of one group each (contexts 1 and 2); the group of context 2 has arrived in phase 3. -/
def gangSt (g : Group) : State :=
  { cur := 64, nextId := 1, groups := [(64, g), (128, { gr with ctl := {} })], teams := [(1, tm), (2, { tm with core := 1 })],
    gangs := [(7, { phase := 3, arrived := [128], teams := [1, 2] })] }

theorem witness_ExitYieldAndWaits :
    isPolicy (st gv).cur = false ∧ Issues (st gv) 0x06 (fb 0 0 0) always false ∧ (st gv).g.fails = [] ∧
    Issues (st gv) 0x07 (fb 0 0 0) always false ∧
    (let s := st { gv with fails := [(2, ⟨.dataLost, 0⟩)] }
     Issues s 0x08 (fi 0 5 63) (fun _ _ => (fi 0 5 63).a.toNat ≤ 5 && (fi 0 5 63).imm.toNat ≤ 63) false ∧
      (∀ p ∈ s.g.fails, p.1 ≠ (fi 0 5 63).a.toNat) ∧ s.g.count (fi 0 5 63).a.toNat ≤ (fi 0 5 63).imm.toNat) ∧
    (let f : Fields := { form := .xL, wb := 0#5, sub := 1#8, lit := 1000#64 }
     let s := { st gv with dev := { (st gv).dev with time := 1000 } }
     Issues s 0x0B f always false ∧ s.dev.time = 1000 ∧ f.lit.toNat = 1000 ∧ f.sub ≠ 0#8) ∧
    (let f : Fields := { form := .xL, wb := 0#5, sub := 0#8, lit := 1#64 }
     Issues (st gv) 0x0B f always false ∧ (st gv).dev.time < f.lit.toNat * (st gv).dev.wlen) ∧
    ((st { gv with wait := { twait := some 9 } }).group 64).wait.twait = some 9 :=
  ⟨rfl, issues_of (by decide), by decide, issues_of (by decide),
    ⟨issues_of (by decide), by decide, by decide⟩, ⟨issues_of (by decide), by decide, by decide, by decide⟩,
    ⟨issues_of (by decide), by decide⟩, by decide⟩

/-- BAR 1 of one group; BAR 2, which waits; a group whose release is not complete; groups that have arrived, before and after
the phase has completed; BAR 0 that the last group has reached. -/
theorem witness_TeamBarrier :
    (Issues (st gv) 0x09 (fi 0 0 1) (fun _ _ => (fi 0 0 1).imm.toNat ≤ 64) false ∧
      Issues (st gv) 0x09 (fi 0 0 2) (fun _ _ => (fi 0 0 2).imm.toNat ≤ 64) false ∧ (st gv).g.fails = [] ∧
      (st gv).g.wait.barAt = none ∧ (st gv).relTeamReady 64 = true ∧ (st gv).t.barArr = []) ∧
    (let s := { st gv with caches := { flights := [(1, { grp := 64, route := .controller, words := [] })] } }
     Issues s 0x09 (fi 0 0 1) (fun _ _ => (fi 0 0 1).imm.toNat ≤ 64) false ∧ s.relTeamReady 64 = false) ∧
    (let s := st { gv with wait := { barAt := some 2 } } { tm with barPhase := 2, barArr := [0] }
     Issues s 0x09 (fi 0 0 0) (fun _ _ => (fi 0 0 0).imm.toNat ≤ 64) false ∧ s.g.wait.barAt = some 2 ∧ s.t.barPhase ≤ 2 ∧
      ∀ k ∈ s.groupsOf 1, (s.group k).wait.barAt = some 2) ∧
    (let s := st { gv with wait := { barAt := some 1 } } { tm with barPhase := 2 }
     Issues s 0x09 (fi 0 0 0) (fun _ _ => (fi 0 0 0).imm.toNat ≤ 64) false ∧ s.g.wait.barAt = some 1 ∧ 1 < s.t.barPhase) :=
  ⟨⟨issues_of (by decide), issues_of (by decide), by decide, by decide, by decide, by decide⟩, ⟨issues_of (by decide), by decide⟩,
    ⟨issues_of (by decide), by decide, by decide, by decide⟩, issues_of (by decide), by decide, by decide⟩

/-- A gang whose last group arrives; one whose other group is still to come; a group that owes an arrival of this phase; one
whose phase has completed, in .wait and in .sync; a gang whose groups have all arrived. -/
theorem witness_GangBarrier :
    (let s := gangSt gv
     Issues s 0x0A (fx 0 0 0 0 0 0) always false ∧ Issues s 0x0A (fx 0 0 0 0 0 1) always false ∧ s.g.fails = [] ∧
      s.g.wait.gbarOwed ≠ some 3 ∧ s.relTeamReady 64 = true ∧ s.pWords (s.coreOf 64) (s.g.wait.relAt.getD s.nextId) = false ∧
      s.g.wait.gbarAt = none ∧ ∀ c ∈ (mget {} s.gangs s.t.gang).teams, ∀ k ∈ s.groupsOf c, k ∈ [128, s.cur]) ∧
    (let s := { gangSt gv with gangs := [(7, { phase := 3, teams := [1, 2] })] }
     Issues s 0x0A (fx 0 0 0 0 0 0) always false ∧ 2 ∈ (mget {} s.gangs s.t.gang).teams ∧ 128 ∈ s.groupsOf 2 ∧ 128 ∉ [s.cur]) ∧
    (let s := gangSt { gv with wait := { gbarOwed := some 3 } }
     Issues s 0x0A (fx 0 0 0 0 0 0) always false ∧ s.g.wait.gbarOwed = some (mget {} s.gangs s.t.gang).phase ∧
      s.g.wait.gbarAt = none) ∧
    (let s := gangSt { gv with wait := { gbarOwed := some 2, gbarAt := some 2 } }
     Issues s 0x0A (fx 0 0 0 0 0 2) always false ∧ Issues s 0x0A (fx 0 0 0 0 0 0) always false ∧ s.g.wait.gbarOwed = some 2 ∧
      2 < (mget {} s.gangs s.t.gang).phase ∧ s.g.loading = false ∧ s.g.wait.gbarAt ≠ none) ∧
    (let s := { gangSt gv with gangs := [(7, { phase := 3, arrived := [128, 64], teams := [1, 2] })] }
     let x := mget ({} : Gang) s.gangs 7
     x.arrived ≠ [] ∧ ∀ c ∈ x.teams, ∀ k ∈ s.groupsOf c, k ∈ x.arrived) :=
  ⟨⟨issues_of (by decide), issues_of (by decide), by decide, by decide, by decide, by decide, by decide, by decide⟩,
    ⟨issues_of (by decide), by decide, by decide, by decide⟩, ⟨issues_of (by decide), by decide, by decide⟩,
    ⟨issues_of (by decide), issues_of (by decide), by decide, by decide, by decide, by decide⟩, by decide⟩

theorem witness_ControlReads :
    Issues (st gv) 0x0F (fi 3 0 0x10) (fun _ _ => ctlReadable (fi 3 0 0x10).imm.toNat || 0x40 ≤ (fi 3 0 0x10).imm.toNat) false ∧
    Issues (st gv) 0x0F (fi 3 0 0x09) (fun _ _ => ctlReadable (fi 3 0 0x09).imm.toNat || 0x40 ≤ (fi 3 0 0x09).imm.toNat) false ∧
    (let f := fi 3 0 0x74
     Issues pol 0x0F f (fun _ _ => ctlReadable f.imm.toNat || 0x40 ≤ f.imm.toNat) false ∧
      (pol.opened.ownCounter pol.cur f.imm.toNat).isSome = true) ∧
    (let f := fi 3 0 0x7F
     Issues pol 0x0F f (fun _ _ => ctlReadable f.imm.toNat || 0x40 ≤ f.imm.toNat) false ∧
      pol.opened.ownCounter pol.cur f.imm.toNat = none ∧ isPolicy pol.cur = true) :=
  ⟨issues_of (by decide), issues_of (by decide), ⟨issues_of (by decide), by decide⟩, issues_of (by decide), by decide, by decide⟩

/-- The largest PRIO, TVEC, a legal TC3, TCAUSE 255, PARKMASK, ACCST, and QMAP making port 1 of kind 4. -/
theorem witness_ControlWrites :
    (let s := st (gr.at [(32 * 1, 15#32), (32 * 1 + 1, 99#32)])
     Issues s 0x10 (fi 0 1 0x0D) (fun _ _ => ctlWritable (fi 0 1 0x0D).imm.toNat) false ∧ (s.g.reg 1 0).toNat ≤ 15 ∧
      lowest (s.exLanes 0x10 (fi 0 1 0x0D)) = 0 ∧
      Issues s 0x10 (fi 0 1 0x14) (fun _ _ => ctlWritable (fi 0 1 0x14).imm.toNat) false ∧
      (∀ l ∈ s.exLanes 0x10 (fi 0 1 0x14), (s.g.reg 1 l).toNat < 256) ∧
      Issues s 0x10 (fi 0 1 0x12) (fun _ _ => ctlWritable (fi 0 1 0x12).imm.toNat) false) ∧
    (let s := st (gr.at [(32 * 1, 0x3FF#32)])
     Issues s 0x10 (fi 0 1 0x23) (fun _ _ => ctlWritable (fi 0 1 0x23).imm.toNat) false ∧
      (s.g.reg 1 0).extractLsb' 14 18 = 0#18 ∧ ((s.g.reg 1 0).extractLsb' 0 4).toNat = 15 ∧
      (((s.g.reg 1 0).extractLsb' 4 6).toNat + 1) * (16 * (((s.g.reg 1 0).extractLsb' 10 4).toNat + 1)) ≤ 4096) ∧
    (let s := st (gr.at [(32 * 1, 0x832#32)])
     Issues s 0x10 (fi 0 1 0x23) (fun _ _ => ctlWritable (fi 0 1 0x23).imm.toNat) false ∧
      ((s.g.reg 1 0).extractLsb' 0 4).toNat = 2 ∧ (((s.g.reg 1 0).extractLsb' 10 4).toNat + 1) % 3 = 0) ∧
    (let s := st (gr.at [(32 * 1, 0x103#32)]) { tm with accs := 2 }
     Issues s 0x10 (fi 0 1 0x1A) (fun _ _ => true) false ∧
      (∀ q ∈ quartersOf (s.exLanes 0x10 (fi 0 1 0x1A)),
        (s.g.reg 1 (lowest ((s.exLanes 0x10 (fi 0 1 0x1A)).filter fun l => quarter l == q))).toNat < 2 ^ 16) ∧ s.g.acc + s.t.accs ≤ 8) ∧
    (let s0 := st { gr.at [(32 * 1, 0x40#32)] with ctl := { msgloc := 5#32, msgdst := 0x60007#32 } }
     let s : State := { s0 with dev := { s0.dev with endpoints := [(5, { req := ⟨5, 0, 1, 0⟩ })] } }
     let u : State := { s0 with dev := { s0.dev with endpoints := [(5, { req := ⟨5, 0, 1, 0⟩, holder := some 513 })] } }
     let w := s.g.reg 1 0
     (Issues u 0x10 (fi 0 1 0x0E) (fun _ _ => true) false ∧ endpointFree u u.cur = false ∧ 1 ∈ changedPorts u.g w) ∧
     Issues s 0x10 (fi 0 1 0x0E) (fun _ _ => true) false ∧ changedPorts s.g w = [1] ∧
      (∀ q, q < 8 → bits w.toNat (4 * q + 3) (4 * q) ≤ 4) ∧
      (∀ q ∈ changedPorts s.g w, portQuiet s.g q = true ∧ (s.g.port q).local? ≠ some (bits s.g.ctl.msgloc.toNat 11 0)) ∧
      bits w.toNat 6 4 = 4 ∧ endpointFree s s.cur = true) :=
  ⟨⟨issues_of (by decide), by decide, by decide, issues_of (by decide), by decide, issues_of (by decide)⟩,
    ⟨issues_of (by decide), by decide, by decide, by decide⟩, ⟨issues_of (by decide), by decide, by decide⟩,
    ⟨issues_of (by decide), by decide, by decide⟩, ⟨issues_of (by decide), by decide, by decide⟩,
    issues_of (by decide), by decide, by decide, by decide, by decide, by decide⟩

theorem witness_TrapInstruction :
    Cause.routeBit .userTrap = some 10 ∧ (st gv).g.h = false ∧ Issues (st gv) 0x0C (fb 0 0 0) always false ∧
    (st gv).g.ctl.troute.getLsbD 10 = false ∧
    (let s := st { gv with ctl := { troute := 0x3FFFFFF#32 } }
     Issues s 0x0C (fb 0 0 0) always false ∧ s.g.ctl.troute.getLsbD 10 = true) :=
  ⟨by decide, by decide, issues_of (by decide), by decide, issues_of (by decide), by decide⟩

/-- A handler that lane 0 alone leaves, lane 1 having left it. -/
theorem witness_TrapReturn :
    let s := st { gv with pc := [(0, 0x1000#64), (1, 0x2000#64)], h := true, hmask := 1#32, tepc := [(0, 0x500#32)] }
    Issues s 0x0D (fb 0 0 0) (fun _ g => g.h) false ∧ Issues s 0x06 (fb 0 0 0) always false ∧ s.g.fails = [] ∧
    wf (.tret { form := .b3 }) = true ∧ (st gv).g.h = false ∧ (st gv).g.atIssue ≠ [] ∧ isPolicy (st gv).cur = false :=
  ⟨issues_of (by decide), issues_of (by decide), by decide, by decide, by decide, by decide, by decide⟩

/-! ### Witnesses: memory -/

def okIs {ε α : Type} [DecidableEq α] (e : Except ε α) (a : α) : Bool :=
  match e with
  | .ok x => x == a
  | .error _ => false

theorem ok_of {ε α : Type} [DecidableEq α] {e : Except ε α} {a : α} (h : okIs e a = true) : e = .ok a := by
  cases e with
  | ok x => simpa [okIs] using h
  | error _ => cases h

theorem oks {ε α : Type} [DecidableEq α] {ls : List Nat} {e : Nat → Except ε α} {a : Nat → α}
    (h : (ls.all fun l => okIs (e l) (a l)) = true) : ∀ l ∈ ls, e l = .ok (a l) :=
  fun l hl => ok_of (List.all_eq_true.mp h l hl)

/-- The TLB translates a word whose line no core holds, whatever words the L1s hold. -/
theorem fixed_of {s : State} {k va : Nat} (h : s.caches.lines = [])
    (ht : (s.tlbHit (s.who k).cluster (s.who k).ctx va).isSome = true) : s.fixedPlace k va := by
  intro l1 n
  obtain ⟨e, he⟩ := Option.isSome_iff_exists.mp ht
  have hu : ({ s with nextId := n, caches := { s.caches with l1 := l1 } } : State).tlbHit
      (s.who k).cluster (s.who k).ctx va = some e := he
  have hw : ({ s with nextId := n, caches := { s.caches with l1 := l1 } } : State).who k = s.who k := rfl
  have b : ∀ u : State, u.caches.lines = [] → ((s.who k).core.bind fun c => u.tagHit c (s.who k).ctx va) = none :=
    fun u hl => Option.bind_eq_none_iff.mpr fun c _ => by rw [State.tagHit, hl]; rfl
  have b' := b ({ s with nextId := n, caches := { s.caches with l1 := l1 } } : State) h
  simp only [State.place, State.leafAt, State.look, hw, State.translate, he, hu, b s h] at b' ⊢
  rw [b']

/-- r8: addresses 0x20010 and 0x20014 (a page of HOME 0); r10: 0x30010 (HOME 1); r12: 0x40000 (elements of FMT 3); r2: data;
r6: a region's length; r14: a victim core. -/
def gm : Group := gr.at [(64, 0xAABBCCDD#32), (65, 0x11223344#32), (192, 64#32), (193, 64#32), (256, 0x20010#32), (257, 0x20014#32),
  (320, 0x30010#32), (321, 0x30010#32), (384, 0x40000#32), (385, 0x40000#32), (448, 1#32)]
def pagesOf (leaf : Nat → BitVec 128) : List TlbEntry :=
  [2, 3, 4, 5, 6].map fun n => { ctx := 1, va := n * 0x10000, size := 16, leaf := leaf n, leafAddr := 0x8000 + 16 * n }
/-- Pages 2 to 6: HOME 0; HOME 1; HOME 0 of FMT 3; HOME 1 with ILV 1; HOME 3 of core 0. -/
def leafOf (n : Nat) : BitVec 128 :=
  BitVec.ofNat 128 (n * 0x10000 + 0xD7) ||| (match n with
    | 3 => 1 <<< 64 | 4 => 3 <<< 76 | 5 => 1 <<< 64 ||| 1 <<< 84 | 6 => 3 <<< 64 | _ => 0)
/-- The machine with those pages in the cluster's TLB. -/
def ms (g : Group) (l1 : Map L1Word := []) (owner : Map Nat := []) : State :=
  { st g with caches := { tlb := [(0, pagesOf leafOf)], l1 := l1, owner := owner } }
/-- The same group as a policy routine with a pocket window from 0x1000000000000. -/
def ps : State :=
  { cur := policyBase, groups := [(policyBase, { gr with pc := [(0, 0#64)], regs := [(288, 0x10000#32)] })],
    engines := [(0, { run := some { req := ⟨1, 0, 0, 0⟩, tenant := 0, window := 0x1000000000000, wsize := 256 } })] }

def dataAcc (l : Nat) : Access := ⟨l, 0x20010 + 4 * l, [0x20010 + 4 * l]⟩
/-- A group of context 1 with one operation. -/
def gop (o : Op) : Group := { gm with ops := [o] }
def amoIt : AtomItem := { addr := 0x20010, route := .cached, wide := false, va := 0x20010, lanes := [(0, 5, 0), (1, 7, 0)] }
def amoOp : Op := { id := 7, cls := 0, kind := .atomic 0 3 true false [amoIt] [0] }
def ldOp : Op := { id := 7, cls := 0, kind := .load [⟨0, 0x20010, [⟨0x20010, .cached, 15#4, some (.word 5#32), 0x20010⟩], .sized 3 4 0⟩] [3] [0] }

/-- A load of lanes 0 and 1; one whose word the group still stores to; LD .fx of an element of FMT 3; a policy routine's load.
-/
theorem witness_LoadIssues :
    let s := ms gm
    let f := fx 3 8 0 0 0 0x20
    let e := fx 3 12 6 0 0 1
    let el : ElemAt := ⟨[0x40040], none, ⟨3, false, 0, 8⟩⟩
    (Issues s 0x70 f always false ∧ s.accesses 0x70 f (isPrivate f) .load 4 [dataAcc 0, dataAcc 1] ∧
      s.opened.loadBusy 64 0x20010 = false ∧ s.opened.missRoom 0 [s.opened.slotFor 64 0x20010 15#4] = true ∧
      s.g.countRoom 0 = true) ∧
    (let t : State := { s with caches := { s.caches with flights := [(1, { grp := 64, route := .controller, words := [(0x20010, 1#4, 0#32)] })] } }
     t.opened.loadBusy 64 0x20010 = true ∧ t.accesses 0x70 f (isPrivate f) .load 4 [dataAcc 0, dataAcc 1]) ∧
    (Issues s 0x70 e always false ∧ s.opened.sortLanes 64 (fun t l => t.fxLane 64 (s.rdo 0x70 e) e l) (fun x => x.2.2.addrs)
      (s.exLanes 0x70 e) = ([(0, 0x40000, el), (1, 0x40000, el)], [])) ∧
    pairAddr ((s.rdo 0x70 e).g.pair 12 0) = some 0x40000 ∧
    s.checkPage (s.who 64) .load 0x40000 1 anyHome none false = .ok ⟨leafOf 4, 0x40000, 16, 0x8040⟩ ∧
    s.elemAt (s.who 64) ⟨leafOf 4, 0x40000, 16, 0x8040⟩ 0x40000 .load (64 + off14 e) = .ok el ∧
    isPolicy ps.cur = true ∧ Issues ps 0x70 f always false ∧
    (∀ l ∈ ps.exLanes 0x70 f, ps.opened.pocketAt ps.cur (ps.rdo 0x70 f) f .rdDenied l = .ok 0x1000000000000) ∧
    ps.opened.ctlGot 0x1000000000000 = .word 0#32 :=
  ⟨⟨issues_of (by decide), by unfold State.accesses; decide, by decide, by decide, by decide⟩,
    ⟨by decide, by unfold State.accesses; decide⟩, ⟨issues_of (by decide), by decide⟩, by decide, ok_of (by decide), ok_of (by decide),
    by decide, issues_of (by decide), oks (by decide), by decide⟩

/-- A load of one lane whose word has come; one whose word is lost; a TLD of one run of four bytes. -/
theorem witness_LoadsLand :
    (let s := ms (gop ldOp)
     ((s.group 64).ops.filter fun x => x.id == 7) = [ldOp] ∧ (∀ x ∈ (s.group 64).ops, x.fail = none) ∧
      s.answerLanes [⟨0, 0x20010, [⟨0x20010, .cached, 15#4, some (.word 5#32), 0x20010⟩], .sized 3 4 0⟩] [] =
        [(⟨0, 0x20010, [⟨0x20010, .cached, 15#4, some (.word 5#32), 0x20010⟩], .sized 3 4 0⟩, [some (.word 5#32)])] ∧
      ((Landing.sized 3 4 0).dests 1).Nodup ∧ lostCause [.word 5#32] = none ∧ lostCause [.lost .dataLost] = some .dataLost) ∧
    (let p : TilePart := ⟨0, 0x20012, 4, [⟨0x20010, .cached, 15#4, some (.word 5#32), 0x20010⟩, ⟨0x20014, .cached, 15#4, some (.word 6#32), 0x20014⟩]⟩
     let o : Op := { id := 7, cls := 0, kind := .tile 1 [p] 0 4 [] }
     let s := ms (gop o)
     ((s.group 64).ops.filter fun x => x.id == 7) = [o] ∧
      (s.answerParts [p] []).1 = [(p, [some (.word 5#32), some (.word 6#32)])] ∧ p.va % 4 + p.len ≤ 4 * p.slots.length) := by
  decide

theorem witness_StoreInstructions :
    (let s := ms gm
     let f := fx 0 8 2 0 0 0x20
     Issues s 0x71 f always false ∧ s.accesses 0x71 f (isPrivate f) .store 4 [dataAcc 0, dataAcc 1] ∧
      s.opened.storeBusy 64 0x20010 = false ∧ s.opened.noWay 64 0x20010 = false ∧ s.place 64 0x20010 = (0x20010, .cached) ∧
      s.down 0x20010 = false ∧ s.fixedPlace 64 0x20010 ∧ (s.place 64 0x30010).2 = .controller) ∧
    (let s := ms { gm with ops := [amoOp] }
     s.accesses 0x71 (fx 0 8 2 0 0 0x20) (isPrivate (fx 0 8 2 0 0 0x20)) .store 4 [dataAcc 0, dataAcc 1] ∧
      s.opened.storeBusy 64 0x20010 = true) ∧
    (let s0 := ms gm
     let s : State := { s0 with caches := { s0.caches with tlb := [(0, [⟨1, 0x20000, 16, 0x100080000000200D7#128 ||| (8 <<< 48), 0x8000⟩])] },
                                dev := { s0.dev with apertures := [(0, ⟨5, 0, 0x100000, true⟩)] } }
     (s.place 64 0x20010).2 = .remote ∧ s.holds 64 = false ∧ s.heldOf 64 = [] ∧
      s.apertureOf (s.place 64 0x20010).1 = some ⟨5, 0, 0x100000, true⟩) ∧
    (Issues ps 0x71 (fx 0 8 9 0 0 0x20) always false ∧
      ∀ l ∈ ps.exLanes 0x71 (fx 0 8 9 0 0 0x20),
        ps.opened.pocketAt ps.cur (ps.rdo 0x71 (fx 0 8 9 0 0 0x20)) (fx 0 8 9 0 0 0x20) .wrDenied l = .ok 0x1000000000000) ∧
    (let fl : Flight := { grp := 64, route := .controller, words := [(0x30010, 3#4, 9#32)] }
     let s0 := ms gm
     let s : State := { s0 with caches := { s0.caches with flights := [(9, fl)] } }
     mfind 9 s.caches.flights = some fl ∧ (∀ p ∈ s.caches.flights, ¬ p.1 < 9) ∧ fl.held = false ∧ fl.atom = false ∧ fl.route ≠ .remote ∧
      s.plain 0x30010 ∧ s.down 0x30010 = false ∧ s.cutWord 0x30010 = false ∧ s.isBad 0x30010 = false ∧ s.cutOff 5 = false ∧
      { s with caches := { s.caches with cut := some (0, 0x30010) } }.cutWord 0x30010 = true ∧
      s.crowded 0 (lineOf 0x20010) 1 = false ∧ (s.clearSlice 0x30010).isBad 0x30010 = false ∧
      ∀ i, i < 16 → mfind (lineOf 0x30010 + 4 * i) s.caches.l2 = none) ∧
    (let fl : Flight := { grp := 64, route := .remote, words := [(8 * 2 ^ 48, 3#4, 9#32)], node := 5, held := true, gen := 1 }
     let s0 := ms { gm with nlast := some 0, relGen := 1 }
     let s : State := { s0 with caches := { s0.caches with flights := [(9, fl)] } }
     let t : State := { s with dev := { s.dev with time := 8192 } }
     let before : Flight := { fl with held := false, gen := 0 }
     let v : State := { t with caches := { t.caches with flights := [(8, before), (9, fl)] }, dev := { t.dev with sync := 2 } }
     s.lastWindow 64 = some 0 ∧ s.window < 0 + 2 ∧ s.heldOf 64 = [(9, fl)] ∧ 0 + 2 ≤ t.window ∧ t.heldOf 64 = [(9, fl)] ∧
      t.unacked 64 1 = false ∧ v.unacked 64 1 = true ∧ v.heldOf 64 = [(9, fl)] ∧
      mfind 64 t.groups = some { gm with nlast := some 0, relGen := 1 }) ∧
    (let fl : Flight := { grp := 65, route := .remote, words := [(8 * 2 ^ 48, 3#4, 9#32)], node := 5, held := true, gen := 1 }
     let s0 := ms gm
     let s : State := { s0 with caches := { s0.caches with flights := [(9, fl)] }, late := [(65, 0)], dev := { s0.dev with time := 8192 } }
     s.heldOf 65 = [(9, fl)] ∧ s.unacked 65 1 = false ∧ mfind 65 s.groups = none ∧ mfind 65 s.late = some 0 ∧ 0 + 2 ≤ s.window) :=
  ⟨⟨issues_of (by decide), by unfold State.accesses; decide, by decide, by decide, by decide, by decide,
      fixed_of (by decide) (by decide), by decide⟩,
    ⟨by unfold State.accesses; decide, by decide⟩, by decide, ⟨issues_of (by decide), oks (by decide)⟩,
    ⟨by decide, by decide, by decide, by decide, by decide,
      ⟨by decide, by decide, fun u h _ => by show u.queues.find? _ = none; rw [h]; rfl⟩, by decide, by decide, by decide, by decide,
      by decide, by decide, by decide, by decide⟩,
    by decide, by decide⟩

/-- AMO.add and CAS; one whose word is still stored to; an AMO of lanes 0 and 1 on one word whose home answers; one on another
device. -/
theorem witness_AtomicInstructions :
    (let s := ms gm
     let f := fx 3 8 2 0 0 4
     let c := fx 3 8 2 4 0 0
     Issues s 0x73 f always false ∧ Issues s 0x74 c always false ∧
      s.opened.accessAll 64 (s.rdo 0x73 f) f false .atomic 4 (s.exLanes 0x73 f) = ([dataAcc 0, dataAcc 1], []) ∧
      s.opened.accessAll 64 (s.rdo 0x74 c) { c with c := 0#7, e := 0#7 } false .atomic 4 (s.exLanes 0x74 c) =
        ([dataAcc 0, dataAcc 1], []) ∧
      s.opened.atomBusy 64 0x20010 = false ∧ s.g.countRoom 0 = true) ∧
    (ms (gop amoOp)).opened.atomBusy 64 0x20010 = true ∧
    (let s := ms (gop amoOp)
     (s.group 64).findOp 7 = some amoOp ∧ s.homeRead 0x20010 = .word 0#32 ∧ (∀ x ∈ (s.group 64).ops, x.fail = none) ∧
      s.ownerOf 0x20010 = none ∧ s.isBad 0x20010 = false ∧ s.pending 0x20010 = false ∧ (amoIt.lanes.map Prod.fst).Nodup ∧
      (∀ x ∈ amoIt.lanes, x.1 < 32 ∧ quarter x.1 ∈ [0]) ∧
      s.atomRead amoIt = (.word 0#32, .word 0#32) ∧ amoIt.done = false ∧ amoIt.route ≠ .remote ∧ amoIt.lost = none) ∧
    (let it := { amoIt with wide := true }
     let s := ms gm
     s.atomRead it = (.word 0#32, .word 0#32) ∧ it.route = .cached ∧ s.down (it.addr + 4) = false ∧ s.cutWord it.addr = false ∧
      s.cutWord (it.addr + 4) = false ∧ s.pending (paOf (it.addr + 4)) = false ∧ s.isBad (it.addr + 4) = false) ∧
    (let it := { amoIt with addr := 8 * 2 ^ 48, route := .remote, sent := some 3 }
     let s0 := ms gm
     let s : State := { s0 with caches := { s0.caches with flights := [(3, { grp := 64, route := .remote, words := [], node := 5, atom := true })] } }
     it.route = .remote ∧ s.cutOff (s.nodeOf it.addr) = false ∧ it.sent = some 3 ∧ s.streamOwed (some 3) = false) :=
  ⟨⟨issues_of (by decide), issues_of (by decide), by decide, by decide, by decide, by decide⟩, by decide, by decide, by decide,
    by decide⟩

theorem witness_OrderingInstructions :
    (let s := ms gm
     s.g.fails = [] ∧ s.g.overrun = false ∧ s.opened.release s.cur 3 = some (s.opened.setGroup 64 s.opened.g) ∧
      Issues s 0x77 (fx 0 0 0 0 0 3) always false ∧ Issues s 0x75 (fx 0 0 0 0 0 3) always false ∧
      Issues s 0x76 (fx 0 8 6 0 0 10) always false ∧ Issues s 0x76 (fx 0 0 0 0 0 2) always false ∧ s.g.loading = false ∧
      (fx 0 8 6 0 0 10).sub.getLsbD 3 = true ∧
      regionOfLanes (s.rdo 0x76 (fx 0 8 6 0 0 10)) (fx 0 8 6 0 0 10) = some (0x20010, 64) ∧ s.relTeamReady 64 = true ∧
      s.pWords 0 s.nextId = false ∧ s.ackOwed 64 = false) ∧
    (let s := ms gm [(l1Key 0 0x20010, ⟨.p, 9#32, 3#4, 0⟩)]
     Issues s 0x77 (fx 0 0 0 0 0 2) always false ∧ s.opened.release s.cur 2 = none ∧ s.pWords 0 s.nextId = true) ∧
    (let s := ms (gop amoOp)
     s.relTeamReady 64 = false ∧ s.g.loading = true) ∧
    (let s0 := ms gm
     let s : State := { s0 with caches := { s0.caches with flights := [(3, { grp := 64, route := .remote, words := [], node := 5 })] } }
     s.ackOwed 64 = true) :=
  ⟨⟨by decide, by decide, by decide, issues_of (by decide), issues_of (by decide), issues_of (by decide), issues_of (by decide),
    by decide, by decide, by decide, by decide, by decide, by decide⟩, ⟨issues_of (by decide), by decide, by decide⟩, by decide, by decide⟩

theorem witness_RegionInstructions :
    (let s := ms gm
     let f := fx 0 8 6 0 0 0
     let v := fx 0 8 6 14 0 2
     Issues s 0x79 f always false ∧ Issues s 0x7A f always false ∧ regionOfLanes (s.rdo 0x79 f) f = some (0x20010, 64) ∧
      Issues s 0x78 v (fun _ _ => 2 ≤ bits v.sub.toNat 2 0 && bits v.sub.toNat 2 0 ≤ 4) false ∧
      regionOfLanes (s.rdo 0x78 v) v = some (0x20010, 64) ∧ (s.g.reg 14 (lowest (s.exLanes 0x78 v))).toNat = 1 ∧
      inScope 2 0 1 = true ∧ s.g.loading = false ∧ Issues s 0x72 (fx 0 8 0 0 0 0) always false) ∧
    (let s := ms gm [(l1Key 3 0x20010, ⟨.o, 9#32, 15#4, 0⟩)] [(0x20010, 3)]
     s.l1 3 0x20010 = some ⟨.o, 9#32, 15#4, 0⟩ ∧ s.plain 0x20010 ∧
      mfind 0x20010 ({ s.caches with l2 := [(0x20010, 7#32)] } : Caches).l2 = some 7#32) :=
  ⟨⟨issues_of (by decide), issues_of (by decide), by decide, issues_of (by decide), by decide, by decide, by decide, by decide,
    issues_of (by decide)⟩, by decide, ⟨by decide, by decide, fun u h _ => by show u.queues.find? _ = none; rw [h]; rfl⟩, by decide⟩

theorem witness_CoherenceEvents :
    (let s := ms gm [(l1Key 0 0x20010, ⟨.p, 9#32, 3#4, 1⟩), (l1Key 3 0x20010, ⟨.o, 0x55667788#32, 15#4, 0⟩)] [(0x20010, 3)]
     s.l1 0 0x20010 = some ⟨.p, 9#32, 3#4, 1⟩ ∧ s.down 0x20010 = false ∧ s.cutWord 0x20010 = false ∧ s.ownerOf 0x20010 = some 3 ∧
      s.l1 3 0x20010 = some ⟨.o, 0x55667788#32, 15#4, 0⟩ ∧ s.isBad 0x20010 = false) ∧
    (let s0 := ms gm
     let s : State := { s0 with caches := { s0.caches with miss := [(l1Key 0 0x20000, true)] } }
     mget false s.caches.miss (l1Key 0 0x20000) = true ∧ s.setStuck 0 0x20000 = false ∧ s.homeRead 0x20010 = .word 0#32 ∧
      s.l1 0 0x20010 = none) ∧
    (let s0 := ms gm [(l1Key 0 0x20000, ⟨.v, 0#32, 15#4, 0⟩)]
     let x : L1Line := { ctx := 1, va := 0x20000, attr := some ⟨leafOf 2, 0x20000, 16, 0x8020⟩ }
     let s : State := { s0 with caches := { s0.caches with lines := [(l1Key 0 0x20000, x)] } }
     (0x20000, x) ∈ s.linesOf 0 ∧ x.demand = true ∧ x.attr = some ⟨leafOf 2, 0x20000, 16, 0x8020⟩ ∧
      (⟨leafOf 2, 0x20000, 16, 0x8020⟩ : Leaf).home = 0 ∧ (⟨leafOf 2, 0x20000, 16, 0x8020⟩ : Leaf).bit 1 = true ∧
      (⟨leafOf 2, 0x20000, 16, 0x8020⟩ : Leaf).ha x.va / 65536 = 0x20040 / 65536 ∧ (s.linesOf 0).length < 16) := by decide

/-! ### Witnesses: tiles, matrices, CLASP -/

/-- TC1: one raw row of 16 bytes; TC2: TYPE 15; TC3 and TC4: FP8 of 16 and 32 rows; TC5: FP32 rows of 128 bytes, 64 of
them; TC6 and TC7: two raw rows. r16: address 0x20000 (HOME 0); r18: 0x30000 (HOME 1). -/
def gt : Group :=
  { gm with
    regs := gm.regs ++ [(512, 0x20000#32), (513, 0x20000#32), (576, 0x30000#32), (577, 0x30000#32)],
    ctl := { tc := [(2, 15#32), (3, 0xF3#32), (4, 0x1F3#32), (5, 0x1FF7#32), (6, 0x10#32), (7, 0x10#32)] },
    tiles := [(3, { rt := 3 }), (4, { rt := 3 })] }
/-- The machine with that group, both accumulators its own. -/
def mt (g : Group) : State :=
  let s : State := { ms g with teams := [(1, { tm with tiles := 8 })] }
  (s.give 0 0 64).give 0 1 64

theorem witness_TileInstructions :
    let s := mt gt
    let f := fx 1 8 2 0 0 0
    let e := fx 2 12 2 6 0 0
    let w := fx 0 8 2 1 0 0
    (Issues s 0x80 f (fun _ g => tldLegal f g) (tcType (s.g.tc 1) == 15) ∧ (s.rdo 0x80 f).groupAddr f = some 0x20010 ∧ tcType (s.g.tc 1) = 0 ∧
      s.opened.rawRows 64 .load 0x20010 (s.g.reg 2 0).toInt (s.g.rows 1) (s.g.rb 1) 16 (s.g.rb 1) = .ok [(0, 0x20010, 16)]) ∧
    (Issues s 0x80 e (fun _ g => tldLegal e g) (tcType (s.g.tc 2) == 15) ∧
      s.opened.checkPage (s.opened.who 64) .load 0x40000 1 anyHome none false = .ok ⟨leafOf 4, 0x40000, 16, 0x8040⟩ ∧
      s.opened.fxRows 64 ⟨leafOf 4, 0x40000, 16, 0x8040⟩ 0x40000 (s.g.rows 2) (s.g.rb 2) (s.g.reg 6 0).toNat (s.g.reg 2 0).toNat =
        .ok ([(0, 0x40040, 16)], []) ∧
      (let ps := [(0, 0x40040, 16)].map fun p => s.opened.partAt 64 p.1 p.2.1 p.2.2
       (∀ sl ∈ ps.flatMap TilePart.slots, s.opened.loadBusy 64 sl.addr = false) ∧
        s.opened.missRoom 0 (ps.flatMap TilePart.slots) = true ∧ s.g.countRoom 0 = true)) ∧
    (let fl : Flight := { grp := 64, route := .controller, words := [(0x20010, 1#4, 0#32)] }
     let u : State := { s with caches := { s.caches with flights := [(1, fl)] } }
     u.opened.loadBusy 64 0x20010 = true ∧ ∃ sl ∈ (u.opened.partAt 64 0 0x20010 16).slots, sl.addr = 0x20010 ∧ u.opened.rangeStuck 64 0x20010 16 = false ∧
      (mt { gt with ops := [amoOp] }).opened.rangeStuck 64 0x20010 16 = true) ∧
    (Issues s 0x81 w always false ∧ (s.g.tile 1).mark = none ∧
      s.opened.rawRows 64 .store 0x20010 (s.g.reg 2 0).toInt (s.g.rows 1) (s.g.rb 1) 16 (s.g.rb 1) = .ok [(0, 0x20010, 16)] ∧
      s.opened.rangeStuck 64 0x20010 16 = false) ∧
    Issues s 0x82 (fx 6 7 0 0 0 0) (fun _ g => tmovLegal (fx 6 7 0 0 0 0) g) false ∧
    (Issues s 0x82 (fx 1 1 0 0 0 1) (fun _ g => tmovLegal (fx 1 1 0 0 0 1) g) false ∧
      ∀ l ∈ s.exLanes 0x82 (fx 1 1 0 0 0 1), (s.g.reg 0 l).toNat < s.g.rows 1) ∧
    Issues s 0x82 (fx 3 1 0 0 0 2) (fun _ g => tmovLegal (fx 3 1 0 0 0 2) g) false :=
  ⟨⟨issues_of (by decide), by decide, by decide, ok_of (by decide)⟩, ⟨issues_of (by decide), ok_of (by decide), ok_of (by decide), by decide⟩, by decide,
    ⟨issues_of (by decide), by decide, ok_of (by decide), by decide⟩, issues_of (by decide), ⟨issues_of (by decide), by decide⟩,
    issues_of (by decide)⟩

/-- MMA.async of FP8 tiles of 16 and 32 rows, and its completion. -/
theorem witness_MatrixMultiply :
    (let s := mt gt
     let f := fx 0 3 4 0 0 0x10
     Issues s 0x83 f (fun _ g => mmaLegal f g) false ∧ (s.g.tile 3).mark = none ∧ (s.g.tile 4).mark = none ∧
      s.accsReady 0x83 f [0] true true ∧ mmaFormats f s.g = true ∧ s.g.acc + 0 < 8 ∧ s.g.countRoom 3 = true) ∧
    (let o : Op := { id := 7, cls := 3, kind := .mma 0 }
     let s := ms (gop o)
     (s.group 64).findOp 7 = some o ∧ ∀ x ∈ (s.group 64).ops, x.fail = none) :=
  ⟨⟨issues_of (by decide), by decide, by decide, ⟨by decide, by decide, by decide⟩, by decide, by decide, by decide⟩, by decide⟩

/-- ACCZ, ACCWIN, ACCADD of accumulator 1 into 0, ACCRD to registers and to a tile, ACCST and ACCLD. -/
theorem witness_AccumulatorInstructions :
    let s := mt gt
    let f := fx 0 1 0 0 0 0
    let r := fx 4 1 0 0 0 0
    let t := fx 5 1 0 0 0 0x10
    (Issues s 0x84 f always false ∧ s.accsReady 0x84 f [0] false false ∧ Issues s 0x85 f always false ∧
      (∀ q ∈ quartersOf (s.exLanes 0x85 f), (s.g.reg 1 (lowest ((s.exLanes 0x85 f).filter fun l => quarter l == q))).toInt = 0) ∧
      Issues s 0x87 f always false ∧ s.accsReady 0x87 f [0, 1] false true) ∧
    (Issues s 0x86 r (fun _ g => accrdLegal r g) false ∧ s.accsReady 0x86 r [1] false true ∧
      (∀ l ∈ s.exLanes 0x86 r, (s.g.reg 0 (lowest ((s.exLanes 0x86 r).filter fun x => quarter x == quarter l))).toNat < 16)) ∧
    (Issues s 0x86 t (fun _ g => accrdLegal t g) false ∧ ∀ q ∈ quartersOf (s.exLanes 0x86 t), 16 * q + 16 ≤ s.g.rows 5) :=
  ⟨⟨issues_of (by decide), ⟨by decide, by decide, by decide⟩, issues_of (by decide), by decide, issues_of (by decide),
      ⟨by decide, by decide, by decide⟩⟩,
    ⟨issues_of (by decide), ⟨by decide, by decide, by decide⟩, by decide⟩, issues_of (by decide), by decide⟩

theorem witness_AccumulatorImages_store :
    let s := mt gt
    let f := fx 0 16 1 0 0 0
    Issues s 0x89 f always false ∧ s.accsReady 0x89 f [1] false true ∧ imageBase (s.rdo 0x89 f) f = .ok 0x20000 ∧
    quartersOf (s.exLanes 0x89 f) = [0] ∧ s.opened.checkRanges (s.opened.who 64) .store 1 [(0x20000, 8256)] = none ∧ s.opened.rangeStuck 64 0x20000 8256 = false :=
  ⟨issues_of (by decide), ⟨by decide, by decide, by decide⟩, rfl, by decide, by decide, by decide⟩

/-- ACCLD of the image that memory of zeros holds (anchor 0). -/
def accldRead : List (List Byte) × Option (Cause × Nat) × State :=
  ((mt gt).opened.touchAll 64 ([(0x30000, 8256)].flatMap fun r => rangeLines r.1 r.2) false).readRanges 64 [(0x30000, 8256)]
theorem witness_AccumulatorImages_load :
    let s := mt gt
    let f := fx 0 18 0 0 0 0
    Issues s 0x88 f always false ∧ s.accsReady 0x88 f [0] false true ∧ imageBase (s.rdo 0x88 f) f = .ok 0x30000 ∧
    s.opened.checkRanges (s.opened.who 64) .load 1 [(0x30000, 8256)] = none ∧
    (∀ w ∈ s.opened.rangeWords 64 0x30000 8256, s.opened.loadBusy 64 w.1 = false) ∧ s.opened.readStuck 64 0x30000 8256 = false ∧ accldRead.2.1 = none ∧
    accldRead.1.map readHeader = [(some 0, false, false, 0)].map some :=
  ⟨issues_of (by decide), ⟨by decide, by decide, by decide⟩, rfl, by decide, by decide, by decide, by decide, by decide⟩

theorem witness_AccumulatorImages_anchor :
    ({ anchor := some (-2048) } : Acc).anchor = some (-2048) ∧
    ∀ i, i < 512 → (({ anchor := some (-2048) } : Acc).el i).inv = false ∧ (({ anchor := some (-2048) } : Acc).el i).cnt = 0 ∧
      (({ anchor := some (-2048) } : Acc).el i).val.toNat ≠ 2 ^ 127 :=
  ⟨rfl, fun _ _ => ⟨rfl, rfl, by show (0#128).toNat ≠ 2 ^ 127; decide⟩⟩

/-- A CLASP that enters the bridge, one whose exchange has completed, and two sides that fit. -/
def sideK : ClaspSide := { partner := 8, tag := 5, hi := false, d := 6, a := 7, lanes := [0, 1], passed := [2], order := 1, cycles := 9 }
def sideJ : ClaspSide := { partner := 0, tag := 5, hi := true, d := 6, a := 7, lanes := [0], order := 2 }
def claspSt : State :=
  { groups := [(64, { gt with wait := { clasp := some sideK } }), (128, { gt with wait := { clasp := some sideJ } })],
    teams := [(1, { tm with tiles := 8 }), (2, { tm with tiles := 8, core := 8 })] }
theorem witness_Clasp :
    (let s := mt { gt with regs := gt.regs ++ [(640, 8#32), (641, 8#32)] }
     let f := fx 6 7 20 14 0 0
     Issues s 0x8A f (fun _ g => claspLegal f g) false ∧ s.g.wait.clasp = none ∧ s.g.wait.claspDone = false ∧
      (s.g.tile 7).mark = none ∧ (s.g.reg 20 0).toNat < 256 ∧ (s.g.reg 14 0).toNat < 65536 ∧
      clusterOf (s.g.reg 20 0).toNat ≠ clusterOf (s.coreOf 64) ∧ (s.opened.sidesOf (clusterOf (s.coreOf 64))).length < 32) ∧
    (claspSt.group 64).wait.clasp = some sideK ∧ (claspSt.group 128).wait.clasp = some sideJ ∧
    (claspSt.fitting 64 sideK).map Prod.fst = some 128 ∧ (claspSt.fitting 128 sideJ).map Prod.fst = some 64 ∧
    (claspSt.group 64).rows 7 = (claspSt.group 128).rows 7 ∧ (claspSt.group 64).rb 7 = (claspSt.group 128).rb 7 ∧
    (claspSt.group 64).rows 7 % 2 = 0 ∧ (claspSt.group 64).ctl.cltmo ≠ 0#32 ∧
    (let s := claspSt.setGroup 64 { claspSt.group 64 with ctl := { (claspSt.group 64).ctl with cltmo := 9#32 } }
     (s.group 64).wait.clasp = some sideK ∧ (s.group 64).ctl.cltmo.toNat ≤ sideK.cycles ∧
      sideK.cycles < (claspSt.group 64).ctl.cltmo.toNat) ∧
    (let s := claspSt.setGroup 128 { claspSt.group 128 with wait := { clasp := some { sideJ with tag := 6 } } }
     (s.fitting 64 sideK).map Prod.fst ≠ some 128) ∧
    (let s := claspSt.setGroup 128 { claspSt.group 128 with ctl := { (claspSt.group 128).ctl with tc := [(7, 0x410#32)] } }
     (s.fitting 64 sideK).map Prod.fst = some 128 ∧ (s.fitting 128 sideJ).map Prod.fst = some 64 ∧
      (s.group 64).rb 7 ≠ (s.group 128).rb 7) :=
  ⟨⟨issues_of (by decide), by decide, by decide, by decide, by decide, by decide, by decide, by decide⟩, by decide⟩

/-! ### Witnesses: engines, barrier objects and keyed queues -/

/-- r22: a barrier object's address; r18: a descriptor's. -/
def ge : Group := { gt with regs := gt.regs ++ [(704, 0x60000#32), (705, 0x60000#32)] }
/-- The machine with a descriptor at 0x30000. -/
def dst (bs : List Byte) : State :=
  let s := mt ge
  { s with mem := memPuts [] 0x30000 bs, dev := { s.dev with node := 9#16, colsets := [(0, ⟨[9], 1000⟩)] } }
/-- What reading the descriptor gives. -/
def dread (bs : List Byte) : List Byte × Option (Cause × Nat) × State :=
  ((dst bs).opened.touchAll 64 [0x30000] false).readRange 64 0x30000 64

/-- A copy of 16 bytes; a broadcast of 4 bytes in a set of one rank; a bank fill of one word. -/
def cpyD : List Byte := leBytes 8 0x20000 ++ leBytes 8 0x20100 ++ leBytes 4 16 ++ leBytes 4 1 ++ leBytes 4 1 ++ List.replicate 36 0#8
def colD : List Byte := leBytes 8 0x20000 ++ leBytes 8 0x20100 ++ leBytes 8 0 ++ leBytes 4 4 ++ List.replicate 36 0#8
def bnkD : List Byte := leBytes 8 0 ++ leBytes 8 0 ++ leBytes 8 0x50000 ++ leBytes 8 7 ++ leBytes 8 0 ++ leBytes 4 0 ++ leBytes 2 1 ++
  leBytes 2 1 ++ List.replicate 4 0#8 ++ [1#8] ++ List.replicate 11 0#8

theorem descriptor_of {bs : List Byte} {op : Nat} {f : Fields}
    (h1 : ((dst bs).rdo op f).groupAddr f = some 0x30000)
    (h2 : okIs ((dst bs).opened.checkAccess ((dst bs).opened.who (dst bs).cur) .load 0x30000 64 anyHome none) ⟨leafOf 3, 0x30000, 16, 0x8030⟩ = true)
    (h3 : ∀ w ∈ (dst bs).opened.rangeWords (dst bs).cur 0x30000 64, (dst bs).opened.loadBusy (dst bs).cur w.1 = false)
    (h4 : (dread bs).2.1 = none) (h5 : (dst bs).opened.readStuck (dst bs).cur 0x30000 64 = false) :
    (dst bs).descriptor op f 0x30000 (dread bs).1 (dread bs).2.2 :=
  ⟨h1, ⟨_, ok_of h2⟩, h3, h5, by rw [← h4]; rfl⟩

theorem witness_EngineStarts_cpy :
    let s := dst cpyD
    let u := (dread cpyD).2.2
    let d := (dread cpyD).1
    Issues s 0x90 (fx 0 18 0 0 0 0) always false ∧ s.g.countRoom 1 = true ∧ s.descriptor 0x90 (fx 0 18 0 0 0 0) 0x30000 d u ∧
    cpyOk 0 false d = true ∧ u.startWindow ((dfld d 0x3C 4).testBit 0) (dfld d 0x38 4) = .ok none ∧
    u.cpyPages (u.who s.cur) false d = .ok ([(2, ⟨leafOf 2, 0x20000, 16, 0x8020⟩)], u) :=
  ⟨issues_of (by decide), by decide, descriptor_of (by decide) (by decide) (by decide) (by decide) (by decide), by decide, ok_of (by decide),
    ok_of (by decide)⟩

theorem witness_EngineStarts_col :
    let s := dst colD
    let u := (dread colD).2.2
    let d := (dread colD).1
    Issues s 0x93 (fx 0 18 0 0 0 0xB) always false ∧ s.g.countRoom 4 = true ∧ s.descriptor 0x93 (fx 0 18 0 0 0 0xB) 0x30000 d u ∧
    u.colOk (u.group s.cur) 0xB d = true ∧ u.startWindow ((dfld d 0x2C 2).testBit 0) (dfld d 0x28 4) = .ok none ∧
    u.colPages (u.who s.cur) 0xB d = .ok ([(2, ⟨leafOf 2, 0x20000, 16, 0x8020⟩)], u) ∧
    u.colIsLate 0 (u.colIssued 0 0) = false ∧
    (let v : State := { u with dev := { u.dev with colLate := [(0, [0])] } }
     v.colIsLate 0 (v.colIssued 0 0) = true) :=
  ⟨issues_of (by decide), by decide, descriptor_of (by decide) (by decide) (by decide) (by decide) (by decide), by decide, ok_of (by decide),
    ok_of (by decide), by decide, by decide⟩

theorem witness_EngineStarts_bnk :
    let s := dst bnkD
    let u := (dread bnkD).2.2
    let d := (dread bnkD).1
    Issues s 0x94 (fx 0 18 0 0 0 5) always false ∧ s.g.countRoom 5 = true ∧ s.descriptor 0x94 (fx 0 18 0 0 0 5) 0x30000 d u ∧
    bnkOk (u.group s.cur) 5 d = true ∧ u.startWindow ((dfld d 0x3C 2).testBit 0) (dfld d 0x38 4) = .ok none ∧
    u.bnkPages (u.who s.cur) 5 (fun i => (bnkArgs d).getD i 0) = .ok ([(5, ⟨leafOf 5, 0x50000, 16, 0x8050⟩)], u) ∧
    u.checkAccess (u.who s.cur) .engineWrite 0x30000 1 anyHome none = .ok ⟨leafOf 3, 0x30000, 16, 0x8030⟩ ∧
    u.flying s.cur false = false :=
  ⟨issues_of (by decide), by decide, descriptor_of (by decide) (by decide) (by decide) (by decide) (by decide), by decide, ok_of (by decide),
    ok_of (by decide), ok_of (by decide), by decide⟩

/-- A copy of 16 bytes of which `next` are done. -/
def copy (next : Nat) : EngineOp :=
  { code := 0, sub := 0, dva := 0x30000, next := next, args := [0x20000, 0x20100, 16, 1, 1, 0, 0, 0, 0, 0],
    pages := [(2, ⟨leafOf 2, 0x20000, 16, 0x8020⟩)] }
theorem witness_EngineStarts_lanes :
    let s := mt ge
    let f := fx 3 8 6 0 0 0
    let c := fx 0 8 6 2 0 0
    let va := fun l => 0x20110 + 4 * l
    let full : Group := { ge with ops := (List.range 63).map fun n => { id := n, cls := 2, kind := .engine (copy 0) } }
    Issues s 0x91 f always false ∧ s.g.countRoom 2 = true ∧
    s.opened.sortLanes 64 (fun t l => t.gathLane 64 f (s.rdo 0x91 f) l) Prod.snd (s.exLanes 0x91 f) =
      ([0, 1].map fun l => (⟨l, va l, [⟨va l, .cached, 15#4, none, 0⟩], .sized 3 4 0⟩, [va l]), []) ∧
    laneWindow s.opened 64 f (s.exLanes 0x91 f) = .ok none ∧ Issues s 0x92 c always false ∧
    s.opened.sortLanes 64 (fun t l => t.scatLane 64 c (s.rdo 0x92 c) l) (fun y => [y.1]) (s.exLanes 0x92 c) =
      ([0, 1].map fun l => (va l, ⟨leafOf 2, 0x20000, 16, 0x8020⟩, s.g.reg 2 l), []) ∧
    laneWindow s.opened 64 c (s.exLanes 0x92 c) = .ok none ∧ (∀ x ∈ (s.group 64).ops, x.id < s.nextId) ∧
    (mt full).g.countRoom 2 = false ∧ Issues (mt full) 0x91 f always false :=
  ⟨issues_of (by decide), by decide, by decide, ok_of (by decide), issues_of (by decide), by decide, ok_of (by decide),
    by decide, by decide, issues_of (by decide)⟩

/-- A group with one engine operation, number 7. -/
def eng (e : EngineOp) (cls : Nat) : State :=
  let s := ms { ge with ops := [{ id := 7, cls := cls, kind := .engine e }] }
  { s with dev := { s.dev with node := 9#16, colsets := [(0, ⟨[9], 1000⟩)] } }
def coll : EngineOp :=
  { code := 3, sub := 0xB, dva := 0x30000, args := [0x20000, 0x20100, 0, 4, 0, 0, 0, 0, 0, 0, 500],
    pages := [(2, ⟨leafOf 2, 0x20000, 16, 0x8020⟩)] }
/-- A bank fill of `n` words from 0x50000. -/
def bankFill (n : Nat) : EngineOp :=
  { code := 4, sub := 5, dva := 0x30000, args := [0, 0, 0x50000, 7, 0, 0, n, 1, 0, 0, 0],
    pages := [(5, ⟨leafOf 5, 0x50000, 16, 0x8050⟩), (3, ⟨leafOf 3, 0x30000, 16, 0x8030⟩)] }
def writeFly (op : Nat) : Flight := { grp := 64, op := some op, route := .remote, words := [], node := 5 }
def flying (s : State) : State := { s with caches := { s.caches with flights := [(3, writeFly 7)] } }

/-- ATW_START before and after its window; the copy's operation, its next request, its end and its failure. -/
theorem witness_EngineProgress_copy :
    (let e := { copy 0 with started := false, start := some 3 }
     ((((eng e 1).group 64).engineOf 7).map Prod.snd = some e ∧ (eng e 1).window < e.start.getD 0) ∧
     { (eng e 1) with dev := { (eng e 1).dev with time := 3 * 4096 } }.window = 3) ∧
    (copy 0).cpyBytes = 16 ∧ (copy 0).requestLen = 16 ∧ (copy 0).started = true ∧ (copy 0).owed = [] ∧
    (((eng (copy 0) 1).group 64).engineOf 7).map (fun p => p.1.fail) = some none ∧
    (∀ x ∈ ((eng (copy 0) 1).group 64).ops, x.fail = none) ∧ (eng (copy 16) 1).opFlying 7 = false ∧
    flying (eng (copy 16) 1) ≠ eng (copy 16) 1 ∧ (flying (eng (copy 16) 1)).opFlying 7 = true ∧
    (let s := ms { ge with ops := [{ id := 7, cls := 1, kind := .engine (copy 0), fail := some ⟨.dataLost, 5⟩ }] }
     ((s.group 64).engineOf 7).map (fun p => p.1.fail) = some (some ⟨.dataLost, 5⟩)) ∧
    (let z := (List.range 16).foldl (fun z i => cpyStep (eng (copy 0) 1) z (0 + i)) (.ok (copy 0, []))
     (match z with
      | .ok (e, m) => ((eng (copy 0) 1).engineWords 64 7 { e with next := 16, keep := e.kept 16 m } (e.whole 16 m)).2.2 == none &&
          (e.kept 16 m).isEmpty && m.length == 4 && e.part.isEmpty
      | .error _ => false) = true) ∧
    (∃ x, (List.range 16).foldl (fun z i => cpyStep (dst [] ) z (0 + i)) (.ok ({ copy 0 with pages := [] }, [])) = .error x) ∧
    -- 1,024 pieces of 2 bytes in each of two rows, the destination 2 past a word: the first request leaves half of the word at
    -- 0x20500, of which a later piece names the rest; it is held, and the request's bytes are not counted yet
    (let e := { copy 0 with sub := 4, args := [0x20000, 0x20102, 2, 2, 1024, 4096, 2, 4096, 2, 0] }
     let m : WordMap := [(2 * 0x20500, 0x20500, 3#4, 9#32)]
     e.next + 2048 ≤ e.cpyBytes ∧ e.requestLen = 2048 ∧ e.kept 2048 m = m ∧ e.whole 2048 m = [] ∧
      { e with keep := m }.owes 9 2048 = { e with keep := m, uncount := [2048] } ∧
      { e with uncount := [2048] }.owes 9 2048 = { e with owed := [(9, 2048), (9, 2048)] }) ∧
    (copy 0).arg 3 * (copy 0).arg 4 ≤ 16 / (copy 0).arg 2 ∧ (copy 8).cpyBytes < 8 + 2048 := by
  refine ⟨by decide, by decide, by decide, by decide, by decide, by decide, by decide, by decide, by decide, by decide, by decide,
    by decide, ?_, by decide, by decide⟩
  exact ⟨_, rfl⟩

/-- Each byte of the copy: no overlap, no two destinations in one home word's byte. -/
theorem witness_EngineProgress_bytes :
    let s := eng (copy 0) 1
    let e := copy 0
    let key := fun i => (e.homeKey (e.cpyByte (0 + i)).2).getD 0
    (∀ i, i < 16 → e.inSource (e.cpyByte (0 + i)).2 = false ∧ okIs (s.opByte e (e.cpyByte (0 + i)).1) 0#8 = true ∧
      (e.leaf (e.cpyByte (0 + i)).1).map Leaf.size = some 16 ∧ e.homeKey (e.cpyByte (0 + i)).2 = some (key i)) ∧
    ∀ i, i < 16 → ∀ j, j < 16 → paOf (key i / 2) = paOf (key j / 2) → key i = key j ∧
      ((e.cpyByte (0 + i)).2 % 4 = (e.cpyByte (0 + j)).2 % 4 → i = j) := by decide

/-- The barrier object of a copy .bo: its bytes in flight, applied. A scatter, in flight and applied; two lanes that name one
word. -/
theorem witness_EngineProgress_words :
    (let e := { copy 16 with sub := 4, owed := [(5, 16)], args := [0x20000, 0x20100, 16, 1, 1, 0, 0, 0, 0, 0x20200] }
     let l : Leaf := ⟨leafOf 2, 0x20000, 16, 0x8020⟩
     e.leaf (e.arg 9) = some l ∧ (∃ p ∈ (flying (eng e 1)).caches.flights, p.2.op = some 7 ∧ p.1 < 5) ∧
      (eng e 1).opFlying 7 = false ∧
      (eng e 1).objectGone (l.ha (e.arg 9)) ((eng e 1).arriveReads (l.ha (e.arg 9)) 16) = false ∧
      { eng e 1 with dev := { (eng e 1).dev with dies := [(0, 2), (1, 2), (2, 2), (3, 2)] } }.objectGone (l.ha (e.arg 9)) [] = true) ∧
    (let e : EngineOp := { code := 2, sub := 0, dva := 0, args := [0x20010, 5, 0x20010, 6], pages := [(2, ⟨leafOf 2, 0x20000, 16, 0x8020⟩)] }
     let z := (eng e 2).engineWords 64 7 { e with next := 1 } (e.scatMap [] e.args)
     z.2.2 = none ∧ z.1.opFlying 7 = false ∧ (flying (eng { e with next := 1 } 2)).opFlying 7 = true ∧
      (0x20010 % 4 = 0 ∧ (e.homeKey 0x20010).isSome = true)) := by decide

/-- A bank fill of one word, which ends; one past its end, whose step is not the last. -/
theorem witness_EngineProgress_bank :
    (bankFill 1).bnkTotal = 1 ∧ (bankFill 1).next < (bankFill 1).bnkTotal ∧
    ((((eng (bankFill 1) 5).bnkRun 64 7 (bankFill 1) none).group 64).engineOf 7).isSome = true ∧
    (let e := { bankFill 1 with next := 1 }
     e.bnkTotal ≤ e.next) ∧ (bankFill 1).bnkNeeds.all (bankFill 1).hasSeen = true ∧
    -- a copy of one word that is still to be read; a page that is not there
    (let e := { bankFill 1 with sub := 6, args := [0x50000, 0, 0x50100, 0, 0, 0, 1, 1, 0, 0, 0] }
     e.bnkNeeds.all e.hasSeen = false ∧
      (match (eng e 5).bnkRead e [] e.bnkNeeds with
       | .ok x => x.bnkNeeds.all x.hasSeen && (mfind ((e.homeKey 0x50000).getD 0) x.seen).isSome
       | .error _ => false) = true ∧
      (match { (eng e 5) with caches := { (eng e 5).caches with bad := [(0x50000, true)] } }.bnkRead e [] e.bnkNeeds with
       | .ok _ => false
       | .error x => x == (.dataLost, 0x50000)) = true) ∧
    addBurst [(3, 1)] (some (3, 2)) = some [(3, 2), (3, 1)] ∧
    (let e := { bankFill 1 with next := 2 }
     (match (eng e 5).bnkWrites e false with
      | .ok (x, m) => x.next + x.bnkStep != x.bnkTotal &&
          ((eng e 5).engineWords 64 7 { x with next := x.next + x.bnkStep } m).2.2 == none
      | .error _ => false) = true) := by decide

/-- A broadcast in a set of one rank, joined; a set of two whose other rank has not come; a rank whose operation waits. -/
theorem witness_EngineProgress_collective :
    (let s := eng coll 4
     let ops := (s.colOps 0).filter fun x => x.e.arg 9 == leastOrd (s.colOps 0)
     mfind 0 s.dev.colsets = some ⟨[9], 1000⟩ ∧ s.localRanks ⟨[9], 1000⟩ = [0] ∧ ops.map ColOp.e = [coll] ∧ coll.arg 5 = 0 ∧
      okIs (s.colRead coll) ([0#8, 0#8, 0#8, 0#8], []) = true ∧
      colAgree [{ rank := 0, sub := 0xB, count := 4, anchor := 0, root := 0, data := [0#8, 0#8, 0#8, 0#8] }] = true ∧
      colAgree [{ rank := 0, sub := 0xB, count := 4, anchor := 0, root := 0, data := [] },
        { rank := 1, sub := 0xB, count := 8, anchor := 0, root := 0, data := [] }] = false ∧
      ops ≠ [] ∧ pastTmo 1000 (ops.map fun x => x.e.arg 10) = false ∧ pastTmo 1000 [500, 1501] = true ∧
      s.dev.time ≤ (ops.map (fun x : ColOp => x.e.arg 10)).foldl min s.dev.time + 1000) ∧
    (let s0 := eng coll 4
     let c : CollectiveSet := ⟨[9, 5], 1000⟩
     let s : State := { s0 with dev := { s0.dev with time := 1501, colsets := [(0, c)] } }
     let ops := (s.colOps 0).filter fun x => x.e.arg 9 == leastOrd (s.colOps 0)
     mfind 0 s.dev.colsets = some c ∧ ops ≠ [] ∧
      ((s.localRanks c).filter fun i => ops.any fun x => x.e.arg 5 == i).length + ([] : List Nat).length < c.nodes.length ∧
      (ops.map (fun x : ColOp => x.e.arg 10) ++ []).foldl min s.dev.time + c.tmo < s.dev.time) ∧
    (let s := eng { coll with started := false } 4
     ∀ x ∈ s.colOps 0, x.e.arg 5 = 0 → x.e.started = false) ∧
    (({ coll with out := [5#32] } : EngineOp).out ≠ []) ∧
    (({ coll with next := 1 } : EngineOp).next ≠ 0) := by decide

theorem witness_BarrierObjects :
    let s := mt ge
    let l : Leaf := ⟨leafOf 6, 0x60000, 16, 0x8060⟩
    (s.rdo 0x95 (fx 0 22 6 0 0 0)).groupAddr (fx 0 22 6 0 0 0) = some 0x60000 ∧
    s.opened.checkObject (s.opened.who s.cur) .load .store 0x60000 = .ok l ∧
    s.opened.objectGone (l.ha 0x60000) [4, 8, 0] = false ∧
    (∀ i, i < 4 → s.opened.loadBusy s.cur (l.ha 0x60000 + 4 * i) = false) ∧
    Issues s 0x95 (fx 0 22 6 0 0 0) always false ∧ s.g.reg 6 0 ≠ 0#32 ∧ Issues s 0x96 (fx 3 22 6 0 0 0) always false ∧
    s.relTeamReady s.cur = true ∧ s.pWords (s.coreOf s.cur) s.nextId = false ∧ Issues s 0x97 (fx 0 22 14 0 0 0) always false ∧
    (s.ctlWord (l.ha 0x60000 + 8)).getLsbD 0 ≠ (s.g.reg 14 0).getLsbD 0 ∧ s.g.loading = false :=
  ⟨by decide, ok_of (by decide), by decide, by decide, issues_of (by decide), by decide, issues_of (by decide), by decide,
    by decide, issues_of (by decide), by decide, by decide⟩

/-- r24: a configuration of capacity 4; r26: queue 1 of the own cluster; r28: queue 1 of cluster 1; r30: two records. Port 0
is of kind 1. -/
def gk : Group :=
  { gm with
    regs := gm.regs ++ [(768, 0x300080#32), (769, 0x300080#32), (832, 0x8001#32), (833, 0x8001#32), (896, 0x101#32), (897, 0x101#32),
      (960, 2#32), (961, 2#32)],
    ctl := { qmap := 1#32 } }
def kst (recs : List KqRec) : State :=
  { st gk with kqs := [(1, { en := true, cap := 3, recs := recs }), (65, { en := true, cap := 3, recs := recs })] }
def rec1 : KqRec := { key := 5#32, pay := 9#64, bucket := 0, sealed := true, order := 0 }

theorem witness_QueueInstructions_own :
    let s := { st gk with kqs := [] }
    let p := kst []
    Issues s 0xA0 (fx 0 24 26 0 0 0) always false ∧ qref (clusterOf s.t.core) true false ((s.rd 0xA0 (fx 0 24 26 0 0 0)).b 0xA0 (fx 0 24 26 0 0 0) 0) = some 1 ∧
    bits 0x300080 19 8 = 0 ∧ bits 0x300080 5 3 = 0 ∧ (s.kq 1).recs = [] ∧ (s.kq 1).waiters = [] ∧ (s.kq 1).en = false ∧
    s.homeCap 1 { en := true, cap := 3 } ≤ 4096 ∧
    Issues p 0xA4 (fx 4 0 26 0 0 0) always false ∧
    kqLane p p.cur true false false ((p.rd 0xA4 (fx 4 0 26 0 0 0)).b 0xA4 (fx 4 0 26 0 0 0) (lowest (p.exLanes 0xA4 (fx 4 0 26 0 0 0)))) = .ok 1 :=
  ⟨issues_of (by decide), by decide, by decide, by decide, by decide, by decide, by decide, by decide, issues_of (by decide),
    ok_of (by decide)⟩

/-- KQPUSH in its three forms, KQTAKE and KQSTEAL, waiting and trying. -/
theorem witness_QueueInstructions_push :
    let s := kst []
    let w := kqSplit s.opened s.cur true true (s.exLanes 0xA1 (fx 0 4 26 0 0 0)) ((s.rdo 0xA1 (fx 0 4 26 0 0 0)).b 0xA1 (fx 0 4 26 0 0 0))
      fun l => some (pushRec s.g 4 l)
    Issues s 0xA1 (fx 0 4 26 0 0 0) (fun _ _ => (fx 0 4 26 0 0 0).sub != 1#8 || bitE (fx 0 4 26 0 0 0)) false ∧
    Issues s 0xA1 (fx 0 4 26 3 0 1) (fun _ _ => (fx 0 4 26 3 0 1).sub != 1#8 || bitE (fx 0 4 26 3 0 1)) false ∧
    w.bad = [] ∧ w.todo.length = 2 ∧ s.g.wait.kq = none ∧
    (kqRun (fun _ => true) w.todo (s.opened.kqWakes w.queues, { w with todo := [], d := 0 }) []).2.todo = [] ∧
    (kqOnce s.opened w).2.2 = [] :=
  ⟨issues_of (by decide), issues_of (by decide), by decide, by decide, by decide, by decide, by decide⟩
theorem witness_QueueInstructions_take :
    let s := kst [rec1, { rec1 with order := 1 }]
    let f := fx 4 0 26 0 0 0
    let g := fx 4 0 28 0 0 0
    let w := kqSplit s.opened s.cur true false (s.exLanes 0xA2 f) ((s.rdo 0xA2 f).b 0xA2 f) fun _ => none
    let v := kqSplit s.opened s.cur false true (s.exLanes 0xA3 g) ((s.rdo 0xA3 g).b 0xA3 g) fun _ => none
    Issues s 0xA2 f always false ∧ Issues s 0xA3 g always false ∧ w.bad = [] ∧ v.bad = [] ∧ w.todo.length = 2 ∧
    (kqRun (fun _ => true) w.todo (s.opened.kqWakes w.queues, { w with todo := [], d := 4 }) []).2.todo = [] ∧
    (kqRun (fun _ => true) v.todo (s.opened.kqWakes v.queues, { v with todo := [], d := 4 }) []).2.todo = [] :=
  ⟨issues_of (by decide), issues_of (by decide), by decide, by decide, by decide, by decide, by decide⟩
theorem witness_QueueInstructions_port :
    let s := kst [rec1]
    let f := fx 120 30 26 3 0 2
    let g := fx 120 30 28 3 0 2
    Issues s 0xA2 f (fun _ g => isPort f.d.toNat && g.portKind (f.d.toNat - 120) == 1) false ∧
    Issues s 0xA3 g (fun _ x => isPort g.d.toNat && x.portKind (g.d.toNat - 120) == 1) false ∧ (s.g.reg 30 0).toNat = 2 ∧
    kqLane s.opened s.cur true false true ((s.rdo 0xA2 f).b 0xA2 f (lowest (s.exLanes 0xA2 f))) = .ok 1 ∧
    kqLane s.opened s.cur false true true ((s.rdo 0xA3 g).b 0xA3 g (lowest (s.exLanes 0xA3 g))) = .ok 65 ∧
    (s.g.port 0).elems.length + 4 * 2 ≤ 256 :=
  ⟨issues_of (by decide), issues_of (by decide), by decide, ok_of (by decide), ok_of (by decide), by decide⟩
theorem witness_QueueInstructions_served :
    let w : KqWait := { todo := [⟨0, 1, none⟩], d := 4 }
    let s : State := { kst [rec1] with groups := [(64, { gk with wait := { kq := some w } })], kqs := [(1, { en := true, cap := 3, recs := [rec1], waiters := [64] })] }
    (s.group 64).wait.kq = some w ∧ (s.kq 1).waiters = [64] ∧ (s.kqTry ⟨0, 1, none⟩).isSome = true ∧
    ([(0, some rec1)].map Prod.fst : List Nat).Nodup := by decide

theorem witness_QueueHomeValues :
    let s := kst [rec1]
    -- an unsealed record between a sealed one of its key and one of another key
    (let w := { rec1 with sealed := false, order := 7 }
     let b := { rec1 with key := 9#32, order := 8 }
     ((kst [rec1, w, b]).kq 1).recs = [rec1] ++ w :: [b] ∧ w.sealed = false ∧ w.key = 5#32 ∧
      (∀ y ∈ [rec1] ++ [b], y.order ≠ w.order) ∧ ∀ y ∈ [rec1], y.sealed = true ∨ y.key ≠ 5#32) ∧
    (∀ y ∈ (s.kq 1).recs, y.sealed = true ∨ y.key ≠ 5#32) ∧ (s.kq 1).recs.length ≤ (s.kq 1).cap ∧ (s.kq 1).bound = false ∧
    (∀ y ∈ (s.kq 1).recs, y.order < s.nextId) ∧ (s.kqTake 1).isSome = true ∧
    ((kst (List.replicate 4 rec1)).kq 1).cap < ((kst (List.replicate 4 rec1)).kq 1).recs.length := by decide

/-! ### Witnesses: policy, privileged, issue, teams, queues and records -/

/-- A routine for queue 7, its lane with r1 = 0x4C and r2 = 7. -/
def prn : PRun := { req := ⟨1, 0, 7, 0⟩, tenant := 2, window := 0x1000000000000, wsize := 256 }
def qreq : QueueReq := ⟨7, 0x8000, 16, 0x9000, 0xA000, 16, 2, 3⟩
def pst : State :=
  { cur := policyBase, groups := [(policyBase, { gr with pc := [(0, 0#64)], regs := [(32, 0x4C#32), (64, 7#32)] })],
    engines := [(0, { run := some prn })], queues := [(7, { req := qreq })] }

theorem witness_PolicyInstructions :
    isPolicy pst.cur = true ∧ (pst.engine (clusterOfEngine pst.cur)).run = some prn ∧ Issues pst 0xB0 (fx 3 1 2 0 0 0) always false ∧
    pst.counter 0 prn 0x4C 7 = some 2#32 ∧ Issues pst 0xB1 (fi 0 1 7) (fun _ _ => (fi 0 1 7).imm.toNat ≤ 7) false ∧
    Issues pst 0xB2 (fi 0 1 9) always false ∧
    Issues pst 0x0F (fi 3 0 0x4C) (fun _ _ => ctlReadable (fi 3 0 0x4C).imm.toNat || 0x40 ≤ (fi 3 0 0x4C).imm.toNat) false ∧
    pst.ownCounter pst.cur 0x4C = some 2#32 ∧ Issues pst 0x06 (fb 0 0 0) always false :=
  ⟨by decide, by decide, issues_of (by decide), by decide, issues_of (by decide), issues_of (by decide), issues_of (by decide),
    by decide, issues_of (by decide)⟩

/-- A system context: TLBINV of an address, ACCSPL, and ACCFIL of a frame of zeros. -/
def sys : State := { mt ge with teams := [(1, { tm with tiles := 8, sys := true })] }
def filRead : List Byte × Option (Cause × Nat) × State := (sys.opened.touchAll 64 (rangeLines 0x30000 37120) false).readRange 64 0x30000 37120
theorem witness_PrivilegedInstructions :
    Issues sys 0xB3 (fx 0 8 6 14 0 1) always false ∧ sys.g.wait.tlbAt = none ∧ (sys.rdo 0xB3 (fx 0 8 6 14 0 1)).groupAddr (fx 0 8 6 14 0 1) = some 0x20010 ∧
    (sys.opened.release sys.cur 4).isSome = true ∧ Issues sys 0xB4 (fx 0 18 14 6 0 0) always false ∧
    (sys.rdo 0xB4 (fx 0 18 14 6 0 0)).groupAddr (fx 0 18 14 6 0 0) = some 0x30000 ∧
    sys.opened.checkRange (sys.opened.who sys.cur) .store 0x30000 37120 64 anyHome = .ok sys.opened ∧ sys.opened.mmaInto 0 1 = false ∧
    sys.opened.rangeStuck 64 0x30000 37120 = false ∧ (∀ u, u < 4 → (sys.acc 0 u 1).bad = false) ∧
    Issues sys 0xB5 (fx 0 18 14 6 0 0) always false ∧
    sys.opened.checkRange (sys.opened.who sys.cur) .load 0x30000 37120 64 anyHome = .ok sys.opened ∧
    ¬ ∃ w ∈ sys.opened.rangeWords 64 0x30000 64, sys.opened.loadBusy 64 w.1 = true :=
  ⟨issues_of (by decide), by decide, by decide, by decide, issues_of (by decide), by decide, ok_of (by decide), by decide, by decide,
    by decide, issues_of (by decide), ok_of (by decide), by decide⟩

/-- TLBINV before and after the accesses that it waits for; a release that is not complete; an MMA under way. -/
theorem witness_PrivilegedInstructions_waits :
    (let s : State := { sys with groups := [(64, { ge with wait := { tlbAt := some 5 } })] }
     s.g.wait.tlbAt = some 5 ∧ Issues s 0xB3 (fx 0 8 6 14 0 1) always false ∧
      s.opened.accessesOwed (s.opened.tlbCtx 1#8 1 0) 5 = false) ∧
    (let fl : Flight := { grp := 64, route := .controller, words := [(0x30010, 1#4, 0#32)] }
     let s : State := { sys with groups := [(64, { ge with wait := { tlbAt := some 5 } })],
                                 caches := { sys.caches with flights := [(3, fl)] } }
     s.opened.accessesOwed (s.opened.tlbCtx 1#8 1 0) 5 = true ∧
      { s with groups := [(64, ge)] }.opened.release 64 4 = none ∧ s.opened.rangeStuck 64 0x20000 64 = false) ∧
    (let s : State := { sys with groups := [(64, { ge with ops := [{ id := 7, cls := 3, kind := .mma 1 }] })] }
     s.opened.mmaInto 0 1 = true) ∧
    (sys.opened.loadBusy 64 0x30000 = false ∧
      { sys with caches := { sys.caches with flights := [(3, { grp := 64, route := .controller, words := [(0x30000, 1#4, 0#32)] })] } }.opened.loadBusy 64 0x30000 =
        true) :=
  ⟨⟨by decide, issues_of (by decide), by decide⟩, by decide, by decide, by decide⟩
theorem witness_AccumulatorFrames :
    ({ anchor := some 2047 } : Acc).anchor = some 2047 ∧
    ∀ i, i < 512 → (({ anchor := some 2047 } : Acc).el i).inv = false ∧ (({ anchor := some 2047 } : Acc).el i).cnt ≠ 0x8000#16 :=
  ⟨rfl, fun _ _ => ⟨rfl, by show (0#16) ≠ 0x8000#16; decide⟩⟩

/-- Three groups of lane set 0: 65 has yielded to 64, 66 is older. -/
def iss : State :=
  { groups := [(64, { gr with slot := 0, age := 5 }), (65, { gr with slot := 1, age := 1, yielded := true, owes := [64] }),
      (66, { gr with slot := 2, age := 3 })], teams := [(1, tm)] }
theorem witness_IssueChoice :
    66 ∈ iss.eligible 0 ∧ (∀ j ∈ iss.eligible 0, j ≠ 66 → iss.before 66 j = true) ∧ iss.eligible 5 = [] ∧
    64 ∈ iss.readyIn 0 ∧ (iss.group 64).yielded = false ∧ (iss.group 65).yielded = true ∧ 64 ∈ (iss.group 65).owes ∧
    isPolicy 66 = false ∧ (mfind 66 iss.groups).isSome = true ∧ { iss with blocked := [66] }.blocked = [66] ∧
    (let s := iss.updGroup 65 fun g => { g with owes := [] }
     (s.group 65).yielded = true ∧ (s.group 65).owes = []) := by decide

/-- A group whose lanes have exited, in a team with another group; a team past its watchdog; halting; packed registers. -/
def ends : State :=
  { groups := [(64, {}), (65, { gr with halted := true })], teams := [(1, { tm with haltReq := true })] }
theorem witness_GroupsAndTeamsEnd :
    ends.groupOver 64 = true ∧ (∃ j ∈ ends.groupsOf (ctxOf 64), j ≠ 64) ∧ { ends with groups := [(64, {})] }.groupOver 64 = true ∧
    (st gr).groupOver 64 = false ∧
    (let s : State := { groups := [(64, gr)], teams := [(1, { tm with watch := 4000000000000000 })] }
     mfind 1 s.teams = some { tm with watch := 4000000000000000 } ∧ s.wdogOf { tm with watch := 4000000000000000 } ≤ 4000000000000000 ∧
       s.groupsOf 1 = [64]) ∧
    (ends.teamOf 64).haltReq = true ∧ (ends.group 64).halted = false ∧ (ends.group 64).wait.kq = none ∧
    (∀ j ∈ ends.groupsOf (ctxOf 64), j ≠ 64 → (ends.group j).halted = true) ∧
    { ends with groups := [(64, {}), (65, gr)] }.groupsOf (ctxOf 64) = [64, 65] ∧
    (let s := st { gr with rowWait := some 65536 }
     ∃ k ∈ s.groupsOf 1, ∃ n, (s.group k).rowWait = some n ∧ 65536 ≤ n) ∧
    (∀ k ∈ (st gr).groupsOf 1, ((st gr).group k).rowWait = none) ∧
    (let g := { gr.at [(32 * 1, 7#32)] with packed := [(1, 2)] }
     g.narrow 1 = true ∧ g.narrow 2 = true) ∧
    (let s := st { gr.at [(32 * 1, 0x12345678#32)] with packed := [(1, 2)] }
     ¬ ((s.group 64).narrow 1 = true ∧ (s.group 64).narrow 2 = true) ∧
      s.rowsUsed 0x10000 (s.coreOf 64) 0 + (s.group 64).broken.length ≤ s.laneRows (s.coreOf 64) 0) := by
  refine ⟨by decide, by decide, by decide, by decide, by decide, by decide, by decide, by decide, by decide, by decide,
    ⟨64, by decide, 65536, by decide, by decide⟩, by decide, by decide, by decide⟩

/-- A launch of 33 lanes on queue 7 in slot 0 of die 0, and a grant on partition 0 of core 0 that has every unit. -/
def kdesc : KernelDesc := ⟨0x10000, 0x10040, 0x10000, 4096, false, 3, 16, 2, 1, 128, 0, 6#32, [32, 0, 0, 0, 0, 0], 0#128, false⟩
def whole : BitVec 128 := 1 ||| 16 <<< 47 ||| 8 <<< 56 ||| 128 <<< 64 ||| 63 <<< 80
def lch : Launch := { qid := 7, kind := 1, prio := 3, tag := 9, exts := [32, 0, 0, 0, 0, 0], kdesc := 0x10000, desc := some kdesc, image := 1 }
def grant : Grant := ⟨5, 0x4000, 0, 0, [0, 4], [0, 1], [3], [0x6000], [], 0, false⟩
def place : State :=
  { queues := [(7, { req := qreq, resident := some (0, 0), ridx := 1, tail := 1 })], launches := [(1, lch)], partitions := [(0, whole)], picks := [(0, 0)],
    nextId := 2 }
theorem witness_TeamPlacement :
    mfind 1 place.launches = some lch ∧ place.mayPlace 1 lch = true ∧ place.pickedFor lch grant = true ∧ groupsFor 33 = 2 ∧
    place.ctxFree grant.ctx = true ∧ place.grantOk 5 grant (List.replicate 2 16) 2 1 (lch.pagesFor kdesc) = true ∧
    place.ownTables grant kdesc 2 = true ∧ place.mapsImage 1 grant = true ∧ place.windowsOk 0x4000 3 0 2 [] = true ∧ (∀ b ∈ grant.accs, b + 1 ≤ 8) ∧
    { lch with st := .started, placed := 1 }.together kdesc = 1 ∧
    place.mayPlace 1 { lch with st := .started, placed := 1 } = false ∧
    (let d := { kdesc with gang := true, ext := [32, 1, 0, 0, 0, 0] }
     let r := { lch with exts := [32, 1, 0, 0, 0, 0], desc := some d }
     let s : State := { place with launches := [(1, r)] }
     s.mayPlace 1 r = true ∧ (r.offers ++ [grant]).length < r.together d ∧ r.together d ≤ ([grant] ++ [grant]).length ∧
      (s.placeAll 1 d { req := qreq, resident := some (0, 0), ridx := 1, tail := 1 } [grant, grant]) = none) ∧
    (place.placeAll 1 kdesc { req := qreq, resident := some (0, 0), ridx := 1, tail := 1 } [grant]).isSome = true := by decide

/-- A tile-task queue with one record that PICK has chosen. -/
def tileTask (desc : Nat) : State :=
  { place with
    kqs := [(1, { en := true, cap := 3, sys := true, recs := [rec1],
                  binding := BitVec.ofNat 128 (1 + 3 * 2 ^ 32 + 7 * 2 ^ 36 + desc * 2 ^ 64) })],
    picks := [(0, 65)] }
def kernels (s : State) : State :=
  { s with dev := { s.dev with images := [(1, { qid := 7, tenant := 2, kernels := [kdesc, { kdesc with addr := 0x20000, gang := true }] })] } }
theorem witness_TileTasks :
    (let s := tileTask 0
     (s.kq 1).taskQueue = true ∧ (s.kq 1).tqid = 7 ∧
      (s.launches.filter fun p => p.2.task.isSome && p.2.order == 1 && p.2.st == .waiting).length <
        (s.picks.filter fun p => clusterOf (p.1 / 8) == 0 && p.2 == 64 + 1).length ∧
      (mfind 7 s.queues).isSome = true ∧ (s.kqTake 1).isSome = true ∧ s.kernelAt (efld (s.kq 1).binding 120 64) = none ∧
      (s.kq 2).taskQueue = false) ∧
    (let s := kernels (tileTask 0x10000)
     s.kernelAt (efld (s.kq 1).binding 120 64) = some (1, kdesc) ∧ s.launchCode 3 (some (1, kdesc)) kdesc.ext true = none) ∧
    (let s := kernels (tileTask 0x20000)
     let d := { kdesc with addr := 0x20000, gang := true }
     s.kernelAt (efld (s.kq 1).binding 120 64) = some (1, d) ∧ s.launchCode 3 (some (1, d)) d.ext true = some 3 ∧
      descBad d = false ∧ d.feat &&& ~~~Config.capMask = 0#128) ∧
    (let r : Launch := { qid := 7, order := 1, task := some (5#32, 9#64) }
     let s : State := { tileTask 0 with queues := [(7, { req := qreq, stopped := 2 })] }
     mfind (s.kq r.order).tqid s.queues = some { req := qreq, stopped := 2 }) := by decide

/-- A halted team, without and with a CLASP side; a saved team and a grant; pages with and without their contents in the
frame. -/
def halted (g : Group := gr) : State :=
  { groups := [(64, { g with halted := true })], teams := [(1, { tm with st := .halted })] }
def saved : State :=
  { groups := [(64, { gr with halted := true })], teams := [(1, { tm with st := .saved })], partitions := [(8, whole)],
    gangs := [(7, { teams := [1] })] }
def back : Grant := ⟨1, 0, 1, 0, [3], [2], [], [], [], 0, true⟩
theorem witness_SaveAndRestore :
    (mfind 1 halted.teams = some { tm with st := .halted } ∧ halted.savable 1 = true ∧
      ∀ k ∈ halted.groupsOf 1, (halted.group k).wait.clasp = none) ∧
    (let s := halted { gr with ops := [{ id := 7, cls := 3, kind := .mma 0 }] }
     s.savable 1 = false) ∧
    (let s := halted { gr with wait := { clasp := some sideK } }
     (s.group 64).wait.clasp = some sideK ∧ s.fitting 64 sideK = none) ∧
    (let v := saved.updTeam 1 fun t => { t with offer := some back }
     mfind 1 saved.teams = some { tm with st := .saved } ∧ saved.restoreOk 1 back = true ∧ v.gangOut 7 = [1] ∧
      v.restoreOk 1 back = true ∧ ∀ k ∈ saved.groupsOf 1, (saved.group k).wait.clasp = none) ∧
    (let s : State := { saved with partitions := [(0, whole)] }
     let b : Grant := { back with core := 0, slots := [1] }
     s.restoreOk 1 b = true ∧ (s.groupsOf 1).Nodup ∧ (s.group 64).spiltRows = [] ∧ (s.group 64).spiltTiles = [] ∧ b.core = tm.core ∧
      b.slots.getD 0 0 / 4 = (s.group 64).slot / 4 ∧ 16 + s.rowsUsed 5 0 0 + 0 ≤ s.laneRows 0 0) ∧
    (let s : State := { saved with partitions := [] }
     s.restoreOk 1 back = false ∧ (List.range 16).all (fun p => !s.partTakes 1 p) = true) ∧
    (saved.restoreOk 1 { back with slots := [70] } = false ∧ saved.partTakes 1 8 = true) ∧
    (let s := saved.updTeam 1 fun t => { t with images := [(0, true)], frame := 0x100000 }
     (mfind (imageOf (s.teamOf 64) 64 (0 - (s.group 64).acc)) (s.teamOf 64).images).isSome = true ∧
      (mfind (imageOf (saved.teamOf 64) 64 0) (saved.teamOf 64).images).isSome = false) := by decide
theorem witness_SaveAndRestore_pages :
    let t : Team := { tm with frame := 0x100000, pages := [⟨0, 3, [0x6000]⟩, ⟨0, 4, [0x6010]⟩], spilt := [(1, true)] }
    let s : State := { teams := [(1, t)] }
    mfind 1 s.teams = some t ∧ t.pages[0]? = some ⟨0, 3, [0x6000]⟩ ∧ mfind 0 t.spilt = none ∧ mfind 1 t.spilt = some true ∧
    (∀ i, i < 2 → t.framePage i % 4 = 0 ∧ t.framePage i + 65536 ≤ 2 ^ 48 ∧ t.framePage i > 0x7000) ∧
    scratchPA 0 (3 * 65536) % 4 = 0 ∧ 2 ^ 48 ≤ scratchPA 0 (3 * 65536) ∧ s.down (t.framePage 0) = false ∧
    s.cutWord (t.framePage 0) = false ∧
    isWindow (scratchPA 0 (3 * 65536)) = false ∧ s.homeRead (t.framePage 1) = .word 0#32 ∧
    (let u : State := { s with groups := [(64, gr)] }
     isPolicy 64 = false ∧ 63 < (u.teamOf 64).regs ∧ (u.teamOf 64).frameRow (gidOf 64) 63 % 4 = 0 ∧
      (u.teamOf 64).frameRowState (gidOf 64) 63 + 8 ≤ 2 ^ 48 ∧
      (u.frameRead ((u.teamOf 64).frameRowState (gidOf 64) 63) 8).isSome = true ∧
      ∀ l, l < 32 → u.down ((u.teamOf 64).frameRow (gidOf 64) 63 + 4 * l) = false ∧
        u.cutWord ((u.teamOf 64).frameRow (gidOf 64) 63 + 4 * l) = false ∧
        u.homeRead ((u.teamOf 64).frameRow (gidOf 64) 63 + 4 * l) = .word 0#32) := by decide

/-- A queue that runs, resident in slot 3 of die 0, with the first record of its ring in memory. -/
def vq : VQueue := { req := qreq, resident := some (0, 3), tail := 1 }
def qst (q : VQueue) (ls : List (Nat × Launch) := []) : State := { queues := [(7, q)], launches := ls, nextId := 9 }
def recordBytes (kd kind : Nat) : List Byte := leBytes 8 kd ++ leBytes 4 kind ++ leBytes 4 9
def rst (kd kind : Nat) : State :=
  let s := qst vq
  { s with mem := memPuts [] 0x8000 (recordBytes kd kind), dev := { s.dev with images := [(1, { qid := 7, tenant := 2, kernels := [kdesc] })] } }

theorem witness_VirtualQueues :
    queueReqOk {} qreq = true ∧ queueReqOk {} { qreq with count := 17 } = false ∧ ({} : State).devAddr 3 .store 0x9000 64 [1] = some (0x9000, .controller) ∧
    mfind 7 (qst vq).queues = some vq ∧ (2#32 - vq.ridx).toNat ≤ vq.req.count ∧ vq.req.count < (17#32 - vq.ridx).toNat ∧ vq.stopped = 0 ∧
    (qst { vq with resident := none }).notifyQueue 0x9000 = some (7, { vq with resident := none }) ∧ isWindow 0x9000 = false ∧
    ({ vq with held := [⟨7, 1, 7, 0, 0, 0, 0⟩], etail := 16, ehead := 1 } : VQueue).full = false ∧
    ({ vq with fwd := [(0, 1#32)] } : VQueue).fwd = (0, 1#32) :: [] ∧ ({ vq with stopped := 1 } : VQueue).stopped ≠ 0 ∧
    vq.resident = some (0, 3) ∧ (qst vq).idleQueue 7 vq = false ∧ (qst { vq with tail := 0 }).idleQueue 7 { vq with tail := 0 } = true ∧
    ({ dev := { recovery := true } } : State).dev.recovery = true ∧ ({} : State).down 0x9000 = false ∧
    ({ dev := { dies := [(0, 2), (1, 2), (2, 2), (3, 2)] } } : State).down 0x9000 = true ∧
    (let v : VQueue := { vq with resident := none, wants := some 0 }
     ((qst v).queues.filter fun p => p.2.wants == some 0) = [(7, v)] ∧ mfind 7 (qst v).queues = some v) := by decide

theorem witness_LaunchRecords :
    (let s := rst 0x10000 2
     vq.ridx ≠ vq.tail ∧ s.entryUp vq vq.ridx = true ∧ s.entryLost vq vq.ridx = false ∧
      (let u : State := { s with dev := { s.dev with dies := [(0, 2), (1, 2), (2, 2), (3, 2)] } }
       u.entryUp vq vq.ridx = false ∧ u.down 0xB000 = true) ∧ (s.ringWord vq vq.ridx 8).toNat = 2 ∧ (∀ i, i < 14 → s.ringWord vq vq.ridx (0x48 + 4 * i) = 0#32)) ∧
    ((rst 0x10000 3).ringWord vq vq.ridx 8).toNat % 256 ≠ 2 ∧ ((rst 0x10000 1).ringWord vq vq.ridx 8).toNat = 1 + 2 ^ 16 * 0 ∧
    (rst 0x10000 1).kernelAt 0x10000 = some (1, kdesc) ∧ (rst 0x10000 1).launchCode 3 (some (1, kdesc)) kdesc.ext = none ∧
    ((rst 0x10000 1).launchCode 3 (some (1, { kdesc with feat := 1#128 <<< 127 })) kdesc.ext).isSome = true ∧
    (let m : Launch := { qid := 7, kind := 2 }
     let s := qst { vq with ridx := 1 } [(1, m)]
     s.waitingRecords 7 = [(1, m)] ∧ s.mayStart 7 1 m = true ∧
     ((qst vq [(1, { m with st := .started })]).launches.filter fun p => p.2.qid == 7 && p.2.task.isNone) = [(1, { m with st := .started })]) ∧
    (let m : Launch := { qid := 7, flags := 2, wfaddr := 0xB000, wfval := 0 }
     let s := qst { vq with resident := none } [(1, m)]
     s.waitingRecords 7 = [(1, m)] ∧ m.flags.testBit 1 = true ∧ s.devAddr 3 .load m.wfaddr 8 [1] = some (0xB000, .controller) ∧ s.fenceMet m = true) ∧
    (let m : Launch := { qid := 7, flags := 2, wfaddr := 0xB000, wfpa := 0xB000 }
     let s : State := { qst { vq with resident := none } [(1, m)] with fences := [(0xB000, 5)] }
     s.fences.find? (fun p => p.1 == 0xB000) = some (0xB000, 5) ∧ (∀ p ∈ s.fences, p.1 ≠ 0xB008) ∧ s.waitingRecords 7 = [(1, m)] ∧
      m.metBy 0xB000 5 = true ∧ mfind 1 s.launches = some m ∧ ({ m with met := true } : Launch).met = true) ∧
    (let m : Launch := { qid := 7, kind := 2, st := .ended, flags := 0xC, sfaddr := 0xB000, sfval := 5 }
     let s := qst vq [(1, m)]
     s.recordReleased m = true ∧ (s.fenceStore m).isSome = true ∧ s.down 0xB000 = false ∧ mfind m.qid s.queues = some vq ∧
      s.devAddr 3 .store 0xB000 8 [1] = some (0xB000, .controller)) ∧
    (let m : Launch := { qid := 7, st := .ended, ends := [(1, 0, 5)] }
     let s : State := { qst vq [(1, m)] with caches := { flights := [(3, { grp := 64, route := .controller, words := [] })] } }
     s.recordReleased m = false) ∧
    (let m : Launch := { qid := 7, kind := 2, flags := 2, wfaddr := 0xB000, wfval := 5 }
     (qst { vq with ridx := 1 } [(1, m)]).mayStart 7 1 m = false) := by decide

theorem witness_TableWrites :
    partLimits whole = true ∧ (∀ o, o < 8 → o ≠ 0 → partEn ((State.reset).part (8 * 0 + o)) = false) ∧
    (let s : State := { partitions := [(0, whole)] }
     partEn (s.part (8 * 0 + 0)) = true ∧ ∃ x ∈ (partRanges whole).zip (partRanges (s.part (8 * 0 + 0))), rangesMeet x.1 x.2 = true) ∧
    partLimits (whole ||| 2) = false ∧ (State.reset).dieReset (dieOf 0) = false ∧ dieOfCluster 31 = 3 ∧
    ({ dev := { dies := [(3, 2)] } } : State).dieReset (dieOf 255) = true ∧
    (let s : State := { teams := [(1, tm)] }
     ∃ x ∈ s.teams, x.2.core = 0 ∧ x.2.part = 0 ∧ x.2.held = true) ∧
    (∀ x ∈ ({ teams := [(1, { tm with st := .parked })] } : State).teams, x.2.core = 0 → x.2.part = 0 → x.2.st = .saved ∨ x.2.st = .parked) ∧
    (let s := qst vq
     let w : BitVec 128 := BitVec.ofNat 128 (1 + 7 * 2 ^ 36)
     (mget {} s.kqs 1).en = false ∧ efld w 127 121 = 0 ∧ efld w 63 50 = 0 ∧ efld w 31 1 = 0 ∧ (mfind (efld w 49 36) s.queues).isSome = true) := by
  decide

/-- An engine with one waiting request. -/
def deciding (r : PReq) (routines : Map Routine := []) : State :=
  { place with engines := [(engineOf place r, { reqs := [r] })], routines := routines }
def rtn : Routine := ⟨1, [0x18#32], 0, 0, 7⟩
theorem witness_Decisions :
    (deciding ⟨2, 2, 0, 0⟩).asked ⟨2, 2, 0, 0⟩ 0 [] ∧ partEn ((deciding ⟨2, 2, 0, 0⟩).part 0) = true ∧ 0 < (deciding ⟨2, 2, 0, 0⟩).freeSlots 0 ∧
    (deciding ⟨1, 0, 7, 0⟩).asked ⟨1, 0, 7, 0⟩ 7 [] ∧ (deciding ⟨3, 2, 0, 0⟩).asked ⟨3, 2, 0, 0⟩ 0 [] ∧
    (deciding ⟨4, 0, 7, 0⟩).asked ⟨4, 0, 7, 0⟩ 7 [] ∧ (deciding ⟨5, 0, 7, 0⟩).asked ⟨5, 0, 7, 0⟩ 7 [] ∧
    (deciding ⟨6, 0, 7, BitVec.ofNat 32 0⟩).asked ⟨6, 0, 7, BitVec.ofNat 32 0⟩ 7 [] :=
  ⟨⟨by decide, by decide, by decide, by decide⟩, by decide, by decide, ⟨by decide, by decide, by decide, by decide⟩,
    ⟨by decide, by decide, by decide, by decide⟩, ⟨by decide, by decide, by decide, by decide⟩,
    ⟨by decide, by decide, by decide, by decide⟩, by decide, by decide, by decide, by decide⟩
theorem witness_Decisions_routines :
    (let s := deciding ⟨1, 0, 7, 0⟩ [(64 * 16 + 1, rtn), (64 * 2 + 4, rtn)]
     s.routine 16 1 = some rtn ∧ s.routine 16 4 = none ∧ s.ownerTenant ⟨4, 0, 7, 0⟩ = some 2 ∧ s.routine 2 4 = some rtn ∧
      s.routine 16 5 = none ∧ s.routine 2 5 = none ∧ s.routine 16 2 = none) ∧
    (∃ x ∈ place.sources 0, x.tenant = 2 ∧ ∀ y ∈ place.sources 0, y = x) ∧ (∀ y ∈ place.sources 0, y.tenant ≠ 5) ∧
    place.runningTenant 0 = 0 ∧
    (let s := qst { vq with resident := none }
     s.wakeSlot (homeDie 7) = some 0 ∧ s.slotQueue (homeDie 7) 0 = none) ∧
    (let s : State := { tileTask 0 with mwait := [(2, 10)] }
     s.taskTenant 1 = some 2 ∧ (s.kq 1).ofKey 5#32 = some rec1 ∧ rec1.migr = false ∧ s.mwaitOf (dieOfCluster 0) 2 = 10 ∧
      (let u := { s with dev := { s.dev with time := 10000 } }
       (u.migrDue 1).find? (fun r => r.key == BitVec.ofNat 32 5) = some rec1) ∧ ∀ r ∈ s.migrDue 1, r.key ≠ BitVec.ofNat 32 5) ∧
    (let r : PReq := ⟨6, 3, 1, 0⟩
     let s : State := { st gr with dev := { dies := [(0, 2)] }, engines := [(8, { reqs := [r] })] }
     mget 0 s.dev.dies (dieOfCluster (engineOf s r)) ≠ 0 ∧ (engineOf s r + 8) % 32 = 8 ∧ (s.engine 8).run = none ∧
      (s.engine 8).reqs = r :: [] ∧ r.key = BitVec.ofNat 32 0) ∧
    (({ engines := [(0, { run := some { req := ⟨3, 2, 0, 0⟩, tenant := 16, allow := 1, code := [], window := 0, wsize := 0, qid := 0 } })] } :
      State).ticking 0 = true) ∧
    (let s := st gr { tm with tenant := 2, st := .running }
     s.runningTenant 0 ≠ 5 ∧ mfind 1 s.teams = some { tm with tenant := 2, st := .running } ∧ tm.core * 8 + tm.part = 0) := by decide

/-- An endpoint that admits node 9 only, free and held by port 0 of group 64; a port of kind 4 with one message. -/
def epReq : EndpointReq := ⟨5, 0, 256, 9⟩
def fab (holder : Option Nat) (filter : Nat := 9) : State :=
  { st gr with
    dev := { endpoints := [(5, { req := { epReq with filter := filter }, holder := holder })],
             imports := [(0, ⟨3, 0x1000, 0x1000, true, true, true, 0, 0⟩)] } }
theorem witness_FabricTraffic :
    mfind 5 (fab none).dev.endpoints = some { req := epReq } ∧ ({ req := epReq } : Endpoint).fill + 32 ≤ 256 ∧
    epReq.filter ≠ 0xFFFF ∧ epReq.filter ≠ 8 ∧ mfind 6 (fab none).dev.endpoints = none ∧
    mfind 5 (fab none 0xFFFF).dev.endpoints = some { req := { epReq with filter := 0xFFFF } } ∧
    (let e : Endpoint := { req := epReq, buf := List.replicate 8 (List.replicate 32 0#32) }
     e.req.depth < e.fill + 1) ∧
    ((fab (some 512)).teamOf (512 / 8)).held = true ∧
    (((fab (some 512)).group (512 / 8)).port (512 % 8)).elems.length + (((fab (some 512)).group (512 / 8)).port (512 % 8)).outCount + 32 ≤ 256 ∧
    (let s : State := { fab (some 512) with teams := [(1, { tm with st := .saved })] }
     (s.teamOf (512 / 8)).held = false) ∧
    (let s : State := { fab (some 512) with groups := [(64, { gr with ports := [(0, { elems := List.replicate 255 0#32 })] })] }
     256 < ((s.group 64).port 0).elems.length + ((s.group 64).port 0).outCount + 2) ∧
    (let p : Port := { local? := some 5, node := 4, out := [[1#32, 2#32]] }
     let s := st { gr with ports := [(0, p)] }
     (mfind 64 s.groups).isSome = true ∧ (s.teamOf 64).held = true ∧ (s.group 64).port 0 = p ∧ p.node ≠ s.dev.node.toNat ∧
      s.cutOff p.node = false ∧ ({ p with node := 0xFFFF } : Port).node = s.dev.node.toNat) ∧
    (let s : State := { (fab none) with dev := { (fab none).dev with cut := [(4, 0)], links := [(0, { up := false, peer := 4 })] } }
     s.cutOff 4 = true) ∧
    fabricOk ⟨3, 0, 0, 0, 1, 0x1004, 4, 0, 7, 0⟩ = true ∧ (⟨3, 0, 2 ^ 32, 0, 1, 0x1004, 4, 0, 7, 0⟩ : FabricReq).seq = 2 ^ 32 ∧ (fab none).permitOf ⟨4, 0, 0, 0, 1, 0x1004, 4, 0, 7, 0⟩ = none ∧
    ((fab none).permitOf ⟨3, 0, 0, 0, 1, 0x1FFC, 4, 0, 7, 0⟩).isSome = true ∧ ((fab none).permitOf ⟨3, 0, 0, 0, 1, 0x2000, 4, 0, 7, 0⟩).isSome = false ∧
    (fab none).fabricRead ⟨3, 0x1000, 0x1000, true, true, true, 0, 0⟩ ⟨3, 0, 0, 0, 2, 0x1004, 4, 0, 7, 0⟩ = some 0 ∧
    mget false (fab none).dev.applied (fabricKey ⟨3, 0, 0, 0, 2, 0x1004, 4, 0, 7, 0⟩) = false ∧
    (let s : State := { (fab none) with caches := { bad := [(0x1004, true)] } }
     s.fabricRead ⟨3, 0x1000, 0x1000, true, true, true, 0, 0⟩ ⟨3, 0, 0, 0, 2, 0x1004, 4, 0, 7, 0⟩ = none) := by decide

theorem witness_LinksAndStreams :
    (let s0 := st gr
     let fl : Flight := { grp := 64, route := .remote, words := [(8 * 2 ^ 48, 15#4, 1#32)], node := 4 }
     let s : State := { s0 with caches := { flights := [(9, fl)] },
                                dev := { time := 10000000, cut := [(4, 0)], links := [(0, { up := false, peer := 4 })] } }
     s.cutOff 4 = true ∧ s.cutAt 4 + 10000000 ≤ s.dev.time ∧
      (s.caches.flights.filter fun p => p.2.route == .remote && p.2.node == 4 && !p.2.atom) = [(9, fl)] ∧ fl.atom = false ∧
      (mfind fl.grp s.groups).isSome = true ∧ (∃ l ∈ allLanes, (s.group fl.grp).alive l = true) ∧ (∃ p ∈ s.caches.flights, p.2.route = .remote ∧ p.2.node = 4 ∧ p.2.grp = 64) ∧
      (st gr).cutOff 4 = false ∧ (st gr).dev.cut = []) ∧
    (let fl : Flight := { grp := 64, op := some 7, route := .remote, words := [], node := 4 }
     let s : State := { eng (copy 16) 1 with caches := { flights := [(9, fl)] } }
     (s.caches.flights.filter fun p => p.2.route == .remote && p.2.node == 4 && !p.2.atom) = [(9, fl)] ∧ fl.op = some 7) ∧
    (let s : State := { dev := { time := 8192, sync := 1, links := [(0, { up := true, peer := 4 })] } }
     (mget {} s.dev.streams 4).lost + 2 ≤ s.window ∧ s.dev.sync ≠ 2 ∧ 2 * s.dev.errNow ≤ s.dev.wlen ∧ s.dieReset (0 / 4) = false ∧
      { s with dev := { s.dev with dies := [(0, 2)] } }.dieReset (3 / 4) = true ∧
      (let d := { s.dev with err := 2049, streams := [(4, {})] }
       d.wlen < 2 * d.errNow ∧ mfind 4 d.streams = some {}) ∧
      (let e := { s.dev with streams := [(4, { ack := true })] }
       mfind 4 e.streams = some { ack := true } ∧ ∀ p ∈ e.streams, p.2.ack = true) ∧ mfind 0 s.dev.links = some { up := true, peer := 4 }) := by decide

theorem witness_ServiceEvents :
    (State.reset).sparedUnit 5 (48 * 3 + 47) = false ∧ (st gr).slotGroup (0 / 16) (4 * (0 % 16) + 0 / 4096) = some 64 ∧
    (st gr).slotGroup 0 (0 / 16) = some 64 ∧
    (ms gm [(l1Key 0 0x20010, ⟨.o, 9#32, 15#4, 0⟩)] [(0x20010, 0)]).l1 0 (0x20012 / 4 * 4) = some ⟨.o, 9#32, 15#4, 0⟩ ∧
    (let s := ms gm
     s.pending (paOf (scratchPA 0 16)) = false ∧ s.ownerOf (scratchPA 0 16) = none ∧ regionOf (2 ^ 48 + 64) = 1 ∧
      isHbm 0x20010 = true ∧ mfind 0x20010 s.caches.l2 = none ∧
      (mfind 0x20010 { s.caches with l2 := [(0x20010, 7#32)] }.l2).isSome = true) ∧
    (State.reset.dev.stepped = false ∧ 1000000 < (1000001 : Int).natAbs ∧ State.reset.dev.admitted = false) ∧
    (0 < structures 0 ∧ 4095 < structures 2 ∧ structures 9 ≤ 192 ∧ 15 < structures 10) ∧
    (let e := bankFill 1
     let l : Leaf := ⟨leafOf 5, 0x50000, 16, 0x8050⟩
     let s := eng { e with pages := [(5, l)] } 5
     isHbm (2 ^ 48) = false ∧ l.ilv = 1 ∧ ((s.burstOf l (5 * 65536)).map Prod.fst).isSome = true) ∧
    (∃ i, i < 64 ∧ 65536 = 2 ^ i) ∧
    (let d : Dev := { wlenNext := some 1024, wlenAt := 65536, time := 65536 }
     d.wlenNext = some 1024 ∧ 0 < 1024 ∧ d.wlenAt ≤ d.time) ∧
    (let d : Dev := { sync := 0, lastSync := 5, time := 2000000005 }
     d.sync = 0 ∧ d.lastSync + 2000000000 ≤ d.time) ∧
    (let d : Dev := { sync := 1, holdAt := 5, time := 60000000005 }
     d.sync = 1 ∧ d.holdAt + 60000000000 ≤ d.time) ∧
    (∃ c y, mfind c (st gr).teams = some y ∧ y.held = true) := by
  exact ⟨by decide, by decide, by decide, by decide, by decide, by decide, by decide, by decide, ⟨16, by decide, by decide⟩, by decide, by decide, by decide,
    ⟨1, tm, by decide, by decide⟩⟩

theorem witness_Resets :
    mget 0 (st gr).dev.dies 3 = 0 ∧ mfind 1 (st gr).teams = some tm ∧ tm.held = true ∧ dieOf tm.core = 0 ∧
    (∀ p ∈ (st gr).teams, p.2.held = true → dieOf p.2.core ≠ 3) ∧ (∀ c ∈ dieClusters 3, ((st gr).engine c).run = none) ∧
    (st gr).framesUp 3 = true ∧ mget 0 ({ dies := [(2, 2)] } : Dev).dies 2 = 2 ∧
    (let r : PReq := ⟨5, 0, 0, 0⟩
     let s : State := { engines := [(8, { reqs := [r] })] }
     mget 0 s.dev.dies (dieOfCluster 0) = 0 ∧ r ∈ (s.engine ((0 + 8) % 32)).reqs ++ (s.engine 8).wait ∧ engineOf s r = 0) ∧
    (ms gm [(l1Key 0 0x20010, ⟨.o, 9#32, 15#4, 0⟩)] [(0x20010, 0)]).ownerOf 0x20010 = some 0 ∧
    granulesOk { svn := 0, body := [], sigE := [], sigM := [], granules := [(20, 2)] } = true ∧
    granulesOk { svn := 0, body := [], sigE := [], sigM := [], granules := [(20, 0)] } = false := by decide

/-! ### GRO files -/

/-- A file of KIND 2: FEATREQ, sections (SKIND, ALIGN, address, contents), symbols, relocations and descriptors. -/
def groFile (feat : Nat) (ss : List (Nat × Nat × Nat × List Byte)) (syms rels descs : List (List Byte)) : List Byte :=
  let sy := 64 + 32 * ss.length
  let st := sy + 24 * syms.length
  let re := st + 8
  let de := re + 24 * rels.length
  let bo := de + 96 * descs.length
  let sect := fun (p : Nat × Nat × Nat × Nat × List Byte) => leBytes 4 0 ++ leBytes 1 p.2.1 ++ leBytes 1 p.2.2.1 ++ leBytes 2 0 ++
    leBytes 4 (bo + ((ss.take p.1).map fun x => x.2.2.2.length).sum) ++ leBytes 4 0 ++ leBytes 8 p.2.2.2.2.length ++
    leBytes 6 p.2.2.2.1 ++ leBytes 2 0xFFFF
  leBytes 4 0x004F5247 ++ leBytes 2 1 ++ leBytes 2 2 ++ leBytes 16 feat ++ leBytes 4 64 ++ leBytes 2 ss.length ++
    leBytes 2 descs.length ++ leBytes 4 sy ++ leBytes 4 syms.length ++ leBytes 4 st ++ leBytes 4 8 ++ leBytes 4 re ++
    leBytes 4 rels.length ++ leBytes 4 de ++ leBytes 4 0 ++
  (((List.range ss.length).zip ss).flatMap sect) ++ syms.flatten ++
  [0#8, 0x74#8, 0x69#8, 0x6D#8, 0x65#8, 0x73#8, 0x35#8, 0#8] ++ rels.flatten ++ descs.flatten ++ ss.flatMap fun x => x.2.2.2

/-- A symbol of section 0 at offset 0; the descriptor of times5, and that of a routine (EXIT) for ENQ with a window of 16
bytes. -/
def symTop (kind : Nat) : List Byte := leBytes 4 1 ++ leBytes 2 0 ++ leBytes 1 0 ++ leBytes 1 kind ++ leBytes 8 0 ++ leBytes 8 0
def descTimes5 : List Byte :=
  leBytes 4 0x00040001 ++ leBytes 4 1 ++ leBytes 4 0 ++ leBytes 2 0 ++ leBytes 2 4 ++ leBytes 8 0 ++ leBytes 4 5 ++ leBytes 4 31 ++
    List.replicate 20 0#8 ++ leBytes 4 0 ++ leBytes 16 3 ++ List.replicate 24 0#8
def descEnq (nins : Nat) : List Byte :=
  leBytes 2 0x0102 ++ leBytes 2 nins ++ leBytes 4 1 ++ leBytes 4 0 ++ leBytes 2 0 ++ leBytes 2 1 ++ leBytes 4 16 ++ leBytes 4 16 ++
    List.replicate 32 0#8 ++ leBytes 16 1 ++ List.replicate 24 0#8
def times5 : List Byte :=
  groFile 3 [(1, 2, 0x100000000, wordBytes [0x0000043C#32, 0x02020B50#32, 0x01040C80#32, 0x00000018#32])] [symTop 3] [] [descTimes5]

/-- The example of spec/05_object_format.md: the kernel times5. -/
theorem test_times5 :
    (match groLoad ⟨3, 7, 2, 5, times5, [(0x100000000, 0x20000)], [], [0x30000]⟩ gmodeDefault with
     | .ok x => x.img.kernels == [⟨0x30000, 0x100000000, 0x100000000, 16, false, 4, 4, 0, 0, 0, 0, 5#32, [31, 0, 0, 0, 0, 0], 3#128, false⟩] &&
         x.bodies.map Prod.fst == [0x100000000] &&
         x.img.pages == [⟨0x100000000, 16, BitVec.ofNat 128 (5 * 2 ^ 88 + 0x2000B)⟩]
     | .error _ => false) = true ∧
    (groLoad ⟨3, 7, 2, 5, times5.set 0 0#8, [(0x100000000, 0x20000)], [], [0x30000]⟩ gmodeDefault).toOption = none ∧
    State.launchCode {} 5 (some (3, ⟨0x30000, 0x100000000, 0x100000000, 16, false, 4, 4, 0, 0, 0, 0, 5#32, [31, 0, 0, 0, 0, 0], 3#128, false⟩))
      [31, 0, 0, 0, 0, 0] = none ∧
    State.launchCode {} 5 (some (3, ⟨0x30000, 0x100000000, 0x100000000, 16, false, 4, 120, 0, 0, 0, 0, 11#32, [2047, 0, 0, 0, 0, 0], 3#128, false⟩))
      [2047, 0, 0, 0, 0, 0] = some 4 := by decide

/-- Files that load: one byte of read-only data; a window of four bytes; a routine and its window, within and beyond its NINS.
-/
def rodata : ImageReq := ⟨3, 7, 2, 3, groFile 0 [(3, 0, 0x100000000, [0x5A#8])] [] [] [], [(0x100000000, 0x20000)], [], []⟩
def winBase : Nat := 2 ^ 48 + 2 ^ 18
def window : ImageReq := ⟨3, 7, 2, 3, groFile 0 [(5, 2, 0, [1#8, 2#8, 3#8, 4#8])] [] [] [], [], [winBase], []⟩
def routineImage (nins : Nat) : ImageReq :=
  ⟨3, 7, 2, 3, groFile 1 [(1, 2, 0x100000000, wordBytes [0x18#32]), (5, 2, 0, [])] [symTop 4] [] [descEnq nins],
    [(0x100000000, 0x20000)], [winBase], [0x30000]⟩
def loaded (r : ImageReq) : Loaded :=
  match groLoad r gmodeDefault with
  | .ok x => x
  | .error _ => { img := { qid := 0, tenant := 0 }, bodies := [], pocket := [], copies := [] }
theorem witness_Management :
    (let s := qst vq
     mfind 3 s.dev.images = none ∧ (mfind 7 s.queues).isSome = true ∧ rodata.tenant ≤ 16 ∧
      okIs (groLoad rodata s.gmode) (loaded rodata) = true ∧ (loaded rodata).bodies = [(0x100000000, [0x5A#8])] ∧
      (loaded rodata).pocket = [] ∧ (loaded rodata).copies = [] ∧ (loaded rodata).img.routines = [] ∧
      (loaded rodata).img.pages = [⟨0x100000000, 16, BitVec.ofNat 128 (3 * 2 ^ 88 + 0x20003)⟩] ∧
      (pageLeaf ⟨0x100000000, 16, BitVec.ofNat 128 (3 * 2 ^ 88 + 0x20003)⟩).route = .cached ∧
      s.loadDown (loaded rodata) = false ∧
      { s with dev := { s.dev with dies := [(0, 2), (1, 2), (2, 2), (3, 2)] } }.loadDown (loaded rodata) = true ∧
      s.cutWord 0x20000 = false ∧ bits 0x37 3 0 + bits 0x37 7 4 ≤ 11 ∧ 11 < bits 0x57 3 0 + bits 0x57 7 4 ∧
      okIs (groLoad window s.gmode) (loaded window) = true ∧ (loaded window).pocket = [(winBase, [1#8, 2#8, 3#8, 4#8])] ∧
      s.placesWindows (homeDie 7) (loaded window).img.windows = true ∧
      s.placesWindows (homeDie 7) [(2 ^ 48, 16)] = false ∧
      okIs (groLoad (routineImage 1) s.gmode) (loaded (routineImage 1)) = true ∧
      ((loaded (routineImage 1)).img.routines.map RoutineDesc.point).Nodup ∧
      (loaded (routineImage 1)).img.routines.map (fun r => checkRoutine r (s.allowOf (homeDie 7) 2)) = [none] ∧
      (∀ b ∈ (loaded (routineImage 1)).copies, s.readOnly 3 b.1 = true)) ∧
    (let s : State := { qst vq with dev := { images := [(3, (loaded (routineImage 1)).img)] } }
     mfind 3 s.dev.images = some (loaded (routineImage 1)).img ∧
      okIs (groLoad (routineImage 1) s.gmode) (loaded (routineImage 1)) = true ∧ (loaded rodata).img ≠ (loaded (routineImage 1)).img ∧
      (∀ r ∈ (loaded (routineImage 1)).img.routines, checkRoutine r (s.allowOf (homeDie 7) 2) = none)) ∧
    (let s : State := { dev := { images := [(3, { qid := 7, tenant := 2, windows := [(winBase, 16)] })] } }
     mfind 3 s.dev.images = some { qid := 7, tenant := 2, windows := [(winBase, 16)] } ∧ ∀ p ∈ s.teams, p.2.image ≠ 3) ∧
    (let s : State := { teams := [(1, { tm with image := 3 })] }
     ∃ p ∈ s.teams, p.2.image = 3) ∧
    (0 < 65536 ∧ (∀ n ∈ [1, 2], n ≤ 0xFFFF) ∧ (∀ p ∈ (st gr).groups, p.2.ops = []) ∧
      ∃ p ∈ (eng coll 4).groups, ∃ o ∈ p.2.ops, ∃ e, o.kind = .engine e ∧ e.code = 3 ∧ e.arg 4 = 0) :=
  ⟨by decide, by decide, by decide, by decide, by decide, by decide, by decide,
    ⟨_, List.mem_singleton.mpr rfl, _, List.mem_singleton.mpr rfl, coll, rfl, by decide, by decide⟩⟩

/-- A page request's descriptor (FMT 3, PERM R, HOME 1); ABS64 within and beyond its section; LIT64 and LO32 out of range; a
malformed file of each kind. -/
theorem witness_ObjectFiles :
    (let d := leBytes 4 0x00030003 ++ leBytes 4 0 ++ leBytes 4 0x0100 ++ leBytes 4 1 ++ List.replicate 80 0#8
     gnum d 2 1 = 3 ∧ gnum d 3 1 ≤ 11 ∧ gnum d 8 1 ≤ 3 ∧ gnum d 9 1 = 1 ∧ gnum d 0x0A 2 < 1024 ∧ gnum d 0x0C 1 = 1) ∧
    (let b := List.replicate 8 0#8
     (⟨0, 1, true, 0, 0, 0⟩ : GRel).type = 1 ∧ 0 + 8 ≤ b.length ∧ b.length < (⟨0, 1, true, 1, 0, 0⟩ : GRel).off + 8 ∧
      litAt b 0 = none ∧ (⟨0, 2, true, 0, 0, 0⟩ : GRel).type = 2 ∧ (⟨0, 3, true, 0, 0, 0⟩ : GRel).type = 3) ∧
    gnum (times5.set 0 0#8) 0 4 ≠ 0x004F5247 ∧ gnum (times5.set 0x18 1#8) 0x18 4 % 8 ≠ 0 ∧
    (times5.drop 1).length < (groRanges times5).foldl (fun m x => max m (x.1 + x.2)) 0 ∧
    (groOf (times5.set 120 1#8)).strs.head? ≠ some 0#8 ∧ apart (groRanges (times5.set 0x18 0#8)) = false ∧
    (∃ d ∈ (groOf (times5.set (128 + 0x34) 1#8)).descs, dtype d = 1 ∧ d.getD 0x34 0#8 ≠ 0#8) ∧
    (let g := groOf (routineImage 1).file
     g.sects[1]?.map (fun x => (x.bytes.length, x.size)) = some (0, 0) ∧ ∃ d ∈ g.descs, dtype d = 2 ∧ gnum d 0x0E 2 = 1 ∧ gnum d 0x14 4 ≤ 65536) ∧
    (let g := groOf times5
     let y := gsym (symTop 3)
     g.sects[y.sect]?.map GSect.va = some 0x100000000 ∧ g.sects[({ y with sect := 0xFFFE } : GSym).sect]?.map GSect.va = none) := by
  decide

theorem witness_Scrubs :
    (let s : State := {}
     scrubFrame 0x100000 1 = true ∧ scrubFrame 0x100001 1 = false ∧ s.scrubEntries [] [0x100000] = some [(0, 0x100000)]) ∧
    (let s : State := { scrubs := [(0x100040, true)], dev := { frames := [(0, [(0, 0x100000)])] } }
     s.pending (16 * 65536 + 64 * 1) = true ∧ s.dev.devq = none ∧
      (∃ u ∈ s.dev.frames.flatMap Prod.snd, 0x100000 ≤ u.2 ∧ u.2 < 0x100000 + 65536 * 1) ∧
      ∀ u ∈ s.dev.frames.flatMap Prod.snd, u.2 < 0x200000) := by decide

theorem witness_MemoryInvariant : State.reset.Inv ∧ (∃ t, Machine.step State.reset = .next t) := ⟨rfl, ⟨_, rfl⟩⟩
theorem witness_MemoryOperations : isWindow 0x30000 = false ∧ State.reset.down 0x30000 = false ∧
    State.reset.pending (paOf 0x30000) = false ∧ State.reset.plain 0x30000 :=
  ⟨by decide, by decide, by decide, ⟨by decide, by decide, fun u h _ => by show u.queues.find? _ = none; rw [h]; rfl⟩⟩

end Sys2Proof.Tests
end

section
/-!
SUPPORT. The register instructions and the gate of an issue (O8, O10); the entry of a trap handler (O6).
-/

namespace Sys2Proof.Machine

/-- Every register instruction is `aluIssue` of its row. -/
theorem exec_of_aluOf {i : Instr} {a : Alu} (s : State) (h : aluOf i = some a) :
    exec i s = .next (aluIssue a.op a.f a.legal a.val s) := by
  cases i <;> cases h <;> rfl

/-- The operands of a register instruction do not depend on the park bits. -/
theorem aluOf_val_unpark {i : Instr} {a : Alu} (h : aluOf i = some a) (g : Group) (e r : List Nat) :
    a.val ⟨g.unpark, e, r⟩ = a.val ⟨g, e, r⟩ := by
  funext l
  cases i <;> cases h <;>
    simp [Alu.two, Alu.one, Alu.fp2, Alu.fp1, Alu.pred, Alu.duo, Rd.a_unpark, Rd.b_unpark, Rd.c_unpark]

/-- Settles O10: each of the 59 rows is the one shape `aluIssue`, whose effect `aluIssue_step` states. -/
theorem registerInstructions : Obligations.RegisterInstructions := by
  intro i a s ha hi hp
  obtain ⟨g', he, hg⟩ := aluIssue_step (fun g e r => aluOf_val_unpark ha g e r) hi hp
  exact ⟨g', by rw [exec_of_aluOf s ha, he], hg⟩

/-! ### Waiting -/

theorem mem_expected {g : Group} {op : Nat} {f : Fields} {l : Nat} (h : ownGuards op = false) :
    l ∈ expected g op f ↔ l ∈ g.atIssue ∧
      ∀ gd ∈ [f.g0, f.g1], guardPass g gd l = true ∨ g.emptyIn gd.reg.toNat (quarter l) = true := by
  simp [expected, h, Group.fullIn]

theorem mem_guardRegs {f : Fields} {gd : Guard} (h : gd ∈ [f.g0, f.g1]) (hp : Guard.present gd = true) :
    gd.reg.toNat ∈ guardRegs f := by
  simp only [List.mem_cons, List.not_mem_nil, or_false] at h
  rcases h with rfl | rfl <;> simp [guardRegs, hp]

/-- Where every register that a guard names is full, check 9 goes by the executing lanes. -/
theorem expected_eq_executing {g : Group} {op : Nat} {f : Fields}
    (h : ∀ r ∈ guardRegs f, ∀ l ∈ g.atIssue, g.emptyIn r (quarter l) = false) : expected g op f = executing g op f := by
  cases ho : ownGuards op with
  | true => simp [expected, executing, ho]
  | false =>
    simp only [expected, executing, ho, Bool.false_eq_true, if_false]
    refine List.filter_congr fun l hl => ?_
    have pass : ∀ gd ∈ [f.g0, f.g1], (guardPass g gd l || !g.fullIn gd.reg.toNat [quarter l]) = guardPass g gd l := by
      intro gd hg
      cases hp : Guard.present gd with
      | true => simp [Group.fullIn, h _ (mem_guardRegs hg hp) l hl]
      | false => simp [guardPass, hp]
    simp [passes, pass]

/-- The gate where a lane is at the issue PC and checks 5 to 8 find no cause: check 9 decides (R69). -/
theorem gate_checked {s : State} {op : Nat} {f : Fields} {legal : Team → Group → Bool} (fx : Bool) (hl : s.g.atIssue ≠ [])
    (hf : checkFields s.t s.g (isPolicy s.cur) op f (legal s.t s.g) = none) :
    gate s s.cur op f legal fx =
      match (unmet s.g op f fx).findSome? Need.trap with
      | some c => .trap c
      | none =>
        if !(unmet s.g op f fx).isEmpty || !dstReady s.g (quartersOf (s.exLanes op f)) op f then .stall
        else .go s.g.atIssue (s.exLanes op f) := by
  have he : (s.group s.cur).atIssue.isEmpty = false := by simpa [State.g] using hl
  have hc : checkFields (s.teamOf s.cur) (s.group s.cur) (isPolicy s.cur) op f (legal (s.teamOf s.cur) (s.group s.cur)) =
    none := hf
  simp only [gate, he, hc]
  rfl

theorem issue_gate_trap {s : State} {op : Nat} {f : Fields} {legal : Team → Group → Bool} {fx : Bool} {c : Cause}
    (h : gate s s.cur op f legal fx = .trap c) (adv : Bool) (body : State → Nat → List Nat → List Nat → Res) :
    issue op f legal fx adv body s = s.opened.trapAll s.cur c := by
  simp only [issue, h]; rfl

theorem issue_gate_stall {s : State} {op : Nat} {f : Fields} {legal : Team → Group → Bool} {fx : Bool}
    (h : gate s s.cur op f legal fx = .stall) (adv : Bool) (body : State → Nat → List Nat → List Nat → Res) :
    issue op f legal fx adv body s = s.stall := by
  simp only [issue, h]

/-- Settles O8: the gate's answer is the trap of the first unmet need that does not wait, else a stall. -/
theorem notReadyWaitsOrTraps : Obligations.NotReadyWaitsOrTraps := by
  refine ⟨fun g op f l => ⟨mem_expected, expected_eq_executing⟩, fun i a s ha hl hf => ?_⟩
  have hg := gate_checked (legal := fun _ _ => a.legal) false hl hf
  refine ⟨fun c hc => ?_, fun hn hw => ?_⟩
  · have hc : (unmet s.g a.op a.f false).findSome? Need.trap = some c := hc
    rw [hc] at hg
    rw [exec_of_aluOf s ha, aluIssue, issue_gate_trap hg]
  · have hn : (unmet s.g a.op a.f false).findSome? Need.trap = none := hn
    have hw : unmet s.g a.op a.f false ≠ [] ∨ dstReady s.g (quartersOf (s.exLanes a.op a.f)) a.op a.f = false := hw
    have hs : (!(unmet s.g a.op a.f false).isEmpty || !dstReady s.g (quartersOf (s.exLanes a.op a.f)) a.op a.f) = true := by
      simpa using hw
    rw [hn, hs] at hg
    rw [exec_of_aluOf s ha, aluIssue, issue_gate_stall hg]
    rfl

/-! ### Traps -/

theorem laneBit_foldl_or (ls : List Nat) (m : BitVec 32) {l : Nat} (hl : l < 32) :
    laneBit (ls.foldl (fun m l => m ||| BitVec.twoPow 32 l) m) l = true ↔ laneBit m l = true ∨ l ∈ ls := by
  induction ls generalizing m with
  | nil => simp
  | cons x xs ih =>
    rw [List.foldl_cons, ih]
    by_cases e : x = l
    · subst e; simp [laneBit, hl]
    · simp [laneBit, BitVec.getLsbD_twoPow, e, Ne.symm e]

theorem laneBit_maskOf (ls : List Nat) {l : Nat} (hl : l < 32) : laneBit (maskOf ls) l = true ↔ l ∈ ls := by
  rw [maskOf, laneBit_foldl_or ls 0#32 hl]
  simp [laneBit]

/-- Writing under each lane of a list a value that the lane determines. -/
theorem mget_foldl_lanes {α : Type} [DecidableEq α] (d : α) (v : Nat → α) (ls : List Nat) (m : Map α) (j : Nat) :
    mget d (ls.foldl (fun m l => mput d m l (v l)) m) j = if j ∈ ls then v j else mget d m j := by
  induction ls generalizing m with
  | nil => simp
  | cons l ls ih =>
    rw [List.foldl_cons, ih, mget_mput]
    by_cases hj : j ∈ ls <;> by_cases hl : j = l <;> simp [hj, hl]

/-- One raising lane's note in TADDR. -/
theorem noteAddrs_taddr_cons (g : Group) (r : Raised) (rs : List Raised) :
    g.noteAddrs (r :: rs) = (g.noteAddrs [r]).noteAddrs rs := rfl

theorem noteAddrs_taddr_other (rs : List Raised) (g : Group) {l : Nat} (h : ∀ x ∈ rs, x.lane = l → x.addr = none) :
    mget 0 (g.noteAddrs rs).taddr l = mget 0 g.taddr l := by
  induction rs generalizing g with
  | nil => rfl
  | cons r rs ih =>
    rw [noteAddrs_taddr_cons, ih _ fun x hx => h x (List.mem_cons_of_mem r hx)]
    cases ha : r.addr with
    | none => simp [Group.noteAddrs, ha]
    | some a =>
      have hl : l ≠ r.lane := fun e => by simp [h r List.mem_cons_self e.symm] at ha
      simp [Group.noteAddrs, ha, mget_mput, hl]

theorem noteAddrs_taddr_same (rs : List Raised) (g : Group) {x : Raised} {a : Nat} (hx : x ∈ rs) (ha : x.addr = some a)
    (hu : ∀ y ∈ rs, y.lane = x.lane → y = x) : mget 0 (g.noteAddrs rs).taddr x.lane = BitVec.ofNat 57 a := by
  induction rs generalizing g with
  | nil => cases hx
  | cons r rs ih =>
    rw [noteAddrs_taddr_cons]
    by_cases hm : x ∈ rs
    · exact ih _ hm fun y hy => hu y (List.mem_cons_of_mem r hy)
    · have hr : x = r := (List.mem_cons.1 hx).resolve_right hm
      subst hr
      rw [noteAddrs_taddr_other rs _ fun y hy e => absurd (hu y (List.mem_cons_of_mem x hy) e ▸ hy) hm]
      simp [Group.noteAddrs, ha]

/-- The causes that the system answers itself, whatever TROUTE says (R162, R163). -/
def Cause.system : List Cause := [.notPresent, .accClaim, .preempt, .watchdog]

/-- A trap of a team's group of any other cause goes to the handler where H is 0 and the cause's TROUTE bit is 1. -/
theorem takeTrap_user {s : State} {k : Nat} {rs : List Raised} {r : Raised} (hk : isPolicy k = false)
    (hr : trapCause rs = some r) (hc : r.cause ∉ Cause.system) :
    s.takeTrap k rs =
      let pc := (((s.group k).pcOf r.lane).setWidth 32 : Word).toNat
      if (s.group k).h then s.faultTeam (ctxOf k) .doubleTrap (r.addr.getD 0) pc
      else if r.cause.routeBit.any (s.group k).ctl.troute.getLsbD then s.setGroup k ((s.group k).enterHandler rs r.cause)
      else s.faultTeam (ctxOf k) r.cause (r.addr.getD 0) pc := by
  simp only [State.takeTrap, hr, hk]
  split <;> simp_all [Cause.system]
  cases (r.cause).routeBit <;> simp

theorem enterHandler_pcOf (g : Group) (rs : List Raised) (c : Cause) (l : Nat) :
    (g.enterHandler rs c).pcOf l =
      if l ∈ rs.map Raised.lane then (g.pcOf l).extractLsb' 32 32 ++ g.ctl.tvec else g.pcOf l := by
  rw [Group.enterHandler, Group.pcOf_setPcs]
  rfl

/-- Settles O6: the entry is `Group.enterHandler`, read field by field. -/
theorem trapEntersHandler : Obligations.TrapEntersHandler := by
  intro s k rs r b hk hr hh hc hb ht _
  refine ⟨(s.group k).enterHandler rs r.cause, ?_, rfl, fun l hl => laneBit_maskOf _ hl, enterHandler_pcOf _ _ _,
    fun l => mget_foldl_lanes 0 _ _ _ l, fun l => mget_foldl_lanes 0 _ _ _ l,
    fun l h => noteAddrs_taddr_other rs _ h, fun x hx a ha hu => noteAddrs_taddr_same rs _ hx ha hu, rfl, rfl⟩
  rw [takeTrap_user hk hr hc]
  simp [hh, hb, ht]

end Sys2Proof.Machine
end

section
/-!
SUPPORT. What stores, event records and the end of a team leave as it was: the state without the parts that they write is the
same before and after.
-/

namespace Sys2Proof.Machine

/-! ### Maps and folds -/

theorem mem_of_mfind {α : Type} {k : Nat} {v : α} {m : Map α} (h : mfind k m = some v) : (k, v) ∈ m := by
  induction m with
  | nil => cases h
  | cons p m ih =>
    obtain ⟨j, w⟩ := p
    rw [mfind_cons] at h
    split at h
    · next e => cases h; subst e; exact List.mem_cons_self
    · exact List.mem_cons_of_mem _ (ih h)

/-- A map whose values are changed key by key. -/
theorem mfind_map {α β : Type} (f : Nat → α → β) (k : Nat) (m : Map α) :
    mfind k (m.map fun p => (p.1, f p.1 p.2)) = (mfind k m).map (f k) := by
  induction m with
  | nil => rfl
  | cons p m ih =>
    obtain ⟨j, w⟩ := p
    rw [List.map_cons, mfind_cons, mfind_cons, ih]
    split
    · next e => subst e; rfl
    · rfl

/-- What every step of a fold keeps, the fold keeps. -/
theorem foldl_keeps {σ α β : Type} (p : σ → β) {f : σ → α → σ} (hf : ∀ s x, p (f s x) = p s) (xs : List α) (s : σ) :
    p (xs.foldl f s) = p s := by
  induction xs generalizing s with
  | nil => rfl
  | cons x xs ih => rw [List.foldl_cons, ih, hf]

/-! ### Writes at a controller, event rings -/

/-- The state without what a write at a memory controller or of an event record can change. -/
def State.sansRings (s : State) : State :=
  { s with mem := [], scrubs := [], fences := [], queues := [], caches := { s.caches with bad := [], l2 := [] } }

@[simp] theorem setBad_sansRings (s : State) (a : Nat) (b : Bool) : (s.setBad a b).sansRings = s.sansRings := rfl
@[simp] theorem setSliceErr_sansRings (s : State) (a : Nat) (b : Bool) : (s.setSliceErr a b).sansRings = s.sansRings := rfl
@[simp] theorem setQueue_sansRings (s : State) (qid : Nat) (q : VQueue) : (s.setQueue qid q).sansRings = s.sansRings := rfl
@[simp] theorem joinFences_sansRings (s : State) (n : Nat) : (s.joinFences n).sansRings = s.sansRings := rfl
@[simp] theorem delSlice_sansRings (s : State) (a : Nat) : (s.delSlice a).sansRings = s.sansRings := rfl

@[simp] theorem settle_sansRings (s : State) (pa : Nat) : (s.settle pa).sansRings = s.sansRings :=
  (congrArg State.sansRings (State.settle_rest s pa) :)

@[simp] theorem putByte_sansRings (s : State) (pa : Nat) (b : Byte) : (s.putByte pa b).sansRings = s.sansRings :=
  settle_sansRings s pa

@[simp] theorem putBytes_sansRings (bs : List Byte) (s : State) (pa : Nat) : (s.putBytes pa bs).sansRings = s.sansRings := by
  induction bs generalizing s pa with
  | nil => rfl
  | cons b bs ih => rw [State.putBytes, ih, putByte_sansRings]

@[simp] theorem setSlice_sansRings (s : State) (a : Nat) (w : Word) : (s.setSlice a w).sansRings = s.sansRings := by
  have l2 : ∀ (u : State) (m : Map Word), ({ u with caches := { u.caches with l2 := m } } : State).sansRings = u.sansRings :=
    fun _ _ => rfl
  simp only [State.setSlice, l2, setSliceErr_sansRings, settle_sansRings]

@[simp] theorem cleanBad_sansRings (s : State) (a : Nat) : (s.cleanBad a).sansRings = s.sansRings := by
  unfold State.cleanBad; split <;> simp

@[simp] theorem noteFence_sansRings (s : State) (a : Nat) : (s.noteFence a).sansRings = s.sansRings := by
  unfold State.noteFence; split <;> rfl

@[simp] theorem putWord_sansRings (s : State) (a : Nat) (m : BitVec 4) (w : Word) :
    (s.putWord a m w).sansRings = s.sansRings := by
  have step : ∀ (t : State) (i : Nat),
      (if m.getLsbD i then t.putByte (a + i) (w.extractLsb' (8 * i) 8) else t).sansRings = t.sansRings := by
    intro t i; split <;> simp
  simp only [State.putWord, noteFence_sansRings, step, cleanBad_sansRings]

@[simp] theorem backWord_sansRings (s : State) (a : Nat) (w : Word) : (s.backWord a w).sansRings = s.sansRings := by
  unfold State.backWord
  split
  · simp
  · dsimp only; split <;> simp

@[simp] theorem writeBack_sansRings (s : State) (a : Nat) : (s.writeBack a).sansRings = s.sansRings := by
  unfold State.writeBack; split <;> simp

@[simp] theorem clearSlice_sansRings (s : State) (pa : Nat) : (s.clearSlice pa).sansRings = s.sansRings := by
  rw [State.clearSlice, joinFences_sansRings]
  exact foldl_keeps _ writeBack_sansRings _ _

@[simp] theorem ctlWrite_sansRings (s : State) (a : Nat) (m : BitVec 4) (w : Word) :
    (s.ctlWrite a m w).sansRings = s.sansRings := by
  simp [State.ctlWrite]

@[simp] theorem mirror_sansRings (s : State) (q : VQueue) : (s.mirror q).sansRings = s.sansRings := by
  unfold State.mirror
  split
  · split <;> simp
  · rfl

@[simp] theorem ringPut_sansRings (partid : Nat) (bs : List Byte) (s : State) (a : Nat) :
    (s.ringPut partid a bs).sansRings = s.sansRings := by
  induction bs generalizing s a with
  | nil => rfl
  | cons b bs ih => rw [State.ringPut, ih]; split <;> simp

@[simp] theorem writeEvent_sansRings (s : State) (qid : Nat) (q : VQueue) (e : Event) :
    (s.writeEvent qid q e).sansRings = s.sansRings := by
  simp [State.writeEvent]

/-! ### Events -/

/-- The same without the counts of a policy: what posting an event can change. -/
def State.sansCounts (s : State) : State := { s.sansRings with pcnt := [] }

theorem sansCounts_of_sansRings {s t : State} (h : t.sansRings = s.sansRings) : t.sansCounts = s.sansCounts :=
  congrArg (fun u : State => { u with pcnt := [] }) h

@[simp] theorem bump_sansCounts (s : State) (i c j n : Nat) : (s.bump i c j n).sansCounts = s.sansCounts := rfl

/-- An event is written or held, or counted as dropped (R302). -/
theorem postEvent_cases (s : State) (qid : Nat) (e : Event) :
    (s.postEvent qid e).sansRings = s.sansRings ∨ s.postEvent qid e = s.bump evDrop 0 0 1 := by
  unfold State.postEvent
  split
  · exact .inr rfl
  · split
    · exact .inl (writeEvent_sansRings ..)
    · split
      · exact .inl rfl
      · exact .inr rfl

theorem deviceEvent_cases (s : State) (c d v : Nat) :
    (s.deviceEvent c d v).sansRings = s.sansRings ∨ s.deviceEvent c d v = s.bump evDrop 0 0 1 := by
  unfold State.deviceEvent
  split
  · exact postEvent_cases ..
  · exact .inr rfl

@[simp] theorem postEvent_sansCounts (s : State) (qid : Nat) (e : Event) : (s.postEvent qid e).sansCounts = s.sansCounts := by
  rcases postEvent_cases s qid e with h | h
  · exact sansCounts_of_sansRings h
  · rw [h, bump_sansCounts]

@[simp] theorem deviceEvent_sansCounts (s : State) (c d v : Nat) : (s.deviceEvent c d v).sansCounts = s.sansCounts := by
  rcases deviceEvent_cases s c d v with h | h
  · exact sansCounts_of_sansRings h
  · rw [h, bump_sansCounts]

section
variable {s t : State} (h : t.sansCounts = s.sansCounts)
include h

theorem groups_of_sansCounts : t.groups = s.groups := (congrArg State.groups h :)
theorem teams_of_sansCounts : t.teams = s.teams := (congrArg State.teams h :)
theorem dev_of_sansCounts : t.dev = s.dev := (congrArg State.dev h :)
theorem sfu_of_sansCounts : t.sfu = s.sfu := (congrArg State.sfu h :)
theorem l1_of_sansCounts : t.caches.l1 = s.caches.l1 := (congrArg (fun u : State => u.caches.l1) h :)
theorem tlb_of_sansCounts : t.caches.tlb = s.caches.tlb := (congrArg (fun u : State => u.caches.tlb) h :)

end

/-! ### Writes through homes -/

/-- The state without what a write at a word's home can change. -/
def State.sansCaches (s : State) : State := { s.sansCounts with caches := {} }

theorem sansCaches_of_sansCounts {s t : State} (h : t.sansCounts = s.sansCounts) : t.sansCaches = s.sansCaches :=
  congrArg (fun u : State => { u with caches := {} }) h

@[simp] theorem dropL1_sansCaches (s : State) (c a : Nat) : (s.dropL1 c a).sansCaches = s.sansCaches := rfl
@[simp] theorem delOwner_sansCaches (s : State) (a : Nat) : (s.delOwner a).sansCaches = s.sansCaches := rfl
@[simp] theorem setLost_sansCaches (s : State) (a : Nat) (b : Bool) : (s.setLost a b).sansCaches = s.sansCaches := rfl
@[simp] theorem tlbRemove_sansCaches (s : State) (p : TlbEntry → Bool) : (s.tlbRemove p).sansCaches = s.sansCaches := rfl
@[simp] theorem setSlice_sansCaches (s : State) (a : Nat) (w : Word) : (s.setSlice a w).sansCaches = s.sansCaches :=
  sansCaches_of_sansCounts (sansCounts_of_sansRings (setSlice_sansRings s a w))

@[simp] theorem revoke_sansCaches (s : State) (a : Nat) : (s.revoke a).sansCaches = s.sansCaches := by
  unfold State.revoke
  split
  · rfl
  · dsimp only
    split
    · simp
    · split <;> simp

@[simp] theorem homeWrite_sansCaches (s : State) (a : Nat) (m : BitVec 4) (w : Word) :
    (s.homeWrite a m w).sansCaches = s.sansCaches := by
  simp [State.homeWrite]

@[simp] theorem setEntry_sansCaches (s : State) (a : Nat) (e : BitVec 128) : (s.setEntry a e).sansCaches = s.sansCaches := by
  simp [State.setEntry]

@[simp] theorem setPin_sansCaches (s : State) (x : Pin) (v : Bool) : (s.setPin x v).sansCaches = s.sansCaches :=
  foldl_keeps _ (fun _ _ => setEntry_sansCaches _ _ _) _ _

@[simp] theorem dropPrivate_sansCaches (s : State) (k : Nat) : (s.dropPrivate k).sansCaches = s.sansCaches := by
  refine foldl_keeps _ (fun t a => ?_) _ _
  split <;> simp

theorem groups_of_sansCaches {s t : State} (h : t.sansCaches = s.sansCaches) : t.groups = s.groups := (congrArg State.groups h :)
theorem sfu_of_sansCaches {s t : State} (h : t.sansCaches = s.sansCaches) : t.sfu = s.sfu := (congrArg State.sfu h :)

end Sys2Proof.Machine
end

section
/-!
SUPPORT. The traps that the system answers, and the end of a team by a fault (O7).
-/

namespace Sys2Proof.Machine

/-! ### System causes -/

section
variable {s : State} {k : Nat} {rs : List Raised} {r : Raised}

theorem takeTrap_policy (hk : isPolicy k = true) (hr : trapCause rs = some r) : s.takeTrap k rs = s.policyFault k := by
  simp [State.takeTrap, hr, hk]

theorem takeTrap_accClaim (hk : isPolicy k = false) (hr : trapCause rs = some r) (hc : r.cause = .accClaim) :
    s.takeTrap k rs = s := by
  simp [State.takeTrap, hr, hk, hc]

theorem takeTrap_preempt (hk : isPolicy k = false) (hr : trapCause rs = some r) (hc : r.cause = .preempt) :
    s.takeTrap k rs = s.haltGroup k := by
  simp [State.takeTrap, hr, hk, hc]

theorem takeTrap_watchdog (hk : isPolicy k = false) (hr : trapCause rs = some r) (hc : r.cause = .watchdog) :
    s.takeTrap k rs = s.faultTeam (ctxOf k) .watchdog 0 (((s.group k).pcOf r.lane).setWidth 32 : Word).toNat := by
  simp [State.takeTrap, hr, hk, hc]

/-- NOT_PRESENT leaves its addresses in TADDR; then the system maps the page, parks the team or ends it (R163). -/
theorem takeTrap_notPresent (hk : isPolicy k = false) (hr : trapCause rs = some r) (hc : r.cause = .notPresent) :
    let u := s.setGroup k ((s.group k).noteAddrs rs)
    s.takeTrap k rs = u ∨ s.takeTrap k rs = (u.parkTeam (ctxOf k)).haltGroup k ∨
      s.takeTrap k rs =
        u.faultTeam (ctxOf k) .notPresent (r.addr.getD 0) (((s.group k).pcOf r.lane).setWidth 32 : Word).toNat := by
  simp only [State.takeTrap, hr, hk, hc, Bool.false_eq_true, if_false]
  split
  · exact .inl rfl
  · split
    · exact .inr (.inl rfl)
    · exact .inr (.inr rfl)

theorem policyFault_running {p : PRun} (h : (s.engine (clusterOfEngine k)).run = some p) :
    s.policyFault k = s.setEngine (clusterOfEngine k)
      { s.engine (clusterOfEngine k) with run := some { p with status := .failed } } := by
  have h : (mget {} s.engines (clusterOfEngine k)).run = some p := h
  simp only [State.policyFault, h]
  rfl

end

/-! ### The end of a group -/

@[simp] theorem notePast_groups (s : State) (k : Nat) : (s.notePast k).groups = s.groups := by
  simp only [State.notePast, apply_ite State.groups, State.updTeam_groups, ite_self]
@[simp] theorem notePast_sfu (s : State) (k : Nat) : (s.notePast k).sfu = s.sfu := by
  have upd : ∀ (u : State) (c : Nat) (f : Team → Team), (u.updTeam c f).sfu = u.sfu := fun _ _ _ => rfl
  simp only [State.notePast, apply_ite State.sfu, upd, ite_self]

theorem dropGroup_groups (s : State) (k : Nat) : (s.dropGroup k).groups = mdel k s.groups := by
  simp [State.dropGroup, State.orphan, State.releaseEndpoints, State.leaveQueues,
    groups_of_sansCaches (dropPrivate_sansCaches s k)]

theorem dropGroup_sfu (s : State) (k : Nat) :
    (s.dropGroup k).sfu = s.sfu.map fun p => (p.1, p.2.filter fun e => e.grp != k) := by
  simp [State.dropGroup, State.orphan, State.releaseEndpoints, State.leaveQueues,
    sfu_of_sansCaches (dropPrivate_sansCaches s k)]

theorem mem_sfu_dropGroup {s : State} {k core : Nat} {e : SfuEntry} (h : e ∈ mget [] (s.dropGroup k).sfu core) :
    e ∈ mget [] s.sfu core ∧ e.grp ≠ k := by
  rw [dropGroup_sfu, mget, mfind_map (fun _ (es : List SfuEntry) => es.filter fun e => e.grp != k)] at h
  cases hf : mfind core s.sfu with
  | none => simp [hf] at h
  | some es => simpa [mget, hf] using h

theorem mfind_dropGroups (ks : List Nat) (s : State) (k : Nat) :
    mfind k (ks.foldl (fun u k => u.dropGroup k) s).groups = if k ∈ ks then none else mfind k s.groups := by
  induction ks generalizing s with
  | nil => simp
  | cons j ks ih =>
    rw [List.foldl_cons, ih, dropGroup_groups, mfind_mdel]
    by_cases hj : k = j <;> by_cases hk : k ∈ ks <;> simp [hj, hk]

theorem mem_sfu_dropGroups (ks : List Nat) (s : State) {core : Nat} {e : SfuEntry}
    (h : e ∈ mget [] (ks.foldl (fun u k => u.dropGroup k) s).sfu core) : e ∈ mget [] s.sfu core ∧ e.grp ∉ ks := by
  induction ks generalizing s with
  | nil => exact ⟨h, by simp⟩
  | cons j ks ih =>
    obtain ⟨hm, hk⟩ := ih _ h
    obtain ⟨hm, hj⟩ := mem_sfu_dropGroup hm
    exact ⟨hm, by simp [hj, hk]⟩

theorem mem_groupsOf {s : State} {ctx k : Nat} (hp : isPolicy k = false) (hc : ctxOf k = ctx)
    (hs : (mfind k s.groups).isSome = true) : k ∈ s.groupsOf ctx := by
  obtain ⟨g, hg⟩ := Option.isSome_iff_exists.1 hs
  exact List.mem_map.2 ⟨(k, g), List.mem_filter.2 ⟨mem_of_mfind hg, by simp [hp, hc]⟩, rfl⟩

/-! ### The end of a team -/

/-- The state with the groups of a team ended and its pages given back. -/
def State.shedTeam (s : State) (ctx : Nat) : State := ((s.groupsOf ctx).foldl (fun u k => u.dropGroup k) s).endPages ctx

theorem setPins_sansCaches (ps : List Pin) (s : State) (v : Bool) :
    (ps.foldl (fun u p => u.setPin p v) s).sansCaches = s.sansCaches :=
  foldl_keeps _ (fun _ _ => setPin_sansCaches _ _ _) _ _

@[simp] theorem endPages_groups (s : State) (ctx : Nat) : (s.endPages ctx).groups = s.groups := by
  simp only [State.endPages, apply_ite State.groups, groups_of_sansCaches (setPins_sansCaches _ _ _), ite_self]

@[simp] theorem endPages_sfu (s : State) (ctx : Nat) : (s.endPages ctx).sfu = s.sfu := by
  simp only [State.endPages, apply_ite State.sfu, sfu_of_sansCaches (setPins_sansCaches _ _ _), ite_self]

/-- The end of an image's unload changes memory, the bound routines and the images. -/
theorem reapImages_keeps (s : State) :
    s.reapImages.groups = s.groups ∧ s.reapImages.teams = s.teams ∧ s.reapImages.sfu = s.sfu ∧
      s.reapImages.caches.tlb = s.caches.tlb := by
  have h : ∀ ws : List (Nat × Nat),
      (ws.foldl (fun u w => u.putBytes w.1 (List.replicate w.2 memDefault)) s).sansCounts = s.sansCounts :=
    fun ws => sansCounts_of_sansRings (foldl_keeps _ (fun _ _ => putBytes_sansRings _ _ _) _ _)
  simp only [State.reapImages, groups_of_sansCounts (h _), teams_of_sansCounts (h _), sfu_of_sansCounts (h _),
    tlb_of_sansCounts (h _), and_self]

/-- A team's record counts its end (R301). -/
def State.countEnd (s : State) (launch ctx core : Nat) (last : Option Nat) : State :=
  match mfind launch s.launches with
  | none => s
  | some r =>
    let r := { r with
      live := r.live - 1, ends := r.ends ++ [(ctx, core, s.nextId)],
      nlast := match last with
        | some n => some (max n (r.nlast.getD 0))
        | none => r.nlast }
    let s := { s with launches := mset launch r s.launches }
    if r.st = RState.started ∧ r.live = 0 ∧ r.placed = r.teamCount then s.endRecord launch r else s

theorem launches_of_ite (c : Prop) [Decidable c] {u v s : State} (hu : { u with launches := s.launches } = s)
    (hv : { v with launches := s.launches } = s) : { (if c then u else v) with launches := s.launches } = s := by
  by_cases h : c
  · rw [if_pos h]; exact hu
  · rw [if_neg h]; exact hv

theorem countEnd_keeps (s : State) (launch ctx core : Nat) (last : Option Nat) :
    { s.countEnd launch ctx core last with launches := s.launches } = s := by
  unfold State.countEnd
  cases mfind launch s.launches with
  | none => rfl
  | some r => exact launches_of_ite _ rfl rfl

/-- The state with a team and its translations gone. -/
def State.forgetTeam (s : State) (ctx : Nat) : State :=
  { s with
    teams := mdel ctx s.teams,
    caches := { s.caches with
      tlb := s.caches.tlb.map fun (p : Nat × List TlbEntry) => (p.1, p.2.filter fun e => e.ctx != ctx),
      lines := s.caches.lines.map fun (p : Nat × L1Line) => if p.2.ctx == ctx then (p.1, { p.2 with attr := none }) else p } }

/-- The end of a team in its stages (R19). -/
theorem endTeam_eq (s : State) (ctx : Nat) :
    s.endTeam ctx = (((s.shedTeam ctx).forgetTeam ctx).countEnd (mget {} s.teams ctx).launch ctx (mget {} s.teams ctx).core
      (mget {} (s.shedTeam ctx).teams ctx).nlast).reapImages := rfl

theorem endTeam_keeps (s : State) (ctx : Nat) :
    let v := s.shedTeam ctx
    (s.endTeam ctx).groups = v.groups ∧ (s.endTeam ctx).teams = mdel ctx v.teams ∧ (s.endTeam ctx).sfu = v.sfu ∧
      (s.endTeam ctx).caches.tlb = v.caches.tlb.map fun p => (p.1, p.2.filter fun e => e.ctx != ctx) := by
  have hc := countEnd_keeps ((s.shedTeam ctx).forgetTeam ctx) (mget {} s.teams ctx).launch ctx (mget {} s.teams ctx).core
    (mget {} (s.shedTeam ctx).teams ctx).nlast
  rw [endTeam_eq]
  obtain ⟨hg, ht, hs, hl⟩ := reapImages_keeps (((s.shedTeam ctx).forgetTeam ctx).countEnd (mget {} s.teams ctx).launch ctx
    (mget {} s.teams ctx).core (mget {} (s.shedTeam ctx).teams ctx).nlast)
  exact ⟨hg.trans (congrArg State.groups hc :), ht.trans (congrArg State.teams hc :), hs.trans (congrArg State.sfu hc :),
    hl.trans (congrArg (fun u : State => u.caches.tlb) hc :)⟩

/-- What is left of a team that a fault has ended (R19, R163). -/
theorem endTeam_removes (s : State) (ctx : Nat) :
    mfind ctx (s.endTeam ctx).teams = none ∧
      (∀ k, isPolicy k = false → ctxOf k = ctx → mfind k (s.endTeam ctx).groups = none) ∧
      (∀ core e, e ∈ mget [] (s.endTeam ctx).sfu core → isPolicy e.grp = false → (mfind e.grp s.groups).isSome = true →
        ctxOf e.grp ≠ ctx) ∧
      ∀ cl e, e ∈ mget [] (s.endTeam ctx).caches.tlb cl → e.ctx ≠ ctx := by
  obtain ⟨hg, ht, hs, hl⟩ := endTeam_keeps s ctx
  refine ⟨?_, fun k hp hc => ?_, fun core e he hp hsome hc => ?_, fun cl e he => ?_⟩
  · rw [ht, mfind_mdel, if_pos rfl]
  · rw [hg, State.shedTeam, endPages_groups, mfind_dropGroups]
    split
    · rfl
    · next hn => exact Option.not_isSome_iff_eq_none.1 fun h => hn (mem_groupsOf hp hc h)
  · rw [hs, State.shedTeam, endPages_sfu] at he
    exact (mem_sfu_dropGroups _ _ he).2 (mem_groupsOf hp hc hsome)
  · rw [hl, mget, mfind_map (fun _ (es : List TlbEntry) => es.filter fun e => e.ctx != ctx)] at he
    cases hf : mfind cl (s.shedTeam ctx).caches.tlb with
    | none => simp [hf] at he
    | some es => simp [hf] at he; exact he.2

/-- Settles O7: the system's causes one by one; a team's end removes what carries its context. -/
theorem systemCauses : Obligations.SystemCauses := by
  refine ⟨⟨fun s k rs r hk hr => ?_, fun s k rs r p hk hr hp => ?_⟩, fun s ctx c addr pc => ⟨fun h => ?_, fun t h => ?_⟩⟩
  · refine ⟨fun hc => ⟨takeTrap_notPresent hk hr hc, fun x hx a _ ha hu => ?_, ?_⟩, takeTrap_accClaim hk hr,
      takeTrap_preempt hk hr, takeTrap_watchdog hk hr, fun hc => ⟨fun hh => ?_, fun hh hb => ?_⟩⟩
    · rw [State.group_setGroup]
      exact noteAddrs_taddr_same rs _ hx ha hu
    · rw [State.group_setGroup]; rfl
    · rw [takeTrap_user hk hr hc]; simp [hh]
    · have hn : r.cause.routeBit.any (s.group k).ctl.troute.getLsbD = false := by
        cases hr : r.cause.routeBit with
        | none => rfl
        | some b => exact hb b hr
      rw [takeTrap_user hk hr hc]; simp [hh, hn]
  · rw [takeTrap_policy hk hr, policyFault_running hp]
  · simp [State.faultTeam, h]
  · have he := postEvent_sansCounts s t.qid ⟨3, 1, t.qid, t.tag, c.code, addr, pc⟩
    have hr := endTeam_removes (s.postEvent t.qid ⟨3, 1, t.qid, t.tag, c.code, addr, pc⟩) ctx
    rw [groups_of_sansCounts he] at hr
    simpa only [State.faultTeam, h] using hr

end Sys2Proof.Machine
end

section
/-!
SUPPORT. MOVC: how it completes, and what each control register reads as (O21).
-/

namespace Sys2Proof.Machine

/-! ### How MOVC completes -/

theorem groupStep_ctl {g h : Group} {out : Nat → Nat → Option Word} {pc : Nat → BitVec 64} (c : Ctl)
    (st : GroupStep g h out pc) : GroupStep { g with ctl := c } { h with ctl := c } out pc := by
  refine ⟨st.regs, st.marks, st.pcs, ?_, congrArg (fun x : Group => { x with ctl := c }) st.rest⟩
  have hp : ({ g with ctl := c } : Group).unpark = { g.unpark with ctl := c } := by
    unfold Group.unpark
    by_cases hc : (g.live.filter fun l => !laneBit g.park l).isEmpty = true
    · rw [if_pos hc]; exact if_pos hc
    · rw [if_neg hc]; exact if_neg hc
  rw [hp]
  exact st.park

theorem groupStep_ctl_advance {g x : Group} {out : Nat → Nat → Option Word} {pc : Nat → BitVec 64} {as bs : List Nat}
    {m n : Nat} (c : Ctl) (st : GroupStep g ((x.advance as m).advance bs n) out pc) :
    GroupStep { g with ctl := c } ((({ x with ctl := c } : Group).advance as m).advance bs n) out pc :=
  groupStep_ctl c st

/-- Some lane raises: a lowest one does. -/
theorem trapCause_of_ne_nil {rs : List Raised} (h : rs ≠ []) : ∃ r, trapCause rs = some r := by
  have fold : ∀ (rs : List Raised) (x : Raised), ∃ r, rs.foldl (fun m r => match m with
      | none => some r
      | some x => if r.lane < x.lane then some r else some x) (some x) = some r := by
    intro rs
    induction rs with
    | nil => exact fun x => ⟨x, rfl⟩
    | cons y ys ih =>
      intro x
      rw [List.foldl_cons]
      dsimp only
      split
      · exact ih y
      · exact ih x
  cases rs with
  | nil => exact absurd rfl h
  | cons x xs => exact fold xs x

section
variable {s : State} {f : Fields}
  (h : Issues s 0x0F f (fun _ _ => ctlReadable f.imm.toNat || 0x40 ≤ f.imm.toNat) false)
include h

theorem movc_register (hi : f.imm.toNat < 0x40) :
    ∃ g', movcIssue f s = s.setGroup s.cur g' ∧
      GroupStep
        (if f.imm = 0x09#8 then { s.g with ctl := { s.g.ctl with timehi := BitVec.ofNat 32 (s.dev.time / 2 ^ 32) } } else s.g)
        g' (oneReg f.d.toNat (s.exLanes 0x0F f) fun l => ctlValue s.opened s.cur f.imm.toNat l)
        (s.g.nextPc (formLen f.form)) := by
  unfold movcIssue
  dsimp only
  have st := setRegs_step (s := s) (op := 0x0F) (f := f) f.d.toNat fun l => ctlValue s.opened s.cur f.imm.toNat l
  by_cases h9 : f.imm = 0x09#8
  · rw [if_pos h9]
    refine ⟨_, issue_group h ?_, groupStep_ctl_advance { s.g.ctl with timehi := BitVec.ofNat 32 (s.dev.time / 2 ^ 32) } st⟩
    simp [State.opened, State.updGroup_eq, State.g, h9]
  · have hn : f.imm.toNat ≠ 9 := fun e => h9 (BitVec.eq_of_toNat_eq e)
    rw [if_neg h9]
    refine ⟨_, issue_group h ?_, st⟩
    simp [State.opened, State.updGroup_eq, State.g, hn, Nat.not_le.2 hi]

theorem movc_counter (hi : 0x40 ≤ f.imm.toNat) {w : Word} (hw : s.opened.ownCounter s.cur f.imm.toNat = some w) :
    ∃ g', movcIssue f s = s.setGroup s.cur g' ∧
      GroupStep s.g g' (oneReg f.d.toNat (s.exLanes 0x0F f) fun _ => w) (s.g.nextPc (formLen f.form)) := by
  unfold movcIssue
  dsimp only
  refine ⟨_, issue_group h ?_, setRegs_step (s := s) (op := 0x0F) (f := f) f.d.toNat fun _ => w⟩
  simp only [hi, if_true, hw]
  simp [State.opened, State.updGroup_eq, State.g]

theorem movc_noCounter (hi : 0x40 ≤ f.imm.toNat) (hw : s.opened.ownCounter s.cur f.imm.toNat = none)
    (hp : isPolicy s.cur = true) :
    movcIssue f s = (s.opened.pass s.cur (s.excluded 0x0F f) (formLen f.form)).policyFault s.cur := by
  obtain ⟨r, hr⟩ := trapCause_of_ne_nil (rs := (s.exLanes 0x0F f).map fun l => ⟨l, .illegalOpnd, none⟩) (by simpa using h.lanes)
  unfold movcIssue
  dsimp only
  rw [issue_traps h true (t := s.opened) (rs := (s.exLanes 0x0F f).map fun l => ⟨l, .illegalOpnd, none⟩)
    (by simp only [hi, if_true, hw]), takeTrap_policy hp hr]

end

/-! ### What a control register reads as -/

theorem setBit_getLsbD (w : Word) {b : Nat} (x : Bool) (i : Nat) (hb : b < 32) :
    (setBit w b x).getLsbD i = if i = b then x else w.getLsbD i := by
  cases x with
  | true =>
    by_cases e : i = b
    · subst e; simp [setBit, hb]
    · simp [setBit, BitVec.getLsbD_twoPow, e, Ne.symm e]
  | false =>
    by_cases e : i = b
    · subst e; simp [setBit, hb]
    · by_cases hi : i < 32
      · simp [setBit, e, hi]
      · simp [e, BitVec.getLsbD_of_ge, Nat.not_lt.1 hi]

theorem pair64_toNat (lo hi : Word) : (pair64 lo hi).toNat = hi.toNat * 2 ^ 32 + lo.toNat := by
  rw [pair64, BitVec.toNat_append, ← Nat.shiftLeft_add_eq_or_of_lt lo.isLt, Nat.shiftLeft_eq]

theorem lo32_toNat (x : BitVec 64) : (lo32 x).toNat = x.toNat % 2 ^ 32 := BitVec.toNat_setWidth ..
theorem hi32_toNat (x : BitVec 64) : (hi32 x).toNat = x.toNat / 2 ^ 32 := by
  rw [hi32, BitVec.toNat_setWidth, BitVec.toNat_ushiftRight, Nat.shiftRight_eq_div_pow, Nat.mod_eq_of_lt]
  have := x.isLt
  omega

@[simp] theorem pair64_lo_hi (x : BitVec 64) : pair64 (lo32 x) (hi32 x) = x := by
  apply BitVec.eq_of_toNat_eq
  rw [pair64_toNat, lo32_toNat, hi32_toNat, Nat.div_add_mod']

/-- The two flags of each of `n` accumulators, as bits k and 8 + k (R35). -/
theorem flagBits_getLsbD (a b : Nat → Bool) {n k : Nat} (hn : n ≤ 8) (hk : k < 8) :
    let w := (List.range n).foldl (fun w i => setBit (setBit w i (a i)) (8 + i) (b i)) 0#32
    w.getLsbD k = (decide (k < n) && a k) ∧ w.getLsbD (8 + k) = (decide (k < n) && b k) := by
  induction n with
  | zero => simp
  | succ n ih =>
    obtain ⟨ia, ib⟩ := ih (by omega)
    simp only [List.range_succ, List.foldl_append, List.foldl_cons, List.foldl_nil]
    rw [setBit_getLsbD _ _ _ (by omega), setBit_getLsbD _ _ _ (by omega), setBit_getLsbD _ _ _ (by omega),
      setBit_getLsbD _ _ _ (by omega), ia, ib]
    rcases Nat.lt_trichotomy k n with h | rfl | h
    · simp [h, show k ≠ n by omega, show k ≠ 8 + n by omega, show 8 + k ≠ n by omega, show k < n + 1 by omega]
    · simp
    · simp [show ¬ k < n by omega, show k ≠ n by omega, show k ≠ 8 + n by omega, show 8 + k ≠ n by omega,
        show ¬ k < n + 1 by omega]

theorem alive_eq_false {g : Group} {l : Nat} : g.alive l = false ↔ g.pcOf l = exitedPC := by simp [Group.alive]

theorem laneBit_exited (g : Group) {j : Nat} (hj : j < 32) :
    (maskOf (allLanes.filter fun x => !g.alive x)).getLsbD j = true ↔ g.pcOf j = exitedPC := by
  rw [← laneBit, laneBit_maskOf _ hj, ← alive_eq_false]
  simp [allLanes, hj]

theorem wordsOf_taddr (x : BitVec 57) :
    ((x >>> 32).setWidth 32 : Word).toNat * 2 ^ 32 + (x.setWidth 32 : Word).toNat = x.toNat := by
  have := x.isLt
  simp only [BitVec.toNat_setWidth, BitVec.toNat_ushiftRight, Nat.shiftRight_eq_div_pow]
  omega

theorem ctlValue_tc (s : State) (c l : Nat) {k : Nat} (hk : k < 16) :
    ctlValue s c (0x20 + k) l = mget 0 (s.group c).ctl.tc k := by
  have hr : 0x20 ≤ 0x20 + k ∧ 0x20 + k ≤ 0x2F := by omega
  simp only [ctlValue, hr, if_true, and_self, Nat.add_sub_cancel_left]

theorem ctlValue_count (s : State) (c l : Nat) {k : Nat} (hk : k < 6) :
    ctlValue s c (0x30 + k) l = BitVec.ofNat 32 ((s.group c).count k) := by
  obtain rfl | rfl | rfl | rfl | rfl | rfl : k = 0 ∨ k = 1 ∨ k = 2 ∨ k = 3 ∨ k = 4 ∨ k = 5 := by omega
  all_goals rfl

theorem ctlValue_capMask (s : State) (c l : Nat) {k : Nat} (hk : k < 4) :
    ctlValue s c (0x38 + k) l = Config.capMask.extractLsb' (32 * k) 32 := by
  obtain rfl | rfl | rfl | rfl : k = 0 ∨ k = 1 ∨ k = 2 ∨ k = 3 := by omega
  all_goals rfl

/-- A narrow field reads zero-extended. -/
theorem setWidth_toNat_of_le {n : Nat} (x : BitVec n) (h : n ≤ 32) : (x.setWidth 32 : Word).toNat = x.toNat := by
  rw [BitVec.toNat_setWidth, Nat.mod_eq_of_lt (Nat.lt_of_lt_of_le x.isLt (Nat.pow_le_pow_right (by decide) h))]

/-- Settles O21: MOVC is one issue; each index of R37 is a case of `ctlValue`. -/
theorem controlReads : Obligations.ControlReads := by
  refine ⟨fun s f h => ⟨fun hi => ?_, fun hi => ⟨fun w hw => ?_, fun hw hp => ?_⟩⟩, fun s l hp => ?_⟩
  · obtain ⟨g', he, hg⟩ := movc_register h hi
    exact ⟨g', congrArg _ he, congrArg _ he, hg⟩
  · obtain ⟨g', he, hg⟩ := movc_counter h hi hw
    exact ⟨g', congrArg _ he, hg⟩
  · exact congrArg _ (movc_noCounter h hi hw hp)
  · have gid : (BitVec.ofNat 32 (gidOf s.cur)).toNat = s.cur % 64 := by
      rw [BitVec.toNat_ofNat, gidOf]; omega
    exact ⟨BitVec.toNat_ofNat .., gid, BitVec.toNat_ofNat .., BitVec.toNat_ofNat .., BitVec.toNat_ofNat ..,
      setWidth_toNat_of_le s.dev.node (by decide), BitVec.toNat_ofNat .., BitVec.toNat_ofNat .., rfl, BitVec.toNat_ofNat ..,
      rfl, BitVec.toNat_ofNat .., rfl, rfl, rfl, fun j hj => laneBit_maskOf s.g.atIssue hj,
      fun j hj => laneBit_exited s.g hj, rfl, rfl, setWidth_toNat_of_le (mget 0 s.g.tcause l) (by decide), rfl,
      wordsOf_taddr _, rfl, rfl, fun ha k hk => flagBits_getLsbD _ _ ha hk, pair64_lo_hi _, rfl, rfl,
      fun k hk => ctlValue_tc s s.cur l hk,
      fun k hk => (congrArg BitVec.toNat (ctlValue_count s s.cur l hk)).trans (BitVec.toNat_ofNat ..),
      fun k hk => ctlValue_capMask s s.cur l hk, rfl, pair64_lo_hi _⟩

end Sys2Proof.Machine
end

section
/-!
SUPPORT. The acknowledgement of an atomic does not say what the statement claims of it (O28): the request's lanes are written
only where it carries no loss, and the statement leaves out that it carries none.
-/

namespace Sys2Proof.Machine

/-- A request that its home has not answered, and that carries a loss already. -/
def lossyItem : AtomItem :=
  { addr := 0, route := .cached, wide := false, va := 0, lanes := [(0, 0#64, 0#64)], lost := some .dataLost }

def lossyOp : Op := { id := 0, cls := 0, kind := .atomic 0 0 true false [lossyItem] [0] }

/-- A group whose AMO with .ret holds that request; the word at its home is `w`. -/
def lossyState (w : Word) : State := { groups := [(0, { ops := [lossyOp] })], caches := { l2 := [(0, w)] } }

/-- The acknowledgement marks the destination and leaves a free value in it, which does not depend on the word found (R215). -/
theorem lossyState_lands {w : Word} (hw : w = 0#32 ∨ w = 1#32) :
    ∃ u, exec (.atomicAck 0 0 0 none) (lossyState w) = .next u ∧ (u.group 0).reg 0 0 = Config.freeLostWord 0 0 := by
  refine ⟨_, rfl, ?_⟩
  rcases hw with rfl | rfl <;> exact mget_mput_same 0#32 [] 0 (Config.freeLostWord 0 0)

/-- Refutes O28: its third part says that a lane receives the word found, whatever loss the request carries. In `lossyState w`
that would make the free value equal to the word at the home, for the word 0 and for the word 1. -/
theorem not_atomicInstructions : ¬ Obligations.AtomicInstructions := by
  rintro ⟨-, -, ack, -⟩
  have found : ∀ w : Word, w = 0#32 ∨ w = 1#32 → w = Config.freeLostWord 0 0 := by
    intro w hw
    obtain ⟨u, hu, hr⟩ := lossyState_lands hw
    obtain ⟨t, g', ht, -, -, -, hland, -⟩ := ack (lossyState w) 0 0 0 0 0 lossyOp [lossyItem] lossyItem [0] w rfl rfl rfl rfl
      rfl rfl rfl (List.forall_mem_singleton.2 rfl) (fun c hc => by cases hc) (by decide) rfl
    obtain ⟨hreg, -⟩ := hland rfl (by decide) (by decide) (0, w.setWidth 64, 0#64) (by simp [lossyItem, returned])
    obtain rfl : u = t.setGroup 0 g' := by rw [hu] at ht; exact Host.Outcome.next.inj ht
    rw [State.group_setGroup, hreg] at hr
    simpa [lo32] using hr
  exact absurd ((found 0#32 (.inl rfl)).trans (found 1#32 (.inr rfl)).symm) (by decide)

end Sys2Proof.Machine
end

section
/-!
SUPPORT. The device in service: spares and soft errors (O53, its first part).
-/

namespace Sys2Proof.Machine

/-! ### Device events and spare units -/

@[simp] theorem deviceEvent_groups (s : State) (c d v : Nat) : (s.deviceEvent c d v).groups = s.groups :=
  groups_of_sansCounts (deviceEvent_sansCounts s c d v)
@[simp] theorem deviceEvent_teams (s : State) (c d v : Nat) : (s.deviceEvent c d v).teams = s.teams :=
  teams_of_sansCounts (deviceEvent_sansCounts s c d v)
@[simp] theorem deviceEvent_dev (s : State) (c d v : Nat) : (s.deviceEvent c d v).dev = s.dev :=
  dev_of_sansCounts (deviceEvent_sansCounts s c d v)
@[simp] theorem deviceEvent_l1 (s : State) (c d v : Nat) : (s.deviceEvent c d v).caches.l1 = s.caches.l1 :=
  l1_of_sansCounts (deviceEvent_sansCounts s c d v)

/-- A device event counts nothing but itself, where it is dropped. -/
theorem deviceEvent_pcntOf (s : State) (c d v : Nat) {i cl j : Nat} (h : pcntKey i cl j ≠ pcntKey evDrop 0 0) :
    (s.deviceEvent c d v).pcntOf i cl j = s.pcntOf i cl j := by
  rcases deviceEvent_cases s c d v with e | e
  · exact (congrArg (fun u : State => mget 0 u.pcnt (pcntKey i cl j)) e :)
  · rw [e, State.bump, State.pcntOf, mget_mput, if_neg h]; rfl

@[simp] theorem updDev_groups (s : State) (f : Dev → Dev) : (s.updDev f).groups = s.groups := rfl
@[simp] theorem updDev_teams (s : State) (f : Dev → Dev) : (s.updDev f).teams = s.teams := rfl
@[simp] theorem updDev_caches (s : State) (f : Dev → Dev) : (s.updDev f).caches = s.caches := rfl
@[simp] theorem updDev_dev (s : State) (f : Dev → Dev) : (s.updDev f).dev = f s.dev := rfl

section
variable (s : State) (c n : Nat) (h : Bool)

@[simp] theorem replaceWhen_groups : (s.replaceWhen c n h).groups = s.groups := by
  unfold State.replaceWhen; split <;> simp
@[simp] theorem replaceWhen_teams : (s.replaceWhen c n h).teams = s.teams := by
  unfold State.replaceWhen; split <;> simp
@[simp] theorem replaceWhen_l1 : (s.replaceWhen c n h).caches.l1 = s.caches.l1 := by
  unfold State.replaceWhen; split <;> simp
@[simp] theorem replaceWhen_spared : (s.replaceWhen c n h).dev.spared = s.dev.spared := by
  unfold State.replaceWhen; split <;> simp

theorem replaceWhen_pcntOf {i cl j : Nat} (hk : pcntKey i cl j ≠ pcntKey evDrop 0 0) :
    (s.replaceWhen c n h).pcntOf i cl j = s.pcntOf i cl j := by
  unfold State.replaceWhen
  split
  · exact deviceEvent_pcntOf _ _ _ _ hk
  · rfl

/-- A condition that holds is in REPLACE. -/
theorem mem_replaceWhen : c ∈ (s.replaceWhen c n true).dev.replace := by
  unfold State.replaceWhen
  by_cases hc : c ∈ s.dev.replace <;> simp [hc]

end

theorem sparedIn_congr {s t : State} (h : t.dev.spared = s.dev.spared) (k lo n : Nat) : t.sparedIn k lo n = s.sparedIn k lo n := by
  simp only [State.sparedIn, State.sparedUnit, h]

/-- A module is spared out: SPARED, and REPLACE of condition 3 for its boundary (R323, R337). -/
theorem spareOut_module (s : State) (u : Nat) :
    let v := (s.updDev fun d => { d with spared := mset (5 * 65536 + u) true d.spared }).deviceEvent 0x16 5 u
    s.spareOut 5 u = v.replaceWhen 3 (48 - v.sparedIn 5 (u / 48 * 48) 48) (48 - v.sparedIn 5 (u / 48 * 48) 48 < 40) := rfl

theorem moduleRetrain_fails (s : State) {b m : Nat} (hb : b < 4) (hm : m < 48) (hs : s.sparedUnit 5 (48 * b + m) = false) :
    exec (.moduleRetrain b m false) s = .next (s.spareOut 5 (48 * b + m)) := by
  have hn : (false || 4 ≤ b || 48 ≤ m || s.sparedUnit 5 (48 * b + m)) = false := by
    simp [hs, Nat.not_le.2 hb, Nat.not_le.2 hm]
  show Host.Outcome.next (if _ then _ else _) = _
  rw [if_neg (by rw [hn]; decide)]

theorem spareOut_module_effect (s : State) {b m : Nat} (hm : m < 48) :
    let t := s.spareOut 5 (48 * b + m)
    t.dev.spared = mset (5 * 65536 + (48 * b + m)) true s.dev.spared ∧
      (48 - t.sparedIn 5 (48 * b) 48 < 40 → 3 ∈ t.dev.replace) ∧ t.groups = s.groups ∧ t.teams = s.teams ∧
      t.caches.l1 = s.caches.l1 := by
  have hb : (48 * b + m) / 48 * 48 = 48 * b := by omega
  dsimp only
  rw [spareOut_module, hb]
  refine ⟨by simp, fun h => ?_, by simp, by simp, by simp⟩
  rw [sparedIn_congr (replaceWhen_spared ..)] at h
  rw [decide_eq_true h]
  exact mem_replaceWhen ..

/-! ### Corrected errors -/

theorem structures_kind_lt {kind unit : Nat} (h : unit < structures kind) : kind < 11 := by
  refine Decidable.byContradiction fun hk => ?_
  obtain ⟨j, rfl⟩ := Nat.exists_eq_add_of_le (Nat.not_lt.1 hk)
  simp [structures, Nat.add_comm 11 j] at h

theorem structures_le (kind : Nat) : structures kind ≤ 4096 := by
  by_cases hk : kind < 11
  · exact (by decide : ∀ k < 11, structures k ≤ 4096) kind hk
  · obtain ⟨j, rfl⟩ := Nat.exists_eq_add_of_le (Nat.not_lt.1 hk)
    simp [structures, Nat.add_comm 11 j]

theorem softError_corrected (s : State) {kind unit : Nat} (addr : Nat) (h : unit < structures kind) :
    exec (.softError kind unit addr true) s = .next (s.softCount kind unit) := by
  show Host.Outcome.next (if _ then _ else _) = _
  rw [if_neg (Nat.not_le.2 h)]; rfl

theorem softError_hard (s : State) {kind unit : Nat} (addr : Nat) (h : unit < structures kind) :
    exec (.softError kind unit addr false) s = .next (s.hardError kind unit addr) := by
  show Host.Outcome.next (if _ then _ else _) = _
  rw [if_neg (Nat.not_le.2 h)]; rfl

/-- The count of a structure in an hour has a key of its own. -/
theorem softKey_ne {hour n i c : Nat} (hn : n < 2 ^ 32) (hi : i < 0x79) (hc : c < 2 ^ 16) :
    pcntKey (softKey hour) 0 n ≠ pcntKey i c 0 := by
  unfold pcntKey softKey
  omega

/-- The count of the cluster where a structure lies. -/
def State.clusterCount (s : State) (kind unit : Nat) : State :=
  match softCluster kind unit with
  | some c => s.bump 0x73 c 0 1
  | none => s

theorem softCount_eq (s : State) (kind unit : Nat) :
    let hour := softKey (s.dev.time / hourNs)
    let v := (s.bump hour 0 (4096 * kind + unit) 1).clusterCount kind unit
    s.softCount kind unit = v.replaceWhen 5 (v.pcntOf hour 0 (4096 * kind + unit)) (1000 < v.pcntOf hour 0 (4096 * kind + unit)) :=
  rfl

theorem softCluster_lt {kind unit c : Nat} (h : unit < structures kind) (hc : softCluster kind unit = some c) : c < 2 ^ 16 := by
  have := structures_le kind
  have hu : c ≤ unit := by
    unfold softCluster at hc
    split at hc <;> simp at hc <;> omega
  omega

theorem clusterCount_keeps (s : State) (kind unit : Nat) : { s.clusterCount kind unit with pcnt := s.pcnt } = s := by
  unfold State.clusterCount; split <;> rfl

theorem clusterCount_pcntOf (s : State) {kind unit : Nat} (h : unit < structures kind) {hour n : Nat} (hn : n < 2 ^ 32) :
    (s.clusterCount kind unit).pcntOf (softKey hour) 0 n = s.pcntOf (softKey hour) 0 n := by
  unfold State.clusterCount
  split
  · next c hc =>
    rw [State.bump, State.pcntOf, mget_mput, if_neg (softKey_ne hn (by decide) (softCluster_lt h hc))]; rfl
  · rfl

theorem softCount_effect (s : State) {kind unit : Nat} (h : unit < structures kind) :
    let t := s.softCount kind unit
    t.pcntOf (softKey (s.dev.time / hourNs)) 0 (4096 * kind + unit) =
      s.pcntOf (softKey (s.dev.time / hourNs)) 0 (4096 * kind + unit) + 1 ∧ t.groups = s.groups ∧
      t.caches.l1 = s.caches.l1 := by
  have hn : 4096 * kind + unit < 2 ^ 32 := by
    have := structures_kind_lt h
    have := structures_le kind
    omega
  have keeps := clusterCount_keeps (s.bump (softKey (s.dev.time / hourNs)) 0 (4096 * kind + unit) 1) kind unit
  dsimp only
  rw [softCount_eq]
  refine ⟨?_, ?_, ?_⟩
  · rw [replaceWhen_pcntOf _ _ _ _ (softKey_ne hn (by decide) (by decide)), clusterCount_pcntOf _ h hn, State.bump,
      State.pcntOf, mget_mput_same]
  · rw [replaceWhen_groups]; exact (congrArg State.groups keeps :)
  · rw [replaceWhen_l1]; exact (congrArg (fun u : State => u.caches.l1) keeps :)

/-! ### Spoilt words -/

@[simp] theorem isBad_setBad (s : State) (a x : Nat) (b : Bool) : (s.setBad a b).isBad x = if x = a then b else s.isBad x :=
  mget_mput ..

theorem setBads_keeps (xs : List Nat) (s : State) :
    { xs.foldl (fun u x => u.setBad x true) s with
      caches := { (xs.foldl (fun u x => u.setBad x true) s).caches with bad := s.caches.bad } } = s := by
  have h := foldl_keeps (fun u : State => ({ u with caches := { u.caches with bad := [] } } : State))
    (f := fun u x => u.setBad x true) (fun _ _ => rfl) xs s
  exact (congrArg (fun u : State => ({ u with caches := { u.caches with bad := s.caches.bad } } : State)) h :)

theorem isBad_setBads (xs : List Nat) (s : State) (x : Nat) :
    (xs.foldl (fun u x => u.setBad x true) s).isBad x = (s.isBad x || decide (x ∈ xs)) := by
  induction xs generalizing s with
  | nil => simp
  | cons y ys ih =>
    rw [List.foldl_cons, ih, isBad_setBad]
    by_cases h : x = y <;> simp [h]

/-- The words of a unit of `n` words. -/
theorem mem_unitWords {a n x : Nat} :
    x ∈ (List.range n).map (fun i => a / (4 * n) * (4 * n) + 4 * i) ↔
      a / (4 * n) * (4 * n) ≤ x ∧ x < a / (4 * n) * (4 * n) + 4 * n ∧ x % 4 = 0 := by
  have hb : a / (4 * n) * (4 * n) % 4 = 0 := by
    rw [Nat.mul_left_comm]; exact Nat.mul_mod_right ..
  generalize a / (4 * n) * (4 * n) = b at hb
  simp only [List.mem_map, List.mem_range]
  constructor
  · rintro ⟨i, hi, rfl⟩; omega
  · rintro ⟨h1, h2, h3⟩; exact ⟨(x - b) / 4, by omega, by omega⟩

theorem spoil_effect (s : State) (a n : Nat) :
    let b := a / (4 * n) * (4 * n)
    let t := s.spoil a n
    (s.pending b = true → t = s) ∧ { t with caches := { t.caches with bad := s.caches.bad } } = s ∧
      (s.pending b = false → ∀ x, t.isBad x = (s.isBad x || decide (b ≤ x ∧ x < b + 4 * n ∧ x % 4 = 0))) := by
  dsimp only
  unfold State.spoil
  dsimp only
  cases hp : s.pending (a / (4 * n) * (4 * n)) with
  | true => exact ⟨fun _ => rfl, rfl, fun h => Bool.noConfusion h⟩
  | false =>
    refine ⟨fun h => Bool.noConfusion h, setBads_keeps _ s, fun _ x => ?_⟩
    rw [if_neg (by decide), isBad_setBads]
    simp only [mem_unitWords]

/-- A word that a slice holds is spoiled there. -/
def State.spoilSliceWord (s : State) (x : Nat) : State :=
  if (mfind x s.caches.l2).isSome then s.setSliceErr x true else s

theorem spoilSlice_eq (s : State) (ha : Nat) :
    s.spoilSlice ha = (s.spoilSliceWord (ha / 8 * 8)).spoilSliceWord (ha / 8 * 8 + 4) := rfl

theorem spoilSliceWord_keeps (s : State) (x : Nat) :
    ({ s.spoilSliceWord x with caches := { (s.spoilSliceWord x).caches with bad := [] } } : State) =
      { s with caches := { s.caches with bad := [] } } := by
  unfold State.spoilSliceWord; split <;> rfl

theorem sliceErr_spoilSliceWord (s : State) (x y : Nat) :
    (s.spoilSliceWord x).sliceErr y = (s.sliceErr y || decide (y = x) && (mfind y s.caches.l2).isSome) := by
  unfold State.spoilSliceWord
  by_cases h : y = x
  · subst h
    cases hs : (mfind y s.caches.l2).isSome <;> simp [State.sliceErr, State.setSliceErr]
  · split <;> simp [State.sliceErr, State.setSliceErr, h]

theorem spoilSlice_effect (s : State) (ha x : Nat) :
    let t := s.spoilSlice ha
    { t with caches := { t.caches with bad := s.caches.bad } } = s ∧
      t.sliceErr x = (s.sliceErr x || decide (x / 8 = ha / 8 ∧ x % 4 = 0) && (mfind x s.caches.l2).isSome) := by
  have k := (spoilSliceWord_keeps (s.spoilSliceWord (ha / 8 * 8)) (ha / 8 * 8 + 4)).trans (spoilSliceWord_keeps s (ha / 8 * 8))
  have l2 : (s.spoilSliceWord (ha / 8 * 8)).caches.l2 = s.caches.l2 :=
    (congrArg (fun u : State => u.caches.l2) (spoilSliceWord_keeps s (ha / 8 * 8)) :)
  dsimp only
  rw [spoilSlice_eq]
  refine ⟨(congrArg (fun u : State => ({ u with caches := { u.caches with bad := s.caches.bad } } : State)) k :), ?_⟩
  have hx : decide (x / 8 = ha / 8 ∧ x % 4 = 0) = (decide (x = ha / 8 * 8) || decide (x = ha / 8 * 8 + 4)) := by
    rw [← Bool.decide_or]
    exact decide_eq_decide.2 (by omega)
  rw [sliceErr_spoilSliceWord, sliceErr_spoilSliceWord, l2, hx, Bool.and_or_distrib_right, Bool.or_assoc]

end Sys2Proof.Machine
end

section
/-!
SUPPORT. Errors that cannot be corrected: who receives them (O53, its second part).
-/

namespace Sys2Proof.Machine

/-! ### Lost words -/

@[simp] theorem isLost_setLost (s : State) (a x : Nat) (b : Bool) :
    (s.setLost a b).isLost x = if x = a then b else s.isLost x := mget_mput ..
@[simp] theorem ownerOf_setLost (s : State) (a x : Nat) (b : Bool) : (s.setLost a b).ownerOf x = s.ownerOf x := rfl
@[simp] theorem l1_setLost (s : State) (a c x : Nat) (b : Bool) : (s.setLost a b).l1 c x = s.l1 c x := rfl
@[simp] theorem isLost_dropL1 (s : State) (c a x : Nat) : (s.dropL1 c a).isLost x = s.isLost x := rfl
@[simp] theorem ownerOf_dropL1 (s : State) (c a x : Nat) : (s.dropL1 c a).ownerOf x = s.ownerOf x := rfl
theorem l1_dropL1 (s : State) (c a c' x : Nat) :
    (s.dropL1 c a).l1 c' x = if l1Key c' x = l1Key c a then none else s.l1 c' x := mfind_mdel ..
@[simp] theorem l1_dropL1_same (s : State) (c a : Nat) : (s.dropL1 c a).l1 c a = none := by rw [l1_dropL1, if_pos rfl]
theorem l1_dropL1_none {s : State} {c' x : Nat} (c a : Nat) (h : s.l1 c' x = none) : (s.dropL1 c a).l1 c' x = none := by
  rw [l1_dropL1, h, ite_self]
@[simp] theorem isLost_delOwner (s : State) (a x : Nat) : (s.delOwner a).isLost x = s.isLost x := rfl
@[simp] theorem ownerOf_delOwner (s : State) (a x : Nat) : (s.delOwner a).ownerOf x = if x = a then none else s.ownerOf x :=
  mfind_mdel ..
@[simp] theorem l1_delOwner (s : State) (a c x : Nat) : (s.delOwner a).l1 c x = s.l1 c x := rfl

@[simp] theorem isLost_mapSlots (s : State) (c : Nat) (f : Slot → Slot) (x : Nat) : (s.mapSlots c f).isLost x = s.isLost x := rfl
@[simp] theorem ownerOf_mapSlots (s : State) (c : Nat) (f : Slot → Slot) (x : Nat) :
    (s.mapSlots c f).ownerOf x = s.ownerOf x := rfl
@[simp] theorem l1_mapSlots (s : State) (c : Nat) (f : Slot → Slot) (c' x : Nat) : (s.mapSlots c f).l1 c' x = s.l1 c' x := rfl

/-- A registration ends, and the owner's copy goes. -/
def State.unregister (s : State) (ha : Nat) : State :=
  match s.ownerOf ha with
  | some c => (s.delOwner ha).dropL1 c ha
  | none => s

theorem unregister_keeps (s : State) (ha : Nat) : { s.unregister ha with caches := s.caches } = s := by
  unfold State.unregister; split <;> rfl

theorem ownerOf_unregister (s : State) (ha : Nat) : (s.unregister ha).ownerOf ha = none := by
  unfold State.unregister
  split
  · simp
  · assumption

theorem l1_unregister {s : State} {ha c : Nat} (h : s.ownerOf ha = some c) : (s.unregister ha).l1 c ha = none := by
  simp [State.unregister, h]

/-- An error in an L1 word that is not clean: the word and its registration are lost, with the loads that wait for it. -/
theorem hardError_l1 {s : State} {unit addr : Nat} {x : L1Word} (hx : s.l1 unit (addr / 4 * 4) = some x) (hv : x.st ≠ .v) :
    s.hardError 0 unit addr =
      ((((s.unregister (addr / 4 * 4)).dropL1 unit (addr / 4 * 4)).setLost (addr / 4 * 4) true).mapSlots unit
        (loseSlot (addr / 4 * 4) .ownerLost)) := by
  simp only [State.hardError, hx, if_neg hv]
  rfl

theorem hardError_l1_clean {s : State} {unit addr : Nat} {x : L1Word} (hx : s.l1 unit (addr / 4 * 4) = some x)
    (hv : x.st = .v) : s.hardError 0 unit addr = s.dropL1 unit (addr / 4 * 4) := by
  simp only [State.hardError, hx, if_pos hv]

theorem hardError_l1_effect {s : State} {unit addr : Nat} {x : L1Word} (hx : s.l1 unit (addr / 4 * 4) = some x) :
    let t := s.hardError 0 unit addr
    t.l1 unit (addr / 4 * 4) = none ∧ t.mem = s.mem ∧
      (x.st ≠ .v → t.groups = (s.mapSlots unit (loseSlot (addr / 4 * 4) .ownerLost)).groups ∧
        t.isLost (addr / 4 * 4) = true ∧ t.ownerOf (addr / 4 * 4) = none ∧
        ∀ c, s.ownerOf (addr / 4 * 4) = some c → t.l1 c (addr / 4 * 4) = none) ∧
      (x.st = .v → t = s.dropL1 unit (addr / 4 * 4)) := by
  by_cases hv : x.st = .v
  · rw [hardError_l1_clean hx hv]
    exact ⟨l1_dropL1_same .., rfl, fun h => absurd hv h, fun _ => rfl⟩
  · have keeps := unregister_keeps s (addr / 4 * 4)
    rw [hardError_l1 hx hv]
    refine ⟨by simp, (congrArg State.mem keeps :), fun _ => ⟨?_, by simp, by simp [ownerOf_unregister], fun c hc => ?_⟩,
      fun h => absurd h hv⟩
    · exact (congrArg (fun u : State => (u.mapSlots unit (loseSlot (addr / 4 * 4) .ownerLost)).groups) keeps :)
    · rw [l1_mapSlots, l1_setLost]
      exact l1_dropL1_none _ _ (l1_unregister hc)

/-! ### Registry lines -/

theorem loseWord_of_owner {s : State} {ha c : Nat} (h : s.ownerOf ha = some c) :
    s.loseWord ha = ((s.delOwner ha).dropL1 c ha).setLost ha true := by
  simp only [State.loseWord, h]

theorem loseWord_groups (s : State) (ha : Nat) : (s.loseWord ha).groups = s.groups := by
  unfold State.loseWord; split <;> rfl

theorem ownerOf_loseWord_other (s : State) {a x : Nat} (h : x ≠ a) : (s.loseWord a).ownerOf x = s.ownerOf x := by
  unfold State.loseWord; split <;> simp [h]

/-- A word is lost: the home's mark is set, no core owns it, and core `c` holds it no more. -/
def State.lostAt (s : State) (c x : Nat) : Prop := s.isLost x = true ∧ s.ownerOf x = none ∧ s.l1 c x = none

theorem lostAt_loseWord {s : State} {x c : Nat} (h : s.ownerOf x = some c) : (s.loseWord x).lostAt c x := by
  rw [loseWord_of_owner h]
  exact ⟨by simp, by simp, by simp⟩

theorem lostAt_loseWord_of_lostAt {s : State} {c x : Nat} (a : Nat) (h : s.lostAt c x) : (s.loseWord a).lostAt c x := by
  obtain ⟨hl, ho, h1⟩ := h
  cases ha : s.ownerOf a with
  | none => simpa only [State.loseWord, ha] using ⟨hl, ho, h1⟩
  | some c' =>
    rw [loseWord_of_owner ha]
    refine ⟨by simp [hl], by simp [ho], ?_⟩
    rw [l1_setLost]
    exact l1_dropL1_none _ _ h1

theorem lostAt_loseWords {xs : List Nat} {x c : Nat} {s : State} (hx : x ∈ xs) (h : s.ownerOf x = some c) :
    (xs.foldl (fun u ha => u.loseWord ha) s).lostAt c x := by
  have keep : ∀ (ys : List Nat) (u : State), u.lostAt c x → (ys.foldl (fun u ha => u.loseWord ha) u).lostAt c x := by
    intro ys
    induction ys with
    | nil => exact fun _ hu => hu
    | cons y ys ih => exact fun u hu => ih _ (lostAt_loseWord_of_lostAt y hu)
  induction xs generalizing s with
  | nil => cases hx
  | cons y ys ih =>
    rw [List.foldl_cons]
    by_cases e : x = y
    · subst e; exact keep ys _ (lostAt_loseWord h)
    · exact ih ((List.mem_cons.1 hx).resolve_left e) (by rw [ownerOf_loseWord_other s e, h])

theorem hardError_registry (s : State) (unit addr : Nat) :
    let t := s.hardError 6 unit addr
    t.groups = s.groups ∧ ∀ i c, i < 16 → s.ownerOf (lineOf addr + 4 * i) = some c →
      t.isLost (lineOf addr + 4 * i) = true ∧ t.ownerOf (lineOf addr + 4 * i) = none ∧ t.l1 c (lineOf addr + 4 * i) = none :=
  ⟨foldl_keeps State.groups loseWord_groups _ _, fun i _ hi ho =>
    lostAt_loseWords (List.mem_map.2 ⟨i, List.mem_range.2 hi, rfl⟩) ho⟩

/-! ### Bank engines -/

/-- What an error of a bank engine does to an operation (R249). -/
def failBankOp (s : State) (bank : Nat) (o : Op) : Op :=
  match o.kind with
  | .engine e =>
    if e.code == 4 && e.started && !o.done then
      match e.pages.find? fun x => x.2.ilv == 1 && (s.burstOf x.2 (x.1 * 65536)).any fun b => b.1 == bank with
      | some x => { o with fail := o.fail.or (some ⟨.dataLost, x.1 * 65536⟩) }
      | none => o
    else o
  | _ => o

/-- The same for every operation of a group. -/
def failBankGroup (s : State) (bank : Nat) (g : Group) : Group := { g with ops := g.ops.map (failBankOp s bank) }

theorem failBank_groups (s : State) (bank : Nat) :
    (s.failBank bank).groups = s.groups.map fun p => (p.1, failBankGroup s bank p.2) := rfl

theorem failBank_ops (s : State) (bank k : Nat) : ((s.failBank bank).group k).ops = (s.group k).ops.map (failBankOp s bank) := by
  rw [State.group, mget, failBank_groups, mfind_map fun _ => failBankGroup s bank]
  unfold State.group mget
  cases mfind k s.groups <;> rfl

theorem failBankOp_hit {s : State} {bank : Nat} {o : Op} {e : EngineOp} {x : Nat × Leaf} (hk : o.kind = .engine e)
    (hc : e.code = 4) (hs : e.started = true) (hd : o.done = false) (hp : e.pages = [x]) (hi : x.2.ilv = 1)
    (hb : ∃ b, s.burstOf x.2 (x.1 * 65536) = some b ∧ b.1 = bank) :
    failBankOp s bank o = { o with fail := o.fail.or (some ⟨.dataLost, x.1 * 65536⟩) } := by
  obtain ⟨b, hb, rfl⟩ := hb
  simp only [failBankOp, hk]
  simp [hc, hs, hd, hp, hi, hb]

theorem failBankOp_miss {s : State} {bank : Nat} {o : Op} {e : EngineOp} (hk : o.kind = .engine e)
    (h : e.code ≠ 4 ∨ e.started = false ∨ o.done = true) : failBankOp s bank o = o := by
  have hn : (e.code == 4 && e.started && !o.done) = false := by
    rcases h with h | h | h <;> simp [h]
  simp only [failBankOp, hk, hn, Bool.false_eq_true, if_false]

theorem hardError_bank (s : State) (unit : Nat) {addr : Nat} (h : isHbm addr = false) :
    let t := s.hardError 8 unit addr
    { t with groups := s.groups } = s ∧
      ∀ k o, o ∈ (s.group k).ops → ∀ e, o.kind = .engine e →
        (e.code = 4 → e.started = true → o.done = false → ∀ x, e.pages = [x] → x.2.ilv = 1 →
          (∃ b, s.burstOf x.2 (x.1 * 65536) = some b ∧ b.1 = unit) →
          { o with fail := o.fail.or (some ⟨.dataLost, x.1 * 65536⟩) } ∈ (t.group k).ops) ∧
        (e.code ≠ 4 ∨ e.started = false ∨ o.done = true → o ∈ (t.group k).ops) := by
  have ht : s.hardError 8 unit addr = s.failBank unit := by simp only [State.hardError, h, Bool.false_eq_true, if_false]
  rw [ht]
  refine ⟨rfl, fun k o ho e hk => ⟨fun hc hs hd x hp hi hb => ?_, fun hm => ?_⟩⟩
  · rw [failBank_ops, ← failBankOp_hit hk hc hs hd hp hi hb]
    exact List.mem_map_of_mem ho
  · rw [failBank_ops]
    exact List.mem_map.2 ⟨o, ho, failBankOp_miss hk hm⟩

/-! ### The other structures -/

theorem hardError_register {s : State} {unit addr k : Nat}
    (h : s.slotGroup (unit / 16) (4 * (unit % 16) + addr / 4096) = some k) :
    s.hardError 2 unit addr = s.updGroup k fun g => g.setMark (addr % 4096 / 32) (addr % 32) ⟨.dataLost, 0⟩ := by
  simp only [State.hardError, h]

theorem hardError_tile {s : State} {unit addr k : Nat} (h : s.slotGroup unit (addr / 16) = some k) :
    s.hardError 3 unit addr =
      s.updGroup k fun g => g.setTile (addr % 16) { g.tile (addr % 16) with mark := some ⟨.dataLost, 0⟩ } := by
  simp only [State.hardError, h]

/-- An error of a scratchpad, the pocket or a stack spoils the unit of its words (R297). -/
theorem hardError_memory {s : State} {kind unit addr a n : Nat} (hu : unit < structures kind)
    (h : (kind = 1 ∧ addr < 2 ^ 22 ∧ a = scratchPA unit addr ∧ n = 1) ∨
      (kind = 7 ∧ regionOf addr = 1 ∧ addr < 2 ^ 48 + 2 ^ 24 ∧ a = addr ∧ n = 2) ∨
      (kind = 8 ∧ isHbm addr = true ∧ a = addr ∧ n = 8)) : s.hardError kind unit addr = s.spoil a n := by
  rcases h with ⟨rfl, ha, rfl, rfl⟩ | ⟨rfl, hr, ha, rfl, rfl⟩ | ⟨rfl, hh, rfl, rfl⟩
  · exact if_pos ⟨hu, ha⟩
  · exact if_pos ⟨hr, ha⟩
  · exact if_pos hh

theorem hardError_transfer {s : State} {kind unit : Nat} (addr : Nat) (hu : unit < structures kind) (hk : 9 ≤ kind) :
    s.hardError kind unit addr = { s with caches := { s.caches with cut := some (s.tick + 1, paOf addr / 4 * 4) } } := by
  have h11 := structures_kind_lt hu
  obtain rfl | rfl : kind = 9 ∨ kind = 10 := by omega
  all_goals rfl

end Sys2Proof.Machine
end

section
/-!
SUPPORT. Device time, synchronisation and the window length (O53, its third part).
-/

namespace Sys2Proof.Machine

/-! ### Synchronisation -/

theorem setSync_same {s : State} {st : Nat} (h : s.dev.sync = st) :
    s.setSync st = { s with dev := { s.dev with sync := st } } := by
  subst h; exact if_pos rfl

theorem setSync_other {s : State} {st : Nat} (h : s.dev.sync ≠ st) :
    s.setSync st = ({ s with dev := { s.dev with sync := st } } : State).deviceEvent 0x13 st s.dev.err := if_neg h

/-- A Sync steps the device time (R330). -/
def syncSteps (s : State) (off : Int) : Bool := !s.dev.stepped && 1000000 < off.natAbs && !s.dev.admitted

theorem syncSteps_iff (s : State) (off : Int) :
    syncSteps s off = true ↔ s.dev.stepped = false ∧ 1000000 < off.natAbs ∧ s.dev.admitted = false := by
  simp [syncSteps, and_assoc]

theorem exec_syncReceived {s : State} {off : Int} {time : Nat} {stepped : Bool}
    (ht : time = if syncSteps s off then (((s.dev.time : Int) + off) % 2 ^ 64).toNat else s.dev.time)
    (hs : stepped = (s.dev.stepped || syncSteps s off)) :
    exec (.syncReceived off) s = .next (({ s with dev := { s.dev with
      time := time, stepped := stepped, lastSync := time, err := off.natAbs } } : State).setSync 0) := by
  subst ht hs; rfl

theorem syncReceived_effect (s : State) (off : Int) :
    let step := s.dev.stepped = false ∧ 1000000 < off.natAbs ∧ s.dev.admitted = false
    ∀ time, (step → time = (((s.dev.time : Int) + off) % 2 ^ 64).toNat) → (¬ step → time = s.dev.time) →
    ∀ stepped, (stepped = true ↔ s.dev.stepped = true ∨ step) →
    let u : State := { s with dev := { s.dev with time := time, stepped := stepped, lastSync := time, err := off.natAbs, sync := 0 } }
    (s.dev.sync = 0 → exec (.syncReceived off) s = .next u) ∧
    (s.dev.sync ≠ 0 → exec (.syncReceived off) s = .next (u.deviceEvent 0x13 0 off.natAbs)) := by
  intro step time hstep hstay stepped hst u
  have ht : time = if syncSteps s off then (((s.dev.time : Int) + off) % 2 ^ 64).toNat else s.dev.time := by
    by_cases h : step
    · rw [hstep h, if_pos ((syncSteps_iff s off).2 h)]
    · rw [hstay h, if_neg (mt (syncSteps_iff s off).1 h)]
  have hs : stepped = (s.dev.stepped || syncSteps s off) := by
    rw [Bool.eq_iff_iff, hst, Bool.or_eq_true, syncSteps_iff]
  rw [exec_syncReceived ht hs]
  refine ⟨fun h => ?_, fun h => ?_⟩
  · rw [setSync_same (by exact h)]
  · rw [setSync_other (by exact h)]

theorem holdover_begins {s : State} (h0 : s.dev.sync = 0) (ht : s.dev.lastSync + 2000000000 ≤ s.dev.time) :
    let e := s.dev.err + Config.driftAllowed 2000000000
    s.holdover = ({ s with dev := { s.dev with holdAt := s.dev.lastSync + 2000000000, err := e, sync := 1 } } : State).deviceEvent
      0x13 1 e := by
  have hs : (s.updDev fun d =>
      { d with holdAt := d.lastSync + 2000000000, err := d.err + Config.driftAllowed 2000000000 }).dev.sync ≠ 1 := by
    rw [show State.dev _ = _ from updDev_dev .., h0]; decide
  rw [State.holdover, if_neg (by omega), setSync_other hs]
  rfl

theorem holdover_not {s : State} (h : s.dev.sync ≠ 0 ∨ s.dev.time < s.dev.lastSync + 2000000000) : s.holdover = s := if_pos h

theorem syncLoss_begins {s : State} (h1 : s.dev.sync = 1) (ht : s.dev.holdAt + 60000000000 ≤ s.dev.time) :
    let e := s.dev.err + 120000
    s.syncLoss = ({ s with dev := { s.dev with err := e, sync := 2 } } : State).deviceEvent 0x13 2 e := by
  have hs : (s.updDev fun d => { d with err := d.err + 120000 }).dev.sync ≠ 2 := by
    rw [show State.dev _ = _ from updDev_dev .., h1]; decide
  rw [State.syncLoss, if_neg (by omega), setSync_other hs]
  rfl

theorem syncLoss_not {s : State} (h : s.dev.sync ≠ 1 ∨ s.dev.time < s.dev.holdAt + 60000000000) : s.syncLoss = s := if_pos h

theorem syncLost_effect (s : State) :
    (s.dev.sync = 0 → s.dev.lastSync + 2000000000 ≤ s.dev.time →
      let e := s.dev.err + Config.driftAllowed 2000000000
      exec .syncHoldover s =
        .next (({ s with dev := { s.dev with holdAt := s.dev.lastSync + 2000000000, err := e, sync := 1 } } : State).deviceEvent
          0x13 1 e)) ∧
    (s.dev.sync ≠ 0 ∨ s.dev.time < s.dev.lastSync + 2000000000 → exec .syncHoldover s = .next s) ∧
    (s.dev.sync = 1 → s.dev.holdAt + 60000000000 ≤ s.dev.time →
      let e := s.dev.err + 120000
      exec .syncLost s = .next (({ s with dev := { s.dev with err := e, sync := 2 } } : State).deviceEvent 0x13 2 e)) ∧
    (s.dev.sync ≠ 1 ∨ s.dev.time < s.dev.holdAt + 60000000000 → exec .syncLost s = .next s) :=
  ⟨fun h ht => congrArg Host.Outcome.next (holdover_begins h ht), fun h => congrArg Host.Outcome.next (holdover_not h),
    fun h ht => congrArg Host.Outcome.next (syncLoss_begins h ht), fun h => congrArg Host.Outcome.next (syncLoss_not h)⟩

/-! ### The window length -/

theorem command_body {s : State} (h : s.dev.recovery = false) (body : State → State) : s.command body = body s := by
  rw [State.command, h]; exact if_neg (by decide)

theorem powerIn_of_pow {lo hi n : Nat} (hp : ∃ i, i < 64 ∧ n = 2 ^ i) (hl : lo ≤ n) (hh : n ≤ hi) : powerIn lo hi n = true := by
  obtain ⟨i, hi64, rfl⟩ := hp
  have : ∃ j, j < 64 ∧ 2 ^ j = 2 ^ i := ⟨i, hi64, rfl⟩
  simpa [powerIn, hl, hh] using this

theorem powerIn_outside {lo hi n : Nat} (h : n < lo ∨ hi < n) : powerIn lo hi n = false := by
  have : (decide (lo ≤ n) && decide (n ≤ hi)) = false := by
    rcases h with h | h <;> simp [Nat.not_le.2 h]
  rw [powerIn, this, Bool.false_and]

theorem wlen_effect {s : State} (hr : s.dev.recovery = false) (ns : Nat) :
    ((∃ i, i < 64 ∧ ns = 2 ^ i) → 1024 ≤ ns → ns ≤ 65536 →
      exec (.wlen ns) s = .next { s with dev := { s.dev with
        wlenNext := some ns, wlenAt := (s.dev.time / 65536 + 1) * 65536, status := 0, report := [] } }) ∧
    (ns < 1024 ∨ 65536 < ns → exec (.wlen ns) s = .next (s.answerCmd 3)) := by
  have hx : exec (.wlen ns) s = .next (s.command fun s => if !powerIn 1024 65536 ns then s.answerCmd 3
    else (s.updDev fun d => { d with wlenNext := some ns, wlenAt := (d.time / 65536 + 1) * 65536 }).answerCmd 0) := rfl
  rw [hx, command_body hr]
  refine ⟨fun hp hl hh => ?_, fun h => ?_⟩
  · rw [powerIn_of_pow hp hl hh, if_neg (by decide)]
    rfl
  · rw [powerIn_outside h]
    rfl

/-- The new number of a window ends no earlier than the old one did: two windows of room are reckoned in both. -/
theorem rewindow_ends (old : Nat) {n : Nat} (hn : 0 < n) (w : Nat) : (w + 2) * old ≤ (rewindow old n w + 2) * n := by
  have hq : (w + 2) * old ≤ ((w + 2) * old + n - 1) / n * n := by
    have := Nat.div_add_mod ((w + 2) * old + n - 1) n
    have := Nat.mod_lt ((w + 2) * old + n - 1) hn
    rw [Nat.mul_comm n] at *
    omega
  exact Nat.le_trans hq (Nat.mul_le_mul_right n (by unfold rewindow; omega))

def renumberGroup (r : Nat → Nat) (g : Group) : Group := { g with nlast := g.nlast.map r, hold := g.hold.map r }
def renumberTeam (r : Nat → Nat) (x : Team) : Team := { x with nlast := x.nlast.map r }
def renumberStream (r : Nat → Nat) (x : Stream) : Stream := { x with lost := r x.lost }

section
variable (s : State) (r : Nat → Nat)

theorem renumber_groups : (s.renumber r).groups = s.groups.map fun p => (p.1, renumberGroup r p.2) := rfl
theorem renumber_teams : (s.renumber r).teams = s.teams.map fun p => (p.1, renumberTeam r p.2) := rfl
theorem renumber_late : (s.renumber r).late = s.late.map fun p => (p.1, r p.2) := rfl
theorem renumber_streams : (s.renumber r).dev.streams = s.dev.streams.map fun p => (p.1, renumberStream r p.2) := rfl

theorem renumber_group (k : Nat) : (s.renumber r).group k = renumberGroup r (s.group k) := by
  rw [State.group, mget, renumber_groups, mfind_map fun _ => renumberGroup r]
  unfold State.group mget
  cases mfind k s.groups <;> rfl

end

/-- The staged length is in force, with every noted window numbered anew. -/
theorem applyWlen_at {s : State} {n : Nat} (hn : s.dev.wlenNext = some n) (ht : s.dev.wlenAt ≤ s.dev.time) :
    s.applyWlen = (s.updDev fun d => { d with wlen := n, wlenNext := none }).renumber (rewindow s.dev.wlen n) := by
  unfold State.applyWlen
  rw [hn]
  exact if_neg (Nat.not_lt.2 ht)

theorem applyWlen_not {s : State} (h : s.dev.wlenNext = none ∨ s.dev.time < s.dev.wlenAt) : s.applyWlen = s := by
  unfold State.applyWlen
  split
  · rfl
  · next e => exact if_pos (h.resolve_left (by rw [e]; exact Option.some_ne_none _))

theorem wlenApply_effect {s : State} {n : Nat} (hn : s.dev.wlenNext = some n) (h0 : 0 < n) (ht : s.dev.wlenAt ≤ s.dev.time) :
    ∃ (t : State) (r : Nat → Nat), exec .wlenApply s = .next t ∧
      t.dev = { s.dev with wlen := n, wlenNext := none, streams := t.dev.streams } ∧
      { t with groups := s.groups, teams := s.teams, launches := s.launches, late := s.late, dev := s.dev } = s ∧
      (∀ w, (w + 2) * s.dev.wlen ≤ (r w + 2) * n) ∧
      (∀ k, t.group k = { s.group k with nlast := (s.group k).nlast.map r, hold := (s.group k).hold.map r }) ∧
      (∀ c, mfind c t.teams = (mfind c s.teams).map fun x => { x with nlast := x.nlast.map r }) ∧
      (∀ k, mfind k t.late = (mfind k s.late).map r) ∧
      (∀ j, mfind j t.dev.streams = (mfind j s.dev.streams).map fun x => { x with lost := r x.lost }) := by
  refine ⟨_, rewindow s.dev.wlen n, congrArg Host.Outcome.next (applyWlen_at hn ht), rfl, rfl, rewindow_ends _ h0, fun k => ?_,
    fun c => ?_, fun k => ?_, fun j => ?_⟩
  · exact renumber_group _ _ k
  · rw [renumber_teams]; exact mfind_map (fun _ => renumberTeam _) c s.teams
  · rw [renumber_late]; exact mfind_map (fun _ => _) k s.late
  · rw [renumber_streams]; exact mfind_map (fun _ => renumberStream _) j s.dev.streams

end Sys2Proof.Machine
end

section
/-!
SUPPORT. The loss of the bound, and what time brings (O53, its fourth part).
-/

namespace Sys2Proof.Machine

/-! ### Folds that change nothing or one key each -/

theorem foldl_eq_self {σ α : Type} {f : σ → α → σ} {s : σ} {xs : List α} (h : ∀ x ∈ xs, f s x = s) : xs.foldl f s = s := by
  induction xs with
  | nil => rfl
  | cons x xs ih =>
    rw [List.foldl_cons, h x List.mem_cons_self]
    exact ih fun y hy => h y (List.mem_cons_of_mem _ hy)

/-- Keys that are changed in turn, by a function that gains nothing from a second use. -/
theorem mfind_foldl_mset {α : Type} (d : α) {f : α → α} (hf : ∀ x, f (f x) = f x) (ks : List Nat) (m : Map α) (j : Nat) :
    mfind j (ks.foldl (fun m k => mset k (f (mget d m k)) m) m) = if j ∈ ks then some (f (mget d m j)) else mfind j m := by
  induction ks generalizing m with
  | nil => simp
  | cons k ks ih =>
    rw [List.foldl_cons, ih, mget_mset, mfind_mset]
    by_cases hk : j = k
    · subst hk; simp [hf]
    · simp [hk]

/-! ### Streams that no port serves -/

theorem streamOver_not {s : State} {n : Nat} (h : s.cutOff n = false ∨ s.dev.time < s.cutAt n + 10000000) :
    s.streamOver n = s := by
  refine if_pos ?_
  rcases h with h | h <;> simp [h]

theorem streamsOver_not {s : State} (h : ∀ p ∈ s.dev.cut, s.cutOff p.1 = false ∨ s.dev.time < s.cutAt p.1 + 10000000) :
    s.streamsOver = s := by
  refine foldl_eq_self fun n hn => ?_
  obtain ⟨p, hp, rfl⟩ := List.mem_map.1 hn
  exact streamOver_not (h p hp)

theorem unbounded_iff (s : State) (n : Nat) : s.unbounded n = true ↔ s.dev.wlen < 2 * s.dev.errNow ∨ s.cutOff n = true := by
  simp [State.unbounded]

/-! ### A stream loses the bound -/

/-- A stream goes under acknowledgement ordering in window `w`. -/
def missBound (w : Nat) (x : Stream) : Stream := { x with ack := true, lost := w }

/-- A group learns that a stream of its requests has lost the bound. -/
def setOverrun (b : Bool) (g : Group) : Group := { g with overrun := g.overrun || b }

theorem setOverrun_false (g : Group) : setOverrun false g = g := by
  rw [setOverrun, Bool.or_false]

theorem setOverrun_setOverrun (a b : Bool) (g : Group) : setOverrun b (setOverrun a g) = setOverrun (a || b) g := by
  rw [setOverrun, setOverrun, setOverrun, Bool.or_assoc]

def State.overrunGroup (s : State) (k : Nat) : State :=
  if (mfind k s.groups).isSome then s.updGroup k fun g => { g with overrun := true } else s

theorem boundLost_eq (s : State) (n : Nat) :
    s.boundLost n = (s.senders n).foldl State.overrunGroup (s.setStream n (missBound s.window (s.stream n))) := rfl

theorem overrunGroup_dev (s : State) (k : Nat) : (s.overrunGroup k).dev = s.dev := by
  unfold State.overrunGroup; split <;> rfl

theorem overrunGroup_caches (s : State) (k : Nat) : (s.overrunGroup k).caches = s.caches := by
  unfold State.overrunGroup; split <;> rfl

theorem mfind_overrunGroup (s : State) (k j : Nat) :
    mfind j (s.overrunGroup k).groups = (mfind j s.groups).map (setOverrun (decide (j = k))) := by
  unfold State.overrunGroup
  by_cases hj : j = k
  · subst hj
    cases h : mfind j s.groups with
    | none => simp [h]
    | some g =>
      rw [if_pos (Option.isSome_some (a := g)), State.updGroup_eq, State.setGroup, mfind_mset_same, State.group, mget, h]
      simp [setOverrun]
  · have hid : setOverrun (decide (j = k)) = id := funext fun g => by rw [decide_eq_false hj]; exact setOverrun_false g
    rw [hid, Option.map_id]
    split
    · exact mfind_mset_other hj _ _
    · rfl

theorem mfind_overrunGroups (ks : List Nat) (s : State) (j : Nat) :
    mfind j (ks.foldl State.overrunGroup s).groups = (mfind j s.groups).map (setOverrun (decide (j ∈ ks))) := by
  induction ks generalizing s with
  | nil =>
    have hid : setOverrun (decide (j ∈ ([] : List Nat))) = id := funext setOverrun_false
    rw [hid, Option.map_id]; rfl
  | cons k ks ih =>
    rw [List.foldl_cons, ih, mfind_overrunGroup, Option.map_map]
    congr 1
    funext g
    rw [Function.comp_apply, setOverrun_setOverrun, ← Bool.decide_or]
    simp only [List.mem_cons]

theorem boundLost_dev (s : State) (n : Nat) :
    (s.boundLost n).dev = { s.dev with streams := mset n (missBound s.window (s.stream n)) s.dev.streams } := by
  rw [boundLost_eq]
  exact foldl_keeps State.dev overrunGroup_dev _ _

theorem boundLost_caches (s : State) (n : Nat) : (s.boundLost n).caches = s.caches := by
  rw [boundLost_eq]
  exact foldl_keeps State.caches overrunGroup_caches _ _

theorem boundLost_window (s : State) (n : Nat) : (s.boundLost n).window = s.window := by
  rw [State.window, boundLost_dev]; rfl

theorem boundLost_senders (s : State) (n m : Nat) : (s.boundLost n).senders m = s.senders m := by
  rw [State.senders, boundLost_caches]; rfl

theorem boundLost_unbounded (s : State) (n m : Nat) : (s.boundLost n).unbounded m = s.unbounded m := by
  unfold State.unbounded State.cutOff
  rw [boundLost_dev]; rfl

theorem mfind_boundLost_groups (s : State) (n j : Nat) :
    mfind j (s.boundLost n).groups = (mfind j s.groups).map (setOverrun (decide (j ∈ s.senders n))) := by
  rw [boundLost_eq, mfind_overrunGroups]; rfl

theorem boundsLost_streams (ns : List Nat) (s : State) :
    (ns.foldl State.boundLost s).dev.streams =
      ns.foldl (fun m n => mset n (missBound s.window (mget {} m n)) m) s.dev.streams := by
  induction ns generalizing s with
  | nil => rfl
  | cons n ns ih =>
    rw [List.foldl_cons, List.foldl_cons, ih, boundLost_window, boundLost_dev]; rfl

theorem mfind_boundsLost_streams (ns : List Nat) (s : State) (j : Nat) :
    mfind j (ns.foldl State.boundLost s).dev.streams =
      if j ∈ ns then some (missBound s.window (s.stream j)) else mfind j s.dev.streams := by
  rw [boundsLost_streams, mfind_foldl_mset {} (f := missBound s.window) fun _ => rfl]; rfl

theorem boundsLost_overrun {ns : List Nat} {n k : Nat} (hn : n ∈ ns) {s : State} (hk : k ∈ s.senders n) {g : Group}
    (hg : mfind k s.groups = some g) : ∃ g', mfind k (ns.foldl State.boundLost s).groups = some g' ∧ g'.overrun = true := by
  have keep : ∀ (ms : List Nat) (u : State) (x : Group), mfind k u.groups = some x → x.overrun = true →
      ∃ g', mfind k (ms.foldl State.boundLost u).groups = some g' ∧ g'.overrun = true := by
    intro ms
    induction ms with
    | nil => exact fun u x hx ho => ⟨x, hx, ho⟩
    | cons m ms ih =>
      intro u x hx ho
      exact ih _ (setOverrun (decide (k ∈ u.senders m)) x) (by rw [mfind_boundLost_groups, hx]; rfl) (by simp [setOverrun, ho])
  induction ns generalizing s g with
  | nil => cases hn
  | cons m ns ih =>
    have hm : mfind k (s.boundLost m).groups = some (setOverrun (decide (k ∈ s.senders m)) g) := by
      rw [mfind_boundLost_groups, hg]; rfl
    rw [List.foldl_cons]
    by_cases e : n = m
    · subst e; exact keep ns _ _ hm (by simp [setOverrun, hk])
    · exact ih ((List.mem_cons.1 hn).resolve_left e) (by rwa [boundLost_senders]) hm

theorem mem_senders {s : State} {p : Nat × Flight} (hp : p ∈ s.caches.flights) (hr : p.2.route = .remote) :
    p.2.grp ∈ s.senders p.2.node := by
  simp only [State.senders, List.mem_eraseDups, List.mem_map, List.mem_filter]
  exact ⟨p, ⟨hp, by simp [hr]⟩, rfl⟩

/-! ### The bound of every stream -/

/-- The streams that meet the bound. -/
def State.boundKeepers (s : State) : List Nat := (s.dev.streams.filter fun p => !p.2.ack).map Prod.fst

/-- First, each of them loses it where 2 × ERR is above WLEN. -/
def State.boundCheck (s : State) : State :=
  if s.dev.sync ≠ 2 ∧ s.dev.wlen < 2 * s.dev.errNow then s.boundKeepers.foldl State.boundLost s else s

/-- Then a stream that has lost it misses it on. -/
def missOn (s : State) (n : Nat) (x : Stream) : Stream := if x.ack && s.unbounded n then { x with lost := s.window } else x

theorem errBound_eq (s : State) : s.errBound = s.boundCheck.updDev fun d => { d with
    streams := d.streams.map fun p => (p.1, missOn s.boundCheck p.1 p.2) } := by
  have h : s.boundCheck = if s.dev.sync ≠ 2 ∧ s.dev.wlen < 2 * s.dev.errNow then
      (s.dev.streams.filter fun p => !p.2.ack).foldl (fun u p => u.boundLost p.1) s else s := by
    rw [State.boundCheck, State.boundKeepers, List.foldl_map]
  rw [h]; rfl

theorem boundCheck_lost {s : State} (h2 : s.dev.sync ≠ 2) (he : s.dev.wlen < 2 * s.dev.errNow) :
    s.boundCheck = s.boundKeepers.foldl State.boundLost s := if_pos ⟨h2, he⟩

theorem boundCheck_not {s : State} (h : s.dev.sync = 2 ∨ 2 * s.dev.errNow ≤ s.dev.wlen) : s.boundCheck = s :=
  if_neg fun ⟨h2, he⟩ => h.elim h2 (Nat.not_le.2 he)

/-- What every stream's loss keeps, the check keeps. -/
theorem boundCheck_keeps {β : Type} (p : State → β) (hp : ∀ u n, p (u.boundLost n) = p u) (s : State) : p s.boundCheck = p s := by
  unfold State.boundCheck
  split
  · exact foldl_keeps p hp _ _
  · rfl

theorem missOn_boundCheck (s : State) (n : Nat) : missOn s.boundCheck n = missOn s n := by
  funext x
  rw [missOn, missOn, boundCheck_keeps (fun u => u.unbounded n) fun u m => boundLost_unbounded u m n,
    boundCheck_keeps State.window boundLost_window]

theorem mfind_errBound_streams (s : State) (n : Nat) :
    mfind n s.errBound.dev.streams = (mfind n s.boundCheck.dev.streams).map (missOn s n) := by
  rw [errBound_eq, ← missOn_boundCheck]
  exact mfind_map (missOn s.boundCheck) n s.boundCheck.dev.streams

theorem errBound_groups (s : State) : s.errBound.groups = s.boundCheck.groups := by rw [errBound_eq]; rfl

theorem mem_boundKeepers {s : State} {n : Nat} {x : Stream} (h : mfind n s.dev.streams = some x) (ha : x.ack = false) :
    n ∈ s.boundKeepers :=
  List.mem_map.2 ⟨(n, x), List.mem_filter.2 ⟨mem_of_mfind h, by simp [ha]⟩, rfl⟩

theorem not_mem_boundKeepers {s : State} {n : Nat} (h : ∀ y, (n, y) ∈ s.dev.streams → y.ack = true) : n ∉ s.boundKeepers := by
  intro hn
  obtain ⟨⟨m, y⟩, hp, rfl⟩ := List.mem_map.1 hn
  obtain ⟨hm, hy⟩ := List.mem_filter.1 hp
  simp [h y hm] at hy

theorem errBound_not {s : State} (h : s.dev.sync = 2 ∨ 2 * s.dev.errNow ≤ s.dev.wlen)
    (hs : ∀ p ∈ s.dev.streams, p.2.ack = false ∨ s.unbounded p.1 = false) : s.errBound = s := by
  have same : (s.dev.streams.map fun p => (p.1, missOn s p.1 p.2)) = s.dev.streams := by
    refine (List.map_congr_left fun p hp => ?_).trans (List.map_id _)
    have hn : ¬ (p.2.ack && s.unbounded p.1) = true := by
      rcases hs p hp with e | e <;> simp [e]
    rw [missOn, if_neg hn]; rfl
  rw [errBound_eq, boundCheck_not h]
  exact congrArg (fun m => ({ s with dev := { s.dev with streams := m } } : State)) same

/-- A stream that has lost the bound misses it on as long as no link of its own can meet it. -/
theorem errBound_stream_misses {s : State} {n : Nat} {x : Stream} (hx : mfind n s.dev.streams = some x)
    (ha : ∀ y, (n, y) ∈ s.dev.streams → y.ack = true) :
    mfind n s.errBound.dev.streams = some (if s.unbounded n = true then { x with lost := s.window } else x) := by
  have hv : mfind n s.boundCheck.dev.streams = some x := by
    unfold State.boundCheck
    split
    · rw [mfind_boundsLost_streams, if_neg (not_mem_boundKeepers ha), hx]
    · exact hx
  rw [mfind_errBound_streams, hv, Option.map_some, missOn, ha x (mem_of_mfind hx), Bool.true_and]

theorem errBound_stream_loses {s : State} (h2 : s.dev.sync ≠ 2) (he : s.dev.wlen < 2 * s.dev.errNow) {n : Nat} {x : Stream}
    (hx : mfind n s.dev.streams = some x) (ha : x.ack = false) :
    mfind n s.errBound.dev.streams = some { x with ack := true, lost := s.window } := by
  have hst : s.stream n = x := by rw [State.stream, mget, hx]; rfl
  rw [mfind_errBound_streams, boundCheck_lost h2 he, mfind_boundsLost_streams, if_pos (mem_boundKeepers hx ha), hst,
    Option.map_some, missOn]
  split <;> rfl

theorem errBound_overruns {s : State} (h2 : s.dev.sync ≠ 2) (he : s.dev.wlen < 2 * s.dev.errNow) {p : Nat × Flight}
    (hp : p ∈ s.caches.flights) (hr : p.2.route = .remote) {x : Stream} (hx : mfind p.2.node s.dev.streams = some x)
    (ha : x.ack = false) (hg : (mfind p.2.grp s.groups).isSome = true) : (s.errBound.group p.2.grp).overrun = true := by
  obtain ⟨g, hg⟩ := Option.isSome_iff_exists.1 hg
  obtain ⟨g', hg', ho⟩ := boundsLost_overrun (mem_boundKeepers hx ha) (mem_senders hp hr) hg
  rw [State.group, mget, errBound_groups, boundCheck_lost h2 he, hg']
  exact ho

theorem onTime_effect (s : State) :
    s.onTime = ((((s.applyWlen).holdover).syncLoss).errBound).streamsOver ∧
    ((∀ p ∈ s.dev.cut, s.cutOff p.1 = false ∨ s.dev.time < s.cutAt p.1 + 10000000) → s.streamsOver = s) ∧
    (∀ n, s.unbounded n = true ↔ s.dev.wlen < 2 * s.dev.errNow ∨ s.cutOff n = true) ∧
    exec .wlenApply s = .next s.applyWlen ∧ exec .syncHoldover s = .next s.holdover ∧
    exec .syncLost s = .next s.syncLoss ∧
    (s.dev.sync = 2 ∨ 2 * s.dev.errNow ≤ s.dev.wlen →
      (∀ p ∈ s.dev.streams, p.2.ack = false ∨ s.unbounded p.1 = false) → s.errBound = s) ∧
    (∀ n x, mfind n s.dev.streams = some x → (∀ y, (n, y) ∈ s.dev.streams → y.ack = true) →
      mfind n s.errBound.dev.streams = some (if s.unbounded n = true then { x with lost := s.window } else x)) ∧
    (s.dev.sync ≠ 2 → s.dev.wlen < 2 * s.dev.errNow →
      (∀ n x, mfind n s.dev.streams = some x → x.ack = false →
        mfind n s.errBound.dev.streams = some { x with ack := true, lost := s.window }) ∧
      ∀ k, (∃ p ∈ s.caches.flights, ∃ x, p.2.route = .remote ∧ p.2.grp = k ∧
          mfind p.2.node s.dev.streams = some x ∧ x.ack = false) → (mfind k s.groups).isSome = true →
        (s.errBound.group k).overrun = true) := by
  refine ⟨rfl, streamsOver_not, unbounded_iff s, rfl, rfl, rfl, errBound_not, fun n x => errBound_stream_misses,
    fun h2 he => ⟨fun n x => errBound_stream_loses h2 he, ?_⟩⟩
  rintro k ⟨p, hp, x, hr, rfl, hx, ha⟩ hg
  exact errBound_overruns h2 he hp hr hx ha hg

end Sys2Proof.Machine
end

section
/-!
SUPPORT. Power and cooling; the device in service (O53).
-/

namespace Sys2Proof.Machine

/-! ### Every team is stopped -/

/-- A team is asked to halt and to be saved. -/
def stopTeam (x : Team) : Team := { x with haltReq := x.st != .halted, park := true }

/-- A value of a map is kept by a write, or is the one that it replaces. -/
theorem mem_mset_or_replaced {α : Type} {k : Nat} {v : α} {m : Map α} {p : Nat × α} (h : p ∈ m) :
    p ∈ mset k v m ∨ mfind k m = some p.2 := by
  induction m with
  | nil => cases h
  | cons q m ih =>
    obtain ⟨j, w⟩ := q
    rw [mset, mfind_cons]
    split
    · exact .inl (List.mem_cons_of_mem _ h)
    · split
      · rcases List.mem_cons.1 h with rfl | h
        · exact .inr rfl
        · exact .inl (List.mem_cons_of_mem _ h)
      · rcases List.mem_cons.1 h with rfl | h
        · exact .inl List.mem_cons_self
        · exact (ih h).imp_left (List.mem_cons_of_mem _)

theorem held_updTeam_stop {s : State} (c : Nat) (h : ∃ p ∈ s.teams, p.2.held = true) :
    ∃ p ∈ (s.updTeam c stopTeam).teams, p.2.held = true := by
  obtain ⟨p, hp, hh⟩ := h
  rcases mem_mset_or_replaced (k := c) (v := stopTeam (mget {} s.teams c)) hp with hm | hf
  · exact ⟨p, hm, hh⟩
  · refine ⟨(c, stopTeam (mget {} s.teams c)), mem_of_mfind (mfind_mset_same ..), ?_⟩
    rw [mget, hf]; exact hh

/-- The teams that hold their slots. -/
def State.heldTeams (s : State) : List Nat := (s.teams.filter fun t => t.2.held).map Prod.fst

def State.stopAll (s : State) (cs : List Nat) : State := cs.foldl (fun u c => u.updTeam c stopTeam) s

theorem stopTeams_all (s : State) : (s.stopTeams fun _ => true) = s.stopAll s.heldTeams := by
  simp only [State.stopAll, State.heldTeams, List.foldl_map, State.stopTeams, Bool.and_true]
  rfl

section
variable (cs : List Nat) (s : State)

theorem stopAll_groups : (s.stopAll cs).groups = s.groups :=
  foldl_keeps State.groups (f := fun u c => u.updTeam c stopTeam) (fun _ _ => rfl) cs s
theorem stopAll_dev : (s.stopAll cs).dev = s.dev :=
  foldl_keeps State.dev (f := fun u c => u.updTeam c stopTeam) (fun _ _ => rfl) cs s

theorem mfind_stopAll (c : Nat) :
    mfind c (s.stopAll cs).teams = if c ∈ cs then some (stopTeam (mget {} s.teams c)) else mfind c s.teams := by
  rw [← mfind_foldl_mset {} (f := stopTeam) fun _ => rfl]
  congr 1
  induction cs generalizing s with
  | nil => rfl
  | cons c cs ih => exact ih (s.updTeam c stopTeam)

@[simp] theorem stopAll_nil : s.stopAll [] = s := rfl

theorem held_stopAll (h : ∃ p ∈ s.teams, p.2.held = true) : ∃ p ∈ (s.stopAll cs).teams, p.2.held = true := by
  induction cs generalizing s with
  | nil => exact h
  | cons c cs ih => exact ih _ (held_updTeam_stop c h)

end

theorem mem_heldTeams {s : State} {c : Nat} : c ∈ s.heldTeams ↔ ∃ y, (c, y) ∈ s.teams ∧ y.held = true := by
  simp [State.heldTeams]

theorem heldTeams_eq_nil {s : State} (h : ∀ p ∈ s.teams, p.2.held = false) : s.heldTeams = [] := by
  rw [State.heldTeams, List.map_eq_nil_iff, List.filter_eq_nil_iff]
  exact fun p hp => by simp [h p hp]

/-! ### The dies power down -/

theorem powerDown_groups (s : State) : s.powerDown.groups = s.groups := by unfold State.powerDown; split <;> rfl
theorem powerDown_teams (s : State) : s.powerDown.teams = s.teams := by unfold State.powerDown; split <;> rfl
theorem powerDown_thermal (s : State) : s.powerDown.dev.thermal = s.dev.thermal := by unfold State.powerDown; split <;> rfl

theorem powerDown_off {s : State} (ht : s.dev.thermal = 2) (h : ∀ p ∈ s.teams, p.2.held = false) : s.powerDown.dev.off = true := by
  have hn : (s.teams.any fun t => t.2.held) = false := by
    rw [List.any_eq_false]; exact fun p hp => by simp [h p hp]
  rw [State.powerDown, if_pos (by simp [ht, hn])]
  rfl

theorem powerDown_not {s : State} (h : ∃ p ∈ s.teams, p.2.held = true) : s.powerDown = s := by
  have hy : (s.teams.any fun t => t.2.held) = true := List.any_eq_true.2 h
  exact if_neg (by simp [hy])

/-! ### The thermal state -/

@[simp] theorem setThermal_groups (s : State) (st x : Nat) : (s.setThermal st x).groups = s.groups := deviceEvent_groups ..
@[simp] theorem setThermal_teams (s : State) (st x : Nat) : (s.setThermal st x).teams = s.teams := deviceEvent_teams ..
@[simp] theorem setThermal_dev (s : State) (st x : Nat) : (s.setThermal st x).dev = { s.dev with thermal := st } :=
  deviceEvent_dev ..

theorem thermalShutdown_effect {s : State} {x : Nat} (hx : 110 ≤ x) (h2 : s.dev.thermal ≠ 2) :
    ∃ t : State, exec (.thermalShutdown x) s = .next t ∧ t.dev.thermal = 2 ∧ t.groups = s.groups ∧
      (∀ c y, mfind c s.teams = some y → y.held = true →
        mfind c t.teams = some { y with haltReq := y.st != .halted, park := true }) ∧
      (∀ c, (∀ y, (c, y) ∈ s.teams → y.held = false) → mfind c t.teams = mfind c s.teams) ∧
      ((∀ p ∈ s.teams, p.2.held = false) → t.dev.off = true) ∧
      ((∃ p ∈ s.teams, p.2.held = true) → t.dev.off = s.dev.off) := by
  have held : (s.setThermal 2 x).heldTeams = s.heldTeams := by rw [State.heldTeams, setThermal_teams]; rfl
  have hex : exec (.thermalShutdown x) s = .next ((s.setThermal 2 x).stopAll s.heldTeams).powerDown := by
    rw [← held, ← stopTeams_all]
    exact congrArg Host.Outcome.next (if_neg (by omega))
  refine ⟨_, hex, ?_, ?_, fun c y hc hy => ?_, fun c hc => ?_, fun h => ?_, fun h => ?_⟩
  · rw [powerDown_thermal, stopAll_dev, setThermal_dev]
  · rw [powerDown_groups, stopAll_groups, setThermal_groups]
  · rw [powerDown_teams, mfind_stopAll, if_pos (mem_heldTeams.2 ⟨y, mem_of_mfind hc, hy⟩), setThermal_teams, mget, hc]
    rfl
  · have hn : c ∉ s.heldTeams := fun hm => by
      obtain ⟨y, hy, hh⟩ := mem_heldTeams.1 hm
      exact Bool.noConfusion ((hc y hy).symm.trans hh)
    rw [powerDown_teams, mfind_stopAll, if_neg hn, setThermal_teams]
  · rw [heldTeams_eq_nil h, stopAll_nil]
    exact powerDown_off (by rw [setThermal_dev]) (by rwa [setThermal_teams])
  · rw [powerDown_not (held_stopAll _ _ (by rwa [setThermal_teams])), stopAll_dev, setThermal_dev]

theorem thermal_effect (s : State) (x : Nat) :
    (s.dev.thermal = 0 → 95 < x ∨ s.dev.cap < 1650 → exec (.thermalThrottle x) s =
      .next (({ s with dev := { s.dev with thermal := 1 } } : State).deviceEvent 0x17 1 x)) ∧
    (s.dev.thermal = 1 → x ≤ 95 → exec (.thermalNormal x) s =
      .next (({ s with dev := { s.dev with thermal := 0 } } : State).deviceEvent 0x17 0 x)) ∧
    (900 ≤ x → x ≤ 1650 → exec (.powerCapSet x) s = .next { s with dev := { s.dev with cap := x } }) ∧
    (x < 900 ∨ 1650 < x → exec (.powerCapSet x) s = .next s) ∧
    (x < 110 ∨ s.dev.thermal = 2 → exec (.thermalShutdown x) s = .next s) :=
  ⟨fun h hx => congrArg Host.Outcome.next (if_pos ⟨h, hx⟩), fun h hx => congrArg Host.Outcome.next (if_pos ⟨h, hx⟩),
    fun hl hh => congrArg Host.Outcome.next (if_pos ⟨hl, hh⟩), fun h => congrArg Host.Outcome.next (if_neg (by omega)),
    fun h => congrArg Host.Outcome.next (if_pos h)⟩

/-! ### The device in service -/

theorem softError_absent (s : State) {kind unit : Nat} (addr : Nat) (corrected : Bool) (h : structures kind ≤ unit) :
    exec (.softError kind unit addr corrected) s = .next s := congrArg Host.Outcome.next (if_pos h)

/-- Settles O53: one lemma for each event of the device in service, by the structure that an error is in, by the state of
synchronisation, and by what the time has come for. -/
theorem serviceEvents : Obligations.ServiceEvents := by
  refine ⟨fun s b m => ⟨rfl, fun hb hm hs => ⟨_, moduleRetrain_fails s hb hm hs, spareOut_module_effect s hm⟩⟩,
    fun s kind unit addr corrected h => softError_absent s addr corrected h, fun s kind unit addr hu => ?_,
    fun s a n _ => spoil_effect s a n, spoilSlice_effect, syncReceived_effect, syncLost_effect,
    fun s ns n => ⟨fun hr => (wlen_effect hr ns).1, fun hr => (wlen_effect hr ns).2,
      fun h => congrArg Host.Outcome.next (applyWlen_not h), wlenApply_effect⟩,
    onTime_effect, fun s x => ?_⟩
  · rw [softError_corrected s addr hu, softError_hard s addr hu]
    refine ⟨⟨_, rfl, softCount_effect s hu⟩, ?_, ?_, ?_, ?_, fun a n h => by rw [hardError_memory hu h], ?_, ?_, ?_,
      fun hk => by rw [hardError_transfer addr hu hk]⟩
    · rintro k hk rfl; rw [hardError_register hk]
    · rintro k hk rfl; rw [hardError_tile hk]
    · rintro rfl; rfl
    · rintro w hw rfl; exact ⟨_, rfl, hardError_l1_effect hw⟩
    · rintro rfl; rfl
    · rintro rfl; exact ⟨_, rfl, hardError_registry s unit addr⟩
    · rintro rfl h; exact ⟨_, rfl, hardError_bank s unit h⟩
  · obtain ⟨throttle, normal, cap, capOut, cool⟩ := thermal_effect s x
    exact ⟨throttle, normal, cap, capOut, cool, thermalShutdown_effect⟩

end Sys2Proof.Machine
end
